-- ==== Sys2Proof/Word.lean ====
section
/-! DEFINITION. The word types of the DRX-416 (R9: bit 0 least significant, little-endian). -/

namespace Sys2Proof

/-- A byte of device memory or of a packet. -/
abbrev Byte := BitVec 8

/-- A 16-bit value, such as one bfloat16. -/
abbrev Half := BitVec 16

/-- A 32-bit register or FP32 bit pattern. -/
abbrev Word := BitVec 32

/-- A 64-bit register. -/
abbrev DWord := BitVec 64

/-- One of the eight contexts C0 to C7. -/
abbrev CtxId := Fin 8

/-- A global port 0 to 31. -/
abbrev PortId := Fin 32

/-- One of the four compute dies. -/
abbrev DieId := Fin 4

/-- One of the twelve HBM stacks. -/
abbrev StackId := Fin 12

/-- One of the 1,360 engines, numbered die by die (340 on each). -/
abbrev EngineId := Fin 1360

end Sys2Proof
end

