-- ==== Sys2Proof/Config.lean ====
section
/-! DEFINITION. What an implementation fixes, and the values the manual leaves open: opaque constants, of which Lean can
prove no value. -/

namespace Sys2Proof.Config

/-- MODULE_SERIAL (Table 19-11): the serial number as marked. -/
opaque moduleSerial : BitVec 64

/-- A fresh free value, by the counter that State holds (log 3). -/
opaque freeValue : Nat → BitVec 64

/-- What a byte of HBM holds after HBM has lost its contents, by the loss and the address (log 33). -/
opaque lostByte : Nat → Nat → BitVec 8

/-- The correctly rounded result of a transcendental instruction (by OP code and operand) where the model's 400-bit
evaluation cannot decide it: R197 fixes the value, the model leaves it free (log 12). -/
opaque hardRounding : Nat → BitVec 32 → BitVec 32

/-- R253: the packed coding of a 4,096-byte unit by firmware version and step index, or none where it is not chosen, and
the data that a PACKED payload stands for. Neither is published (log 29). -/
opaque packedCode : Nat → Nat → List (BitVec 8) → Option (List (BitVec 8))
opaque packedData : Nat → List (BitVec 8) → List (BitVec 8)

/-- R431: the 512 bytes of an RSASSA-PSS signature by the identity key over some bytes. The key and the salt are the
module's own (log 41). -/
opaque identitySign : List (BitVec 8) → List (BitVec 8)

/-- R418, R432: whether the certificate chain that starts these staged bytes checks and its key verifies a signature (second
list) over some bytes (first list) (log 41). -/
opaque chainVerifies : List (BitVec 8) → List (BitVec 8) → List (BitVec 8) → Bool

/-- R431: the identity key's modulus. -/
opaque identityKey : Nat

/-- R430: the modulus of the Nyntidra firmware key, whose digest the ROM holds. -/
opaque firmwareKey : Nat

/-- What the flash holds when the module leaves the factory: the manufacturing partition and the firmware (Table 17-1,
R433), by flash address. -/
opaque factoryFlash : Nat → BitVec 8

/-! What the body of the manufacturing partition says. The spec gives it no layout (log 45). -/

/-- R430: the manufacturing key's modulus, where its certificate chains to the root whose digest the ROM holds. -/
opaque manufacturingKey : List (BitVec 8) → Option Nat
/-- R431, R432: whether the key store unwraps, the identity certificate checks and its key is the identity key. -/
opaque identityChecks : List (BitVec 8) → Bool
/-- The identity certificate (R434), and the chain of R432 that SPDM returns. -/
opaque identityCertificate : List (BitVec 8) → List (BitVec 8)
opaque identityChain : List (BitVec 8) → List (BitVec 8)
/-- R121: the disabled-unit map of an in-die cluster of a die. -/
opaque disabledMap : List (BitVec 8) → Nat → Nat → BitVec 17
/-- R362: the sixteen golden signatures, where they are present. -/
opaque goldenSigs : List (BitVec 8) → Option (List (BitVec 64))
/-- R303: the factory map-outs. -/
opaque factoryMapOuts : List (BitVec 8) → List Nat

/-- R433: the RSA-4096 key with exponent 65,537 of an X.509 v3 certificate, as its modulus and as encoded bytes (log 45). -/
opaque certKey : List (BitVec 8) → Option (Nat × List (BitVec 8))

/-- R445: the digest of the boot ROM. -/
opaque romDigest : List (BitVec 8)

/-- R445: the bytes that an SPDM signature covers, by the request and what the response reports: those of DMTF SPDM 1.3, which
the spec does not repeat (log 46). -/
opaque spdmTranscript : List (BitVec 8) → List (BitVec 8) → List (BitVec 8)

/-- R302: the sectors, within their pseudo-channel, that a row of the stack holds: its geometry, which the spec does not give
(log 76), by channel, pseudo-channel and row. -/
opaque rowSectors : Nat → Nat → Nat → List Nat

end Sys2Proof.Config
end

