-- ==== Sys2Proof/Syntax.lean ====
section
/-! DEFINITION. The commands of the block, one constructor of `Instr` per row of the opcode table, and the data a command
carries: packets, program images, and what the world reports to the device (a measurement, the outcome of a training). -/

namespace Sys2Proof

/-- A fabric packet (R320): the 32 B header of Table 12-5 as one number, and the payload. -/
structure Packet where
  hdr : BitVec 256
  payload : List Byte
  deriving DecidableEq, Repr

/-- A manifest (R21): its 64 B header, its 128 B barge descriptors, and the length of the section that holds it. -/
structure Manifest where
  header : BitVec 512
  barges : List (BitVec 1024)
  sectionBytes : Nat
  deriving DecidableEq, Repr

/-- A codebook that an image loads (R51): its id, base exponent and sixteen entries. -/
structure CodebookImage where
  id : Nat
  base : Byte
  entries : List Half
  deriving DecidableEq, Repr

/-- A kernel table entry of an image (Table 08-5) under its kernel id: where its instructions begin in the image's kernel
area and its constants in the constant area, counted in instructions and constants (log 20), how many, and CHECK. -/
structure KernelImage where
  id : Nat
  start : Nat
  count : Nat
  constCount : Nat
  constStart : Nat
  check : Word
  deriving DecidableEq, Repr

/-- What a program image holds (R468). The section directory's layout is not in the spec, so the sections are given
parsed; `raw` is the whole image, from which the header, CHECK and the identifier are taken; `dirError` is the byte offset
at which the directory is invalid (log 20). -/
structure Image where
  raw : List Byte
  dirError : Option Nat
  plan : List Manifest
  bootPlan : List Manifest
  evals : List (List Manifest)
  tensors : List (BitVec 512)
  codebooks : List CodebookImage
  kernels : List KernelImage
  kernelArea : List DWord
  constArea : List Word
  streams : List (Nat × Nat)
  coarseFirst : Nat
  coarseCount : Nat
  headroom : Nat
  fixedCoarse : List (Nat × Word)
  cstatFirst : Nat
  cstatCount : Nat
  sluices : List (Nat × BitVec 512)
  zeroThr : Nat
  satThr : Nat
  maxSlots : Nat
  holdSteps : Nat
  widenBase : Nat
  widenSize : Nat
  seqSlots : List (Fin 4 × Nat)
  ropeTables : List (Byte × List DWord)
  arena : Option (Nat × Nat × Nat)
  groups : List (Nat × Nat)
  snapBase : Option Nat
  deriving DecidableEq, Repr

/-- The clocks of a compute die (R120). -/
inductive ClockStep where
  | full | reduced | low
  deriving DecidableEq, Repr

/-- The operand fields of a vector instruction (Table 08-1): sources 0 to 31 name V0 to V31 and 32 the constant pool,
whose entry IMM is `pool`; `ctx` is the context whose kernel the instruction is of (R199). -/
structure VFields where
  dst : Fin 32
  a : Fin 33
  b : Fin 33
  c : Fin 33
  maskEn : Bool
  maskSel : Fin 8
  imm : Fin 4096
  pool : Word
  ctx : CtxId
  deriving DecidableEq, Repr

/-- What a retraining phase found (R297): failing data lanes (pseudo-channel of the channel, lane), whether a check-bit
lane failed, and the time the channel's requests were held; and the faults that have struck stored sectors since the last
report: by sector of the device address space, the symbols of its codeword (0 to 255 data, 256 to 263 check) and what each
differs by. -/
structure RetrainReport where
  lanes : List (Fin 2 × BitVec 5)
  checkLane : Bool
  ns : Nat
  faults : List (Nat × List (Fin 264 × BitVec 16))
  deriving DecidableEq, Repr

/-- What a training of the stacks found (R302, R303): channels that failed, single failing data lanes, channels without a
spare row, and rows that fail repeatably (channel, pseudo-channel, row). -/
structure TrainReport where
  failed : List (Fin 384)
  lanes : List (Fin 768 × BitVec 5)
  noSpare : List (Fin 384)
  repairs : List (Fin 384 × Fin 2 × Nat)
  deriving DecidableEq, Repr

/-- A port that has trained at a boot or a device recovery, and the HELLO of its partner: module, fabric id, port (R324). -/
structure PartnerReport where
  port : PortId
  module_ : BitVec 13
  fabric : Half
  partnerPort : PortId
  deriving DecidableEq, Repr

/-- What the world gives a device recovery (R393 to R396): the time since the capture, the duration, the training, the
halted pairs that failed their retest, whether a step failed, and what each port met once trained. -/
structure RecoveryReport where
  elapsedNs : Nat
  ms : Word
  training : TrainReport
  badPairs : List (Fin 24)
  stepFailed : Bool
  partners : List PartnerReport
  deriving DecidableEq, Repr

/-- What the world gives a boot (R436): pairs that failed their self-test, whether the dies powered up, the training, the
engines that failed a slice, what each port met once trained, the FTC taken at step 11, the duration and a fresh nonce. -/
structure BootReport where
  badPairs : List (Fin 24)
  diesUp : Bool
  training : TrainReport
  engineFails : List (EngineId × Fin 16)
  partners : List PartnerReport
  ftc : DWord
  ms : Word
  nonce : DWord
  deriving DecidableEq, Repr

/-- A target of a group write (R423): a group-table register or a member-store entry. -/
inductive GroupWrite where
  | cfg (g : Fin 1024)
  | mem (g : Fin 1024)
  | member (entry : Fin 1048576)
  deriving DecidableEq, Repr

/-- A queue base or size register (R470), by half where it is 64 bits wide. -/
inductive QueueSetting where
  | sqBaseLow | sqBaseHigh | sqSize | cqBaseLow | cqBaseHigh | cqSize
  deriving DecidableEq, Repr

/-- A die that trips (R476). -/
inductive TripUnit where
  | compute (d : DieId)
  | linkDie (d : Fin 2)
  | basin
  deriving DecidableEq, Repr

/-- The module alarms (Table 19-9). -/
inductive Alarm where
  | supply | thermal | leak
  deriving DecidableEq, Repr

/-- The on-chip memories whose words have a SECDED code (R356): the operand buffer of an engine, the buffer of a cluster, the
Basin die and the Lockkeeper die. -/
inductive SramMemory where
  | operand (e : EngineId)
  | cluster (g : Fin 80)
  | basin
  | lockkeeper
  deriving DecidableEq, Repr

/-- A word of on-chip memory that holds an error: where it lies (its offset counted in words of 64 bits), whether two bits of
it are wrong or one, and, in the Lockkeeper die, whether it holds firmware code or host-driver memory (R357) or part of the
record at a position of the event recorder (R379). -/
structure SramWord where
  memory : SramMemory
  offset : Word
  double : Bool
  firmware : Bool
  record : Option (Fin 16384)
  deriving DecidableEq, Repr

/-- A flit as it arrives at a port (R312): its 2,048 bits, and how many symbols of the FEC codeword that begins with it were in
error. -/
structure Arrival where
  errors : Nat
  flit : BitVec 2048
  deriving DecidableEq, Repr

/-- A packet that arrived on a virtual lane (R319). -/
structure LanePacket where
  vl : Fin 4
  packet : Packet
  deriving DecidableEq, Repr

/-- A BAR0 read (R4): its offset and its size in bytes. -/
structure RegRead where
  offset : Nat
  size : Nat
  deriving DecidableEq, Repr

/-- The commands: one constructor per row of spec/opcode_table.json. -/
inductive Instr where
  /-- R15: A lock tick fires: the lock index advances, the staged manifest becomes active, the engine under test is
  withheld, and step-boundary work due at this tick is carried out. -/
  | lockTick
  /-- R15: At 1 µs after the tick the work window opens, the test slot begins and prefetch of the next manifest
  starts. -/
  | workWindowOpen
  /-- R31: At the stretch check point and then every 1 µs until the cutoff, the device evaluates project_end. -/
  | projectEndEvaluation (now : DWord)
  /-- R34: The work window closes; if a barge has not completed, a late overrun is declared. -/
  | workWindowClose
  /-- R35: The drain after an overrun or abort ends, DRAINING clears and maintenance slots may run again. -/
  | drainEnd (now : DWord)
  /-- R29: A barge completes; a budget excess is counted and a NOTIFY posts its completion record. -/
  | bargeComplete (i : Nat) (now : DWord)
  /-- R38: A rising edge on TICK_IN, which the tick master uses to schedule the unstretched tick. -/
  | tickInEdge (now : DWord)
  /-- R329: At T_s the tick master sends a SCHED packet with the next tick, lock index and grant. -/
  | schedSend
  /-- R327: Every 10 µs the module exchanges TIME flits with its parent to estimate and slew its FTC offset. -/
  | timeExchange (now : DWord)
  /-- R327: No time exchange has completed for 100 µs, so FTC_LOCKED is cleared and event 0x0108 is recorded. -/
  | ftcSyncTimeout (now : DWord)
  /-- R24: A CONTROL NOP barge completes at once. -/
  | nop (i : Nat)
  /-- R24: A CONTROL NOTIFY barge posts a completion record and raises the context's MSI-X vector. -/
  | notify (i : Nat)
  /-- R24: A CONTROL FENCE barge completes when every earlier barge of its context in the manifest has completed. -/
  | controlFence (i : Nat)
  /-- R51: A write of FORMAT_CB_CMD.GO starts a load of the staged codebook. -/
  | codebookLoad (w : Word)
  /-- R52: The codebook load checks end, and the codebook is accepted into its slot or refused. -/
  | codebookLoadEnd
  /-- R56: A read of FORMAT_NONFINITE_OUT returns the count and clears it. -/
  | nonfiniteOutRead
  /-- R94: A write of SCALE_RD_SEL.GO orders a copy of one Scale History and Coarse Scale entry. -/
  | scaleRead (w : Word)
  /-- R94: The ordered scale copy is made outside the history writes, and BUSY clears. -/
  | scaleReadCopy
  /-- R75: The history and coarse-scale work of R71 after a commit flip completes, and block-tensor barges may
  start. -/
  | scaleUpdateComplete (c : CtxId)
  /-- R180: The rebuild of a context's window lists into the next bank completes. -/
  | sluiceRebuildDone (c : CtxId)
  /-- R351: The runtime completes the re-timing of the lock plan after a widening change. -/
  | planRetimeDone (c : CtxId)
  /-- R117: A MATRIX PRODUCT barge starts and its tasks are dealt to the cluster queues. -/
  | product (i : Nat)
  /-- R117: A MATRIX BATCHED barge starts and its tasks are dealt to the cluster queues. -/
  | batched (i : Nat)
  /-- R102: A MATRIX COUNTED barge reads its counts, skips dead tiles and deals the live tasks. -/
  | counted (i : Nat)
  /-- R105: An engine claims the task at the head of its cluster queue. -/
  | taskClaim (e : EngineId)
  /-- R106: An engine with an empty queue steals a task from the tail of a victim queue. -/
  | taskSteal (e : EngineId)
  /-- R106: After 32 clk an idle engine searches again for a victim. -/
  | stealRetry (e : EngineId)
  /-- R109: After 32 clk an engine that could not reserve split-K slots searches again. -/
  | splitkSlotRetry (e : EngineId)
  /-- R136: The retire counter reaches the expected count, and the slot is read through the output path or into a
  split-K slot. -/
  | tileDrain (e : EngineId) (slot : Fin 2)
  /-- R120: A die's clock changes between two rank-1 updates, and ARRAY_SLOW follows. -/
  | computeClockChange (d : DieId) (clock : ClockStep)
  /-- R208: A VECTOR MAP barge runs KERNEL_1 over each element and writes TD_C through the output path. -/
  | map (i : Nat)
  /-- R205: A VECTOR ROW barge starts its first stage of kernel and reduction. -/
  | row (i : Nat)
  /-- R207: A later ROW stage starts once every task and row result of the previous stage is final. -/
  | rowStageStart (i : Nat)
  /-- R210: A VECTOR REDUCE barge reduces each row and writes the results to RES_ADDR. -/
  | reduce (i : Nat)
  /-- R215: A VECTOR COMPRESS barge turns bucket ids into index lists and counts. -/
  | compress (i : Nat)
  /-- R217: A VECTOR EXPAND barge scatters listed values to their destinations. -/
  | expand (i : Nat)
  /-- R209: A VECTOR ROTATE barge applies the size-256 forward rotation exactly. -/
  | rotate (i : Nat)
  /-- R209: A VECTOR UNROTATE barge applies the inverse rotation exactly. -/
  | unrotate (i : Nat)
  /-- R197: The vector instruction a + b. -/
  | add (e : EngineId) (f : VFields)
  /-- R197: The vector instruction a − b. -/
  | sub (e : EngineId) (f : VFields)
  /-- R197: The vector instruction a × b. -/
  | mul (e : EngineId) (f : VFields)
  /-- R197: The vector instruction a × b + c with one rounding. -/
  | fma (e : EngineId) (f : VFields)
  /-- R197: The vector instruction min(a, b) under Table 02-9. -/
  | min (e : EngineId) (f : VFields)
  /-- R197: The vector instruction max(a, b) under Table 02-9. -/
  | max (e : EngineId) (f : VFields)
  /-- R197: The vector instruction |a|. -/
  | abs (e : EngineId) (f : VFields)
  /-- R197: The vector instruction −a. -/
  | neg (e : EngineId) (f : VFields)
  /-- R197: The vector instruction giving a's magnitude with b's sign. -/
  | copysign (e : EngineId) (f : VFields)
  /-- R197: The vector instruction that moves a bit for bit. -/
  | mov (e : EngineId) (f : VFields)
  /-- R197: The vector instruction a ÷ b. -/
  | div (e : EngineId) (f : VFields)
  /-- R197: The vector instruction √a. -/
  | sqrt (e : EngineId) (f : VFields)
  /-- R197: The vector instruction 1 ÷ a. -/
  | rcp (e : EngineId) (f : VFields)
  /-- R197: The vector instruction 1 ÷ √a, correctly rounded. -/
  | rsqrt (e : EngineId) (f : VFields)
  /-- R197: The vector instruction 2^a, correctly rounded. -/
  | exp2 (e : EngineId) (f : VFields)
  /-- R197: The vector instruction log₂ a, correctly rounded. -/
  | log2 (e : EngineId) (f : VFields)
  /-- R197: The vector instruction e^a, correctly rounded. -/
  | exp (e : EngineId) (f : VFields)
  /-- R197: The vector instruction ln a, correctly rounded. -/
  | log (e : EngineId) (f : VFields)
  /-- R197: The vector instruction tanh a, correctly rounded. -/
  | tanh (e : EngineId) (f : VFields)
  /-- R197: The vector instruction 1 ÷ (1 + e^−a), correctly rounded. -/
  | sigmoid (e : EngineId) (f : VFields)
  /-- R197: The vector instruction erf a, correctly rounded. -/
  | erf (e : EngineId) (f : VFields)
  /-- R197: The vector instruction sin(π a), correctly rounded. -/
  | sinpi (e : EngineId) (f : VFields)
  /-- R197: The vector instruction cos(π a), correctly rounded. -/
  | cospi (e : EngineId) (f : VFields)
  /-- R198: The vector compare a = b into a lane-mask register. -/
  | cmpeq (e : EngineId) (f : VFields)
  /-- R198: The vector compare a ≠ b into a lane-mask register. -/
  | cmpne (e : EngineId) (f : VFields)
  /-- R198: The vector compare a < b into a lane-mask register. -/
  | cmplt (e : EngineId) (f : VFields)
  /-- R198: The vector compare a ≤ b into a lane-mask register. -/
  | cmple (e : EngineId) (f : VFields)
  /-- R198: The vector compare that is true when a or b is NaN. -/
  | cmpun (e : EngineId) (f : VFields)
  /-- R196: The vector instruction that selects a or b by the lane-mask bit. -/
  | sel (e : EngineId) (f : VFields)
  /-- R198: The integer vector instruction a + b mod 2³². -/
  | iadd (e : EngineId) (f : VFields)
  /-- R198: The integer vector instruction a − b mod 2³². -/
  | isub (e : EngineId) (f : VFields)
  /-- R198: The integer vector instruction giving the low 32 bits of a × b. -/
  | imul (e : EngineId) (f : VFields)
  /-- R198: The vector instruction a AND b. -/
  | and (e : EngineId) (f : VFields)
  /-- R198: The vector instruction a OR b. -/
  | or (e : EngineId) (f : VFields)
  /-- R198: The vector instruction a XOR b. -/
  | xor (e : EngineId) (f : VFields)
  /-- R198: The vector instruction a << (b mod 32). -/
  | shl (e : EngineId) (f : VFields)
  /-- R198: The vector instruction a >> (b mod 32), logical. -/
  | shr (e : EngineId) (f : VFields)
  /-- R198: The unsigned vector compare a < b into a lane-mask register. -/
  | icmplt (e : EngineId) (f : VFields)
  /-- R198: The unsigned vector compare a = b into a lane-mask register. -/
  | icmpeq (e : EngineId) (f : VFields)
  /-- R197: The vector instruction converting u32 to FP32. -/
  | cvtif (e : EngineId) (f : VFields)
  /-- R197: The vector instruction converting FP32 to u32 toward zero. -/
  | cvtfi (e : EngineId) (f : VFields)
  /-- R197: The vector instruction rounding a to BF16, held as FP32. -/
  | rndbf16 (e : EngineId) (f : VFields)
  /-- R197: The vector instruction rounding a to FP16, held as FP32. -/
  | rndf16 (e : EngineId) (f : VFields)
  /-- R199: The vector instruction returning 32 bits of the counter-mode generator. -/
  | rand (e : EngineId) (f : VFields)
  /-- R236: An ATTENTION FORWARD barge reads the boundary table and runs the streaming soft maximum, joining
  segments and writing TD_O and TD_LSE. -/
  | forward (i : Nat)
  /-- R237: An ATTENTION PARTIAL barge writes each segment's row states to the state area. -/
  | partialSegments (i : Nat)
  /-- R236: An ATTENTION JOIN barge joins the stored segment states and writes TD_O and TD_LSE. -/
  | join (i : Nat)
  /-- R239: An ATTENTION BACKWARD barge forms dQ, dK and dV from TD_LSE. -/
  | backward (i : Nat)
  /-- R241: An ATTENTION ROPE barge applies rotary positions through the angle unit. -/
  | rope (i : Nat)
  /-- R307: A TRANSFER COPY barge copies BYTES from SRC to DST. -/
  | copy (i : Nat)
  /-- R307: A TRANSFER COPY2D barge copies ROWS rows with pitches. -/
  | copy2d (i : Nat)
  /-- R307: A TRANSFER FILL barge writes a repeated 32-bit pattern. -/
  | fill (i : Nat)
  /-- R253: A STASH SAVE barge compresses a raw region into a stash area. -/
  | stashSave (i : Nat)
  /-- R255: A STASH LOAD barge checks and restores a stash area into its raw region. -/
  | stashLoad (i : Nat)
  /-- R272: An UPDATE ADAM barge reads its hyperparameter record and updates weights, remainders and moments into
  the alternate arena. -/
  | adam (i : Nat)
  /-- R272: An UPDATE MOMENTUM barge updates weights, remainders and the first moment into the alternate arena. -/
  | momentum (i : Nat)
  /-- R266: An UPDATE COPY barge copies master weights, remainders and moments unchanged into the alternate arena. -/
  | updateCopy (i : Nat)
  /-- R259: A VOTE STEP barge forms the step vote record and sends it to rank 0. -/
  | voteStep (i : Nat)
  /-- R274: A VOTE COMMIT barge forms the commit vote record and sends it to rank 0. -/
  | voteCommit (i : Nat)
  /-- R261: The step verdict arrives; it is written and classed go or skip, fingerprints are written or compared,
  and a step index mismatch aborts the step. -/
  | stepVerdict (c : CtxId) (v : BitVec 2048)
  /-- R276: The commit verdict arrives; on a pass TRAIN_COMMIT_n is written and PENDING is set, and otherwise the
  step is treated as skipped. -/
  | commitVerdict (c : CtxId) (v : BitVec 256)
  /-- R340: A COLLECTIVE REDUCE_SCATTER barge sends input streams and folds its own shard by rank. -/
  | reduceScatter (i : Nat)
  /-- R340: A COLLECTIVE ALL_REDUCE barge folds its shard and distributes the results to every member. -/
  | allReduce (i : Nat)
  /-- R338: A COLLECTIVE ALL_GATHER barge gathers every rank's SRC. -/
  | allGather (i : Nat)
  /-- R338: A COLLECTIVE BROADCAST barge copies the root rank's SRC to every member. -/
  | broadcast (i : Nat)
  /-- R338: A COLLECTIVE SHIFT barge receives the SRC of rank (j − ARG) mod R. -/
  | shift (i : Nat)
  /-- R338: A COLLECTIVE ALL_TO_ALL barge exchanges blocks between every pair of ranks. -/
  | allToAll (i : Nat)
  /-- R341: A COLLECTIVE AMAX_AGREE barge replaces STEP_AMAX of a range by the maximum over members. -/
  | amaxAgree (i : Nat)
  /-- R341: A COLLECTIVE CSTAT_AGREE barge agrees a range of the feed bank across members. -/
  | cstatAgree (i : Nat)
  /-- R364: A TEST ENGINE barge runs signature slices on an offline engine and writes the results. -/
  | testEngine (i : Nat) (sigs : List DWord)
  /-- R365: A TEST DRAIN barge ends the array barge in flight and writes a forced drain of the named engine's tile
  slots. -/
  | testDrain (i : Nat)
  /-- R366: A TEST SCRUB barge scrubs an address range and writes its counts. -/
  | testScrub (i : Nat)
  /-- R360: A self-test slice of the withheld engine ends; its signature is compared, and on a mismatch the engine
  is marked offline. -/
  | testSliceEnd (e : EngineId) (sig : DWord)
  /-- R278: TRAIN_CTL CMD 1 resumes an aborted or stopped context at lock index L. -/
  | resumeContext (w : Word)
  /-- R263: TRAIN_CTL CMD 2 sets SKIP_RUN to 0. -/
  | clearSkipRun (w : Word)
  /-- R190: A write of SCALE_CSTAT_RD_SEL.GO orders a copy of one statistics entry. -/
  | cstatRead (w : Word)
  /-- R190: The ordered statistics copy is made outside the bank exchange, and BUSY clears. -/
  | cstatReadCopy
  /-- R295: A retraining phase ends, held requests are released, and a failing lane is marked or the channel set
  for map-out. -/
  | retrainPhaseEnd (r : RetrainReport)
  /-- R298: Every 100 µs the device reads each stack's temperature and sets its thermal step. -/
  | stackTemperatureRead (st : StackId) (temp : Byte)
  /-- R283: A refresh management request from a stack is honoured at once. -/
  | refreshManagementRequest (st : StackId)
  /-- R305: A write of MEM_MARGIN_CTL.GO starts a margining sweep of one pseudo-channel, or reports why not. -/
  | marginSweep (w : Word)
  /-- R305: A margining sweep ends, reports its passing steps and restores the trained settings. -/
  | marginSweepEnd (low high : Byte) (worst : BitVec 5)
  /-- R310: A write of MEM_XLATE_ADDR translates the address into channel, pseudo-channel and sector. -/
  | memXlate (addr : DWord)
  /-- R316: A DATA flit is received and accepted in order or answered with a NAK, and its ACK and credits are
  taken. -/
  | dataFlit (p : PortId) (f : Arrival)
  /-- R315: An IDLE flit is received and its ACK and credit fields are taken. -/
  | idleFlit (p : PortId) (f : Arrival)
  /-- R316: A NAK flit makes the sender resend unacknowledged flits; replays beyond the limit take the link down. -/
  | nak (p : PortId) (f : Arrival)
  /-- R324: A HELLO flit records the partner and sets the port up or held. -/
  | hello (p : PortId) (f : Arrival)
  /-- R327: A TIME flit arrives and gives timestamps for the FTC offset estimate. -/
  | time (p : PortId) (f : Arrival) (now : DWord)
  /-- R314: An EQ flit carries an equalisation coefficient request or status. -/
  | eq (p : PortId) (f : Arrival)
  /-- R317: No flit with a passing CRC has arrived for 10 µs, and the link is declared down. -/
  | linkSilence (p : PortId)
  /-- R317: Link training fails and the link is declared down. -/
  | linkTrainingFailed (p : PortId)
  /-- R317: Every 100 ms an enabled down port starts training again. -/
  | linkRetrain (p : PortId)
  /-- R324: Link training completes, and each end sends HELLO. -/
  | linkUp (p : PortId)
  /-- R324: A write of LINK_PORT_CTL_p.ACCEPT accepts a changed partner. -/
  | portAccept (p : PortId)
  /-- R325: An equalisation adaptation step ends, and held DATA flits go out. -/
  | equalisationStepEnd (p : PortId)
  /-- R322: A packet for another module is forwarded by the route table, or dropped. -/
  | packetForward (p : PortId) (pk : LanePacket)
  /-- R337: A PUT packet is placed into its stream or staged, and acknowledged. -/
  | put (p : PortId) (pk : Packet)
  /-- R343: A PUT_ACK acknowledges a sent packet, and may complete a collective or export. -/
  | putAck (p : PortId) (pk : Packet)
  /-- R337: A PUT left unacknowledged for E2E_US is sent again. -/
  | putResend (n : Nat)
  /-- R330: A SCHED packet is received and forwarded; it sets the next tick and grant, and late, stale or
  mismatched schedules are handled. -/
  | sched (p : PortId) (pk : Packet) (now : DWord)
  /-- R328: A STRETCH_REQ packet is received; the largest need is kept and sent upward. -/
  | stretchReq (p : PortId) (pk : Packet) (now : DWord)
  /-- R333: An ABORT packet is received, forwarded once, and acted on under R35 when it matches a resident context. -/
  | abort (p : PortId) (pk : Packet)
  /-- R346: An AGREE packet is received; rank 0 folds the values and returns the result, and members write
  LINK_AGREE_OUT. -/
  | agree (p : PortId) (pk : Packet)
  /-- R413: A management packet is received, such as the buddy's site-configuration tags. -/
  | mgmt (p : PortId) (pk : Packet) (tags : Option (Word × Word))
  /-- R346: LINK_AGREE_CTL.GO with OP 0 starts an agreement for the maximum across a group. -/
  | agreementMax (w : Word)
  /-- R346: LINK_AGREE_CTL.GO with OP 1 starts an agreement for the minimum across a group. -/
  | agreementMin (w : Word)
  /-- R346: An agreement has not completed within COLL_MS and ends with CODE 1, naming the missing members. -/
  | agreementTimeout
  /-- R423: A write to the group table or member store is applied, or is ignored while the bound context is in a
  step. -/
  | groupTableWrite (t : GroupWrite) (w : Word)
  /-- R336: A write of LINK_CTX_EPOCH_n is applied, or is ignored while a plan of the context runs. -/
  | ctxEpochWrite (c : CtxId) (w : Word)
  /-- R370: A lockstep pair's comparator finds a mismatch and halts the pair; work moves to other pairs. -/
  | lockstepMismatch (pair : Fin 24)
  /-- R358: A UCIe link that its retry cannot recover is retrained, or device recovery is ordered. -/
  | ucieLinkRecovery (link : Byte) (ok : Bool)
  /-- R371: Every 1 ms the Watchtower evaluates its inputs and the risk level, and may order recovery. -/
  | watchtowerEval
  /-- R371: Every 1 s the per-10 s measures are advanced. -/
  | watchtowerWindowAdvance
  /-- R373: Risk level 3 has held for GRACE_MS with AUTO_RECOVER set, and device recovery is ordered. -/
  | graceExpiry
  /-- R379: A write of RECORDER_RD_SEL.GO orders a copy of one record. -/
  | recorderRead (w : Word)
  /-- R379: The ordered record copy is made between two updates, and BUSY clears. -/
  | recorderReadCopy
  /-- R384: Every 100 ms the host driver samples the watched conditions, and may declare a hang. -/
  | watchdogSample
  /-- R386: A compute reset has not completed within 1 s, and device recovery supersedes it. -/
  | computeResetTimeout
  /-- R386: A device recovery has not completed within RECOVERY_S, and the heartbeat is stopped. -/
  | recoveryTimeout
  /-- R392: LK_RESET_CMD with KIND 1 orders a compute reset. -/
  | computeReset (w : Word)
  /-- R393: LK_RESET_CMD with KIND 2, or the Watchtower, orders a device recovery. -/
  | deviceRecovery (w : Word)
  /-- R397: LK_RESET_CMD with KIND 3 orders the teardown of one context. -/
  | contextTeardown (w : Word)
  /-- R391: The drain of a compute reset or device recovery ends, and the state of every context is captured. -/
  | resetDrainEnd (now : DWord)
  /-- R392: A compute reset completes, BUSY clears, and a suspect replay may start. -/
  | computeResetDone (ms : Word)
  /-- R394: A device recovery completes or fails; the FTC and lock index restart. -/
  | deviceRecoveryDone (r : RecoveryReport)
  /-- R399: A teardown's drain ends; the context is captured, its epoch advances and its state is cleared. -/
  | teardownDrainEnd (c : CtxId) (us : Word)
  /-- R403: A write of 1 to a bit of LK_QUAR_VALID frees a quarantine entry. -/
  | quarantineFree (w : Word)
  /-- R409: Snapshot command 1 requests a capture at the next step boundary. -/
  | captureNext (w : Word)
  /-- R416: Snapshot command 2 signs the newest generation and sends its header to the buddy. -/
  | seal (w : Word)
  /-- R416: The buddy acknowledges the sealed header, and the slot is marked sealed. -/
  | sealAck
  /-- R416: No buddy acknowledgement within COLL_MS; the slot stays HELD. -/
  | sealTimeout
  /-- R418: Snapshot command 3 checks a generation and restores the context from it. -/
  | restore (w : Word) (remote : Option (List Byte))
  /-- R418: A remote restore source has not answered within COLL_MS, and the restore is refused with code 0x0A. -/
  | restoreSourceTimeout
  /-- R413: Snapshot command 4 fetches the buddy's tags and accepts or refuses it. -/
  | bindBuddy (w : Word) (tags : Option (Word × Word))
  /-- R413: A buddy has not answered within COLL_MS, and it is refused with code 0x0A. -/
  | buddyTimeout
  /-- R421: Snapshot command 5 stages the restored step for the tick at LK_SNAP_START. -/
  | snapshotStart (w : Word)
  /-- R410: A capture completes with COMPLETE set and DIGEST written. -/
  | captureComplete (c : CtxId)
  /-- R412: A capture not done by the tick of R411 is abandoned and the step starts on time. -/
  | captureGapExpiry (c : CtxId)
  /-- R414: A complete local generation starts to be exported to the buddy. -/
  | snapshotExport (c : CtxId)
  /-- R414: The buddy's acknowledgement sets HELD on the generation. -/
  | exportAck (c : CtxId)
  /-- R414: The buddy receives the whole export, checks DIGEST and acknowledges. -/
  | wardCopyReceived (c : CtxId) (slot : Fin 2) (bytes : List Byte)
  /-- R439: Flash command 1 writes staged bytes into the target firmware partition. -/
  | fwWrite (w : Word)
  /-- R439: Flash command 2 checks the target firmware and marks it NEW with a new SEQ. -/
  | fwCommit (w : Word)
  /-- R440: Flash command 3 changes the running partition from TRIAL to GOOD. -/
  | fwConfirm (w : Word)
  /-- R441: Flash command 4 writes a signed site configuration over the older copy. -/
  | siteWrite (w : Word)
  /-- R433: Flash command 5 enrols the first owner and writes the owner record. -/
  | enrol (w : Word)
  /-- R434: Flash command 6 releases ownership on a signed statement. -/
  | release (w : Word) (nonce : DWord)
  /-- R441: A flash command ends, CODE is written, BUSY clears and MSI-X vector 3 is raised. -/
  | flashCommandDone
  /-- R447: BOOT_PWR.REQ = 2 enters Standby, or is refused. -/
  | enterStandby
  /-- R447: BOOT_PWR.REQ = 0 starts leaving Standby by the device recovery sequence. -/
  | leaveStandby
  /-- R447: The exit from Standby completes and the device is back in service. -/
  | leaveStandbyDone (r : RecoveryReport)
  /-- R448: BOOT_PWR.REQ = 3 removes power from every die and stack, or is refused. -/
  | enterOff
  /-- R444: A DOE discovery request is answered. -/
  | doeDiscovery (req : List Byte)
  /-- R444: The SPDM GET_VERSION request is answered. -/
  | getVersion (req : List Byte)
  /-- R444: The SPDM GET_CAPABILITIES request is answered. -/
  | getCapabilities (req : List Byte)
  /-- R444: The SPDM NEGOTIATE_ALGORITHMS request is answered with RSASSA-PSS 4096 and SHA-512. -/
  | negotiateAlgorithms (req : List Byte)
  /-- R444: The SPDM GET_DIGESTS request is answered for slot 0. -/
  | getDigests (req : List Byte)
  /-- R444: The SPDM GET_CERTIFICATE request returns the chain of slot 0. -/
  | getCertificate (req : List Byte)
  /-- R444: The SPDM CHALLENGE request is answered and signed with the identity key. -/
  | challenge (req : List Byte)
  /-- R445: The SPDM GET_MEASUREMENTS request returns the measurement blocks, signed when asked. -/
  | getMeasurements (req : List Byte)
  /-- R444: Any other SPDM request is answered with UnsupportedRequest. -/
  | spdmUnsupportedRequest (req : List Byte)
  /-- R466: A write of LK_SQ_TAIL_n makes the host driver fetch entries, or is ignored when out of range. -/
  | sqDoorbell (c : CtxId) (w : Word) (entries : List (BitVec 512))
  /-- R467: A write of LK_CQ_HEAD_n frees CQ room, and held completion records are written. -/
  | cqHeadDoorbell (c : CtxId) (w : Word)
  /-- R470: A write of a queue base or size sets head and tail to 0, or is ignored when the context is not EMPTY. -/
  | queueConfigWrite (c : CtxId) (q : QueueSetting) (w : Word)
  /-- R468: SQ operation LOAD fetches an image from server memory into image staging. -/
  | load (c : CtxId)
  /-- R468: The image fetch completes, and the load checks run and accept or refuse the image. -/
  | imageFetched (c : CtxId) (im : Image)
  /-- R468: SQ operation LOAD_HBM loads an image placed in HBM through BAR2. -/
  | loadHbm (c : CtxId) (im : Image)
  /-- R465: SQ operation START stages the context's STEP_FIRST manifest for a lock index. -/
  | start (c : CtxId)
  /-- R279: SQ operation EVAL runs an evaluation plan at the next step boundary or at once. -/
  | eval (c : CtxId)
  /-- R465: SQ operation PAUSE stops staging after the next step boundary. -/
  | pause (c : CtxId)
  /-- R465: SQ operation FENCE completes when every earlier entry of the SQ has completed. -/
  | sqFence (c : CtxId)
  /-- R462: Every 100 ms the host driver increments LK_HEARTBEAT. -/
  | heartbeat
  /-- R461: A vector's pending causes are sent as one MSI-X message, at most one per microsecond. -/
  | msixMessage (v : Fin 64)
  /-- R458: A host read through BAR2 is served or completed with Completer Abort. -/
  | bar2Read (x : Nat) (len : Nat)
  /-- R458: A host write through BAR2 is written, merged as a partial write, or discarded. -/
  | bar2Write (x : Nat) (bytes : List Byte)
  /-- R457: A hot reset or link-down from the root port resets only the link and configuration space. -/
  | hotReset
  /-- R457: A write of another PowerState to PMCSR leaves D0 in force. -/
  | pmcsrWrite (w : Word)
  /-- R4: A write to a register with no row of its own, applied by access code, or ignored when reserved or
  misaligned. -/
  | registerWrite (a : Nat) (size : Nat) (w : Word)
  /-- R5: A read of a 64-bit register's low half latches its high half. -/
  | reg64LowHalfRead (a : RegRead)
  /-- R5: A read of a 64-bit register's high half returns the latched value. -/
  | reg64HighHalfRead (a : RegRead)
  /-- R5: A write to a 64-bit register's low half is held until the high half is written. -/
  | reg64LowHalfWrite (a : Nat) (w : Word)
  /-- R5: A write to a 64-bit register's high half commits a held low half, or changes the high half alone. -/
  | reg64HighHalfWrite (a : Nat) (w : Word)
  /-- R477: The 48 V feed reaches 40 V and the standby rail and management controller start. -/
  | coldPowerOn
  /-- R477: PWR_GOOD falls and power is removed from the dies and stacks in reverse order. -/
  | pwrGoodFall
  /-- R477: The input has stayed below 38 V for 1 ms, and power is removed as on loss of power. -/
  | undervoltageShutdown
  /-- R389: PERST_N is asserted and the module enters module reset. -/
  | perstNAssert
  /-- R436: On release of PERST_N with PWR_GOOD high, or on cold power-on, the boot sequence runs. -/
  | boot (r : BootReport)
  /-- R474: Every 100 µs input power is measured and the power step may change. -/
  | powerSample (watts avg : Half)
  /-- R475: A compute die's hottest junction is sampled and its thermal step may change. -/
  | dieThermalSample (d : DieId) (temp : Half)
  /-- R476: A die at 115 °C trips: hardware removes power from dies and stacks and sets TRIPPED. -/
  | thermalTrip (u : TripUnit) (temp : Half)
  /-- R480: A module sensor is sampled and an alarm may be raised. -/
  | sensorSample (k : Fin 15) (value : Half)
  /-- R480: LEAK_N has been low for 10 ms, and the coolant leak alarm is raised. -/
  | leakNLow
  /-- R480: No condition of an alarm has held for 1 s, and the alarm clears. -/
  | alarmClear (al : Alarm)
  /-- R483: An I3C private write of an offset and read of 4 B returns a register. -/
  | i3cRegisterRead (a : Nat)
  /-- R483: An I3C private write of offset and value is carried out for MODULE_CTL or RECORDER_RD_SEL, and ignored
  otherwise. -/
  | i3cRegisterWrite (a : Nat) (w : Word)
  /-- R483: SETDASA or ENTDAA assigns the target's dynamic address. -/
  | i3cDynamicAddress (a : BitVec 7)
  /-- R484: The I3C controller disables in-band interrupts. -/
  | disec
  /-- R485: A write of MODULE_CTL.WAKE in Off starts power-up as if PERST_N were released. -/
  | wake (w : Word)
  /-- R474: A write of MODULE_PWR_LIMIT.WATTS sets the sustained limit, or is ignored outside 1,500 to 2,800 W. -/
  | pwrLimitWrite (w : Word)
  /-- R369: The device periodically reads and rewrites every word of the Basin SRAM within 100 ms and of the
  Lockkeeper SRAM within 10 ms, and handles an uncorrectable word under R357. -/
  | sramScrub (arisen : List SramWord)
  /-- R477: The PWR_GOOD input rises, which changes MODULE_STATUS.PWR_GOOD and, with PERST_N released, starts the
  power sequence and boot. -/
  | pwrGoodRise
  /-- R486: The 48 V feed is lost entirely, so the standby rail and the management controller lose power and the
  MODULE registers and held events are lost. -/
  | lossOf48vFeed
  deriving DecidableEq, Repr

end Sys2Proof
end

