-- ==== Sys2Proof/Decode.lean ====
section
/-! DEFINITION. Commands spelled by words. No row of spec/opcode_table.json gives bits: a command comes from the host, the
fabric, a pin or a clock, not from an encoding, so no word spells one. The words that do arrive as bits (flits, packet
headers, descriptors, SQ entries) are operands of commands and are read by Machine/Operands.lean and Machine/Fabric.lean. -/

namespace Sys2Proof

/-- The command that a word spells by the table's bits: none, since the table gives no row any bits. -/
def decodeTableWord (_nbits _w : Nat) : Option Instr := none

end Sys2Proof
end

