-- ==== Sys2Proof/Machine/Codes.lean ====
section
/-! DEFINITION. Checks and generators that the spec names by their published algorithms: CRC-32C, the Philox4x32-10
generator (R248), SHA-512 and the verification side of RSASSA-PSS. Numbers are little-endian (R9) unless said. -/

namespace Sys2Proof.Machine

/-- The bytes of `n` as `k` little-endian bytes. -/
def leBytes : Nat → Nat → List Byte
  | 0, _ => []
  | k + 1, n => BitVec.ofNat 8 n :: leBytes k (n / 256)

/-- The number of a little-endian byte string. -/
def ofLe : List Byte → Nat
  | [] => 0
  | b :: bs => b.toNat + 256 * ofLe bs

/-- The number of a big-endian byte string. -/
def ofBe (bs : List Byte) : Nat := ofLe bs.reverse

/-- The bytes of `n` as `k` big-endian bytes. -/
def beBytes (k n : Nat) : List Byte := (leBytes k n).reverse

/-- One bit of the reflected CRC-32C division (polynomial 0x82F63B78). -/
def crcBit (c : BitVec 32) : BitVec 32 := if c.getLsbD 0 then (c >>> 1) ^^^ 0x82F63B78#32 else c >>> 1

/-- One byte of CRC-32C. -/
def crcByte (c : BitVec 32) (b : Byte) : BitVec 32 :=
  crcBit (crcBit (crcBit (crcBit (crcBit (crcBit (crcBit (crcBit (c ^^^ b.setWidth 32))))))))

/-- CRC-32C (Castagnoli) of a byte string. -/
def crc32c (bs : List Byte) : BitVec 32 := ~~~(bs.foldl crcByte 0xFFFFFFFF#32)

/-- One round of R248, on counter and key words. -/
def philoxRound (c : BitVec 32 × BitVec 32 × BitVec 32 × BitVec 32) (k : BitVec 32 × BitVec 32) :
    BitVec 32 × BitVec 32 × BitVec 32 × BitVec 32 :=
  let p0 := 0xD2511F53 * c.1.toNat
  let p1 := 0xCD9E8D57 * c.2.2.1.toNat
  (BitVec.ofNat 32 (p1 / 2 ^ 32) ^^^ c.2.1 ^^^ k.1, BitVec.ofNat 32 p1,
   BitVec.ofNat 32 (p0 / 2 ^ 32) ^^^ c.2.2.2 ^^^ k.2, BitVec.ofNat 32 p0)

/-- `n` rounds of R248. -/
def philoxRounds : Nat → BitVec 32 × BitVec 32 × BitVec 32 × BitVec 32 → BitVec 32 × BitVec 32 →
    BitVec 32 × BitVec 32 × BitVec 32 × BitVec 32
  | 0, c, _ => c
  | n + 1, c, k => philoxRounds n (philoxRound c k) (k.1 + 0x9E3779B9#32, k.2 + 0xBB67AE85#32)

/-- R248: the draw of a stream at an element index. -/
def crng (seed stream step e : Nat) : BitVec 32 :=
  (philoxRounds 10
    (BitVec.ofNat 32 e, BitVec.ofNat 32 (e / 2 ^ 32), BitVec.ofNat 32 step, BitVec.ofNat 32 stream)
    (BitVec.ofNat 32 seed, BitVec.ofNat 32 (seed / 2 ^ 32) ^^^ BitVec.ofNat 32 (step / 2 ^ 32))).1

/-- The whole part of the `k`-th root of `n`, found bit by bit from bit `bits - 1`. -/
def rootBits (k n : Nat) : Nat → Nat → Nat
  | 0, r => r
  | b + 1, r => rootBits k n b (if (r + 2 ^ b) ^ k ≤ n then r + 2 ^ b else r)

/-- The first 64 bits of the fraction of the `k`-th root of `p`. -/
def rootFraction (k p : Nat) : BitVec 64 := BitVec.ofNat 64 (rootBits k (p * 2 ^ (64 * k)) 70 0)

/-- The primes below `n`. -/
def primesBelow (n : Nat) : List Nat :=
  (List.range n).filter (fun p => decide (2 ≤ p) && (List.range p).all (fun d => decide (d < 2) || p % d != 0))

/-- SHA-512 starts from the square roots of the first 8 primes, and its 80 rounds add the cube roots of the first 80. -/
def shaStart : List (BitVec 64) := (primesBelow 20).map (rootFraction 2)
def shaRoots : List (BitVec 64) := (primesBelow 410).map (rootFraction 3)

/-- The exclusive or of a word's rotations to the right. -/
def spun (rs : List Nat) (x : BitVec 64) : BitVec 64 := rs.foldl (fun y r => y ^^^ x.rotateRight r) 0

/-- The `n` words that follow a message schedule, given newest first. -/
def shaFollow : Nat → List (BitVec 64) → List (BitVec 64)
  | 0, w => w
  | n + 1, w =>
    let back := fun k => w.getD (k - 1) 0
    let next := back 16 + back 7 + (spun [1, 8] (back 15) ^^^ back 15 >>> 7) + (spun [19, 61] (back 2) ^^^ back 2 >>> 6)
    shaFollow n (next :: w)

/-- The two chains of SHA-512: the last four words of each, newest first. -/
structure ShaChains where
  upper : List (BitVec 64)
  lower : List (BitVec 64)

/-- A round lengthens both chains by one word, from the schedule's word plus the round's constant. -/
def ShaChains.turn (c : ShaChains) (x : BitVec 64) : ShaChains :=
  let u := fun k => c.upper.getD k 0
  let l := fun k => c.lower.getD k 0
  let chosen := l 2 ^^^ (l 0 &&& (l 1 ^^^ l 2))
  let most := (u 0 &&& u 1) ||| (u 2 &&& (u 0 ||| u 1))
  let mixed := x + l 3 + chosen + spun [14, 18, 41] (l 0)
  ⟨(mixed + most + spun [28, 34, 39] (u 0)) :: c.upper.take 3, (u 3 + mixed) :: c.lower.take 3⟩

/-- The first `n` words of 64 bits of a byte string, big-endian. -/
def beWords (n : Nat) (bs : List Byte) : List (BitVec 64) :=
  (List.range n).map (fun i => BitVec.ofNat 64 (ofBe ((bs.drop (8 * i)).take 8)))

/-- One block of 128 bytes taken into the digest so far, of eight words. -/
def shaBlock (h : List (BitVec 64)) (block : List Byte) : List (BitVec 64) :=
  let schedule := (shaFollow 64 (beWords 16 block).reverse).reverse
  let c := (List.zipWith (· + ·) schedule shaRoots).foldl ShaChains.turn ⟨h.take 4, h.drop 4⟩
  List.zipWith (· + ·) h (c.upper ++ c.lower)

/-- SHA-512: the message, a one bit, zeros and the message's length in bits as 16 bytes, block by block. -/
def sha512 (bs : List Byte) : List Byte :=
  let tail := 0x80#8 :: List.replicate ((239 - bs.length % 128) % 128) 0 ++ beBytes 16 (8 * bs.length)
  let message := bs ++ tail
  let blocks := (List.range (message.length / 128)).map (fun i => (message.drop (128 * i)).take 128)
  (blocks.foldl shaBlock shaStart).flatMap (fun w => beBytes 8 w.toNat)

/-- b^e mod n, with `k` bits of exponent left. -/
def powMod (n : Nat) : Nat → Nat → Nat → Nat
  | 0, _, _ => 1 % n
  | k + 1, b, e =>
    let r := powMod n k (b * b % n) (e / 2)
    if e % 2 = 1 then b * r % n else r

/-- MGF1 with SHA-512: the first `len` bytes of the mask of `seed`. -/
def mgf1 (seed : List Byte) (len : Nat) : List Byte :=
  ((List.range ((len + 63) / 64)).flatMap (fun i => sha512 (seed ++ beBytes 4 i))).take len

/-- RSASSA-PSS verification with RSA-4096, SHA-512, MGF1 with SHA-512 and a salt of 64 bytes, against the public
modulus `n` and exponent 65,537. -/
def pssVerify (n : Nat) (msg sig : List Byte) : Bool :=
  let s := ofBe sig
  if sig.length ≠ 512 ∨ n ≤ s ∨ n = 0 then false
  else
    let em := beBytes 512 (powMod n 17 s 65537)
    let masked := em.take 447
    let h := (em.drop 447).take 64
    let db := (List.zipWith (· ^^^ ·) masked (mgf1 h 447))
    let db := match db with | b :: t => (b &&& 0x7F#8) :: t | [] => []
    let salt := db.drop 383
    em.getLast? == some 0xBC#8 && decide ((masked.headD 0).getLsbD 7 = false) &&
      (db.take 382).all (· == 0) && db.getD 382 0 == 1 &&
      sha512 (List.replicate 8 0 ++ sha512 msg ++ salt) == h

end Sys2Proof.Machine
end

