-- ==== Sys2Proof/Machine/Fp.lean ====
section
/-! DEFINITION. Binary floating point, exactly (R46, R57 to R61): a value is unpacked to an integer significand and an
exponent, the operation is exact, and one function rounds to nearest, ties to even. -/

namespace Sys2Proof.Machine

/-- An unpacked value: a NaN, an infinity, or (−1)^neg × m × 2^e. A zero keeps its sign. -/
inductive Fv where
  | nan
  | inf (neg : Bool)
  | fin (neg : Bool) (m : Nat) (e : Int)
  deriving DecidableEq, Repr

/-- An IEEE binary format: width of the exponent and of the fraction. -/
structure FpFmt where
  ebits : Nat
  fbits : Nat
  deriving DecidableEq, Repr

/-- FP32, BF16 and FP16 (Table 02-4). -/
def fmt32 : FpFmt := ⟨8, 23⟩
def fmtBf16 : FpFmt := ⟨8, 7⟩
def fmtF16 : FpFmt := ⟨5, 10⟩

/-- The exponent bias of a format. -/
def FpFmt.bias (f : FpFmt) : Nat := 2 ^ (f.ebits - 1) - 1

/-- 2^e × n as a fraction (numerator, denominator). -/
def scale2 (n : Nat) (e : Int) : Nat × Nat :=
  match e with
  | .ofNat k => (n * 2 ^ k, 1)
  | .negSucc k => (n, 2 ^ (k + 1))

/-- Whether 2^e ≤ num / den. -/
def pow2Le (e : Int) (num den : Nat) : Bool :=
  match e with
  | .ofNat k => decide (den * 2 ^ k ≤ num)
  | .negSucc k => decide (den ≤ num * 2 ^ (k + 1))

/-- floor(log2 (num / den)) for positive num and den. -/
def floorLog2 (num den : Nat) : Int :=
  let l : Int := (Nat.log2 num : Int) - (Nat.log2 den : Int)
  if pow2Le l num den then l else l - 1

/-- num / den in units of 2^e, as a fraction. -/
def inUnits (num den : Nat) (e : Int) : Nat × Nat :=
  match e with
  | .ofNat k => (num, den * 2 ^ k)
  | .negSucc k => (num * 2 ^ (k + 1), den)

/-- Round half to even of n / d. -/
def roundHalfEven (n d : Nat) : Nat :=
  let q := n / d
  let r := n % d
  if d < 2 * r ∨ (2 * r = d ∧ q % 2 = 1) then q + 1 else q

/-- The magnitude bits of num / den rounded to nearest, ties to even; a value beyond the largest finite one comes out as
infinity (R59). -/
def roundMag (f : FpFmt) (num den : Nat) : Nat :=
  if num = 0 then 0 else
    let emin : Int := 1 - f.bias
    let ex := max (floorLog2 num den) emin
    let (n, d) := inUnits num den (ex - f.fbits)
    min ((ex - emin).toNat * 2 ^ f.fbits + roundHalfEven n d) ((2 ^ f.ebits - 1) * 2 ^ f.fbits)

/-- The bit pattern of a format: sign and magnitude bits. -/
def packBits (f : FpFmt) (neg : Bool) (mag : Nat) : Nat :=
  (if neg then 2 ^ (f.ebits + f.fbits) else 0) + mag

/-- The magnitude bits of infinity, and of the canonical NaN (R57, R59). -/
def infMag (f : FpFmt) : Nat := (2 ^ f.ebits - 1) * 2 ^ f.fbits
def nanMag (f : FpFmt) : Nat := infMag f + 2 ^ (f.fbits - 1)

/-- The pattern of (−1)^neg × num / den. -/
def packRatio (f : FpFmt) (neg : Bool) (num den : Nat) : Nat := packBits f neg (roundMag f num den)

/-- The pattern of an unpacked value, rounded to nearest, ties to even. -/
def packFv (f : FpFmt) : Fv → Nat
  | .nan => nanMag f
  | .inf s => packBits f s (infMag f)
  | .fin s m e => let (n, d) := scale2 m e; packRatio f s n d

/-- The value of a bit pattern (R46). -/
def unpackFv (f : FpFmt) (w : Nat) : Fv :=
  let neg := w / 2 ^ (f.ebits + f.fbits) % 2 == 1
  let ex := w / 2 ^ f.fbits % 2 ^ f.ebits
  let fr := w % 2 ^ f.fbits
  if ex = 2 ^ f.ebits - 1 then (if fr = 0 then .inf neg else .nan)
  else if ex = 0 then .fin neg fr (1 - (f.bias : Int) - f.fbits)
  else .fin neg (2 ^ f.fbits + fr) ((ex : Int) - f.bias - f.fbits)

/-- The FP32 pattern of a value, and the value of an FP32 pattern. -/
def fv32 (w : BitVec 32) : Fv := unpackFv fmt32 w.toNat
def to32 (v : Fv) : BitVec 32 := BitVec.ofNat 32 (packFv fmt32 v)

/-- The canonical FP32 NaN. -/
def nan32 : BitVec 32 := 0x7FC00000#32

def Fv.isNan : Fv → Bool
  | .nan => true
  | _ => false

/-- Whether a value is finite. -/
def Fv.isFin : Fv → Bool
  | .fin _ _ _ => true
  | _ => false

def Fv.isZero : Fv → Bool
  | .fin _ m _ => m == 0
  | _ => false

def Fv.neg : Fv → Fv
  | .nan => .nan
  | .inf s => .inf !s
  | .fin s m e => .fin (!s) m e

def Fv.abs : Fv → Fv
  | .nan => .nan
  | .inf _ => .inf false
  | .fin _ m e => .fin false m e

/-- m × 2^e in units of 2^u, for u ≤ e. -/
def alignTo (m : Nat) (e u : Int) : Nat := m * 2 ^ (e - u).toNat

/-- The signed integer of a magnitude. -/
def signedOf (neg : Bool) (m : Nat) : Int := if neg then -(m : Int) else m

/-- An exact sum; a zero sum of unlike zeros or of opposite values is +0. -/
def Fv.add : Fv → Fv → Fv
  | .nan, _ => .nan
  | _, .nan => .nan
  | .inf a, .inf b => if a = b then .inf a else .nan
  | .inf a, _ => .inf a
  | _, .inf b => .inf b
  | .fin a m e, .fin b n f =>
    let u := min e f
    let t := signedOf a (alignTo m e u) + signedOf b (alignTo n f u)
    if t = 0 then .fin (a && b) 0 u else .fin (decide (t < 0)) t.natAbs u

/-- An exact product. -/
def Fv.mul : Fv → Fv → Fv
  | .nan, _ => .nan
  | _, .nan => .nan
  | .inf a, .inf b => .inf (a != b)
  | .inf a, .fin b m _ => if m = 0 then .nan else .inf (a != b)
  | .fin a m _, .inf b => if m = 0 then .nan else .inf (a != b)
  | .fin a m e, .fin b n f => .fin (a != b) (m * n) (e + f)

/-- The signed comparison of two finite values: m × 2^e against n × 2^f. -/
def finCmp (a : Bool) (m : Nat) (e : Int) (b : Bool) (n : Nat) (f : Int) : Ordering :=
  let u := min e f
  compare (signedOf a (alignTo m e u)) (signedOf b (alignTo n f u))

/-- The IEEE order of two values; none when unordered (R60). -/
def Fv.cmp : Fv → Fv → Option Ordering
  | .nan, _ => none
  | _, .nan => none
  | .inf a, .inf b => some (if a = b then .eq else if a then .lt else .gt)
  | .inf a, .fin _ _ _ => some (if a then .lt else .gt)
  | .fin _ _ _, .inf b => some (if b then .gt else .lt)
  | .fin a m e, .fin b n f => some (finCmp a m e b n f)

def fAdd (a b : BitVec 32) : BitVec 32 := to32 ((fv32 a).add (fv32 b))
def fSub (a b : BitVec 32) : BitVec 32 := to32 ((fv32 a).add (fv32 b).neg)
def fMul (a b : BitVec 32) : BitVec 32 := to32 ((fv32 a).mul (fv32 b))

/-- a × b + c with one rounding. -/
def fFma (a b c : BitVec 32) : BitVec 32 := to32 (((fv32 a).mul (fv32 b)).add (fv32 c))

/-- a ÷ b, correctly rounded. -/
def fDiv (a b : BitVec 32) : BitVec 32 :=
  match fv32 a, fv32 b with
  | .nan, _ => nan32
  | _, .nan => nan32
  | .inf _, .inf _ => nan32
  | .inf s, .fin t _ _ => to32 (.inf (s != t))
  | .fin s _ _, .inf t => to32 (.fin (s != t) 0 0)
  | .fin s m e, .fin t n f =>
    if n = 0 then (if m = 0 then nan32 else to32 (.inf (s != t)))
    else
      let (p, q) := scale2 m (e - f)
      BitVec.ofNat 32 (packRatio fmt32 (s != t) p (q * n))

/-- floor(sqrt n), digit by digit from bit `k - 1`. -/
def isqrtFrom (n : Nat) : Nat → Nat → Nat
  | 0, r => r
  | k + 1, r => if (r + 2 ^ k) * (r + 2 ^ k) ≤ n then isqrtFrom n k (r + 2 ^ k) else isqrtFrom n k r

/-- floor(sqrt n). -/
def isqrt (n : Nat) : Nat := isqrtFrom n (Nat.log2 n / 2 + 1) 0

/-- The square root, correctly rounded: 64 extra bits and a sticky bit decide the rounding. -/
def fSqrt (a : BitVec 32) : BitVec 32 :=
  match fv32 a with
  | .nan => nan32
  | .inf s => if s then nan32 else to32 (.inf false)
  | .fin s m e =>
    if m = 0 then to32 (.fin s 0 0) else if s then nan32
    else
      let odd := e % 2
      let n := m * 2 ^ odd.toNat * 2 ^ 64
      let r := isqrt n
      let x := 2 * r + (if r * r = n then 0 else 1)
      to32 (.fin false x ((e - odd) / 2 - 33))

/-- R61: the maximum of two FP32 patterns. -/
def fMax (a b : BitVec 32) : BitVec 32 :=
  match (fv32 a).cmp (fv32 b) with
  | none => nan32
  | some .lt => b
  | some .gt => a
  | some .eq => if a.msb then b else a

/-- R61: the minimum of two FP32 patterns. -/
def fMin (a b : BitVec 32) : BitVec 32 :=
  match (fv32 a).cmp (fv32 b) with
  | none => nan32
  | some .lt => a
  | some .gt => b
  | some .eq => if a.msb then a else b

def fNeg (a : BitVec 32) : BitVec 32 := if (fv32 a).isNan then nan32 else a ^^^ 0x80000000#32
def fAbs (a : BitVec 32) : BitVec 32 := if (fv32 a).isNan then nan32 else a &&& 0x7FFFFFFF#32

def isNan32 (a : BitVec 32) : Bool := (fv32 a).isNan
/-- Whether an FP32 pattern is an infinity or a NaN. -/
def isNonfinite32 (a : BitVec 32) : Bool := !(fv32 a).isFin

/-- R59: FP32 to BF16, and to FP16. -/
def toBf16 (a : BitVec 32) : BitVec 16 := BitVec.ofNat 16 (packFv fmtBf16 (fv32 a))
def toF16 (a : BitVec 32) : BitVec 16 := BitVec.ofNat 16 (packFv fmtF16 (fv32 a))
/-- Exact widening of BF16 and FP16; every NaN becomes canonical. -/
def ofBf16 (h : BitVec 16) : BitVec 32 := to32 (unpackFv fmtBf16 h.toNat)
def ofF16 (h : BitVec 16) : BitVec 32 := to32 (unpackFv fmtF16 h.toNat)

/-- R60 comparisons on FP32 patterns. -/
def fEq (a b : BitVec 32) : Bool := (fv32 a).cmp (fv32 b) == some .eq
def fNe (a b : BitVec 32) : Bool := !fEq a b
def fLt (a b : BitVec 32) : Bool := (fv32 a).cmp (fv32 b) == some .lt
def fLe (a b : BitVec 32) : Bool := fEq a b || fLt a b
def fUn (a b : BitVec 32) : Bool := (fv32 a).cmp (fv32 b) == none

/-- The FP32 of an integer, rounded to nearest even. -/
def ofInt32 (i : Int) : BitVec 32 := to32 (.fin (decide (i < 0)) i.natAbs 0)

end Sys2Proof.Machine
end

