-- ==== Sys2Proof/Machine/Formats.lean ====
section
/-! DEFINITION. Element formats, codebooks, scales and tensor layout (spec/02 R41 to R63, spec/03 R66 to R91). -/

namespace Sys2Proof.Machine

/-- Bits lo to lo + len − 1 of a record held as a number. -/
def bitsAt (v lo len : Nat) : Nat := v / 2 ^ lo % 2 ^ len

/-- The two's complement value of the low `n` bits. -/
def signedBits (v n : Nat) : Int := if v % 2 ^ n < 2 ^ (n - 1) then (v % 2 ^ n : Nat) else (v % 2 ^ n : Nat) - (2 ^ n : Nat)

/-- R50: a codebook: its base exponent and its sixteen entries (Table 02-6). -/
structure Codebook where
  base : BitVec 8
  entries : List (BitVec 16)
  deriving DecidableEq, Repr

def cbSign (e : BitVec 16) : Bool := e.getLsbD 15
def cbEoff (e : BitVec 16) : Int := signedBits (bitsAt e.toNat 10 5) 5
def cbSig (e : BitVec 16) : Nat := bitsAt e.toNat 6 4
def cbReserved (e : BitVec 16) : Nat := bitsAt e.toNat 2 4
def cbNowrite (e : BitVec 16) : Bool := e.getLsbD 1
def cbZero (e : BitVec 16) : Bool := e.getLsbD 0

/-- The effective exponent of an entry (R50). -/
def cbExp (c : Codebook) (e : BitVec 16) : Int := c.base.toInt + cbEoff e

/-- R50: the value of an entry. -/
def cbValue (c : Codebook) (e : BitVec 16) : Fv :=
  if cbZero e then .fin (cbSign e) 0 0 else .fin (cbSign e) (cbSig e) (cbExp c e - 3)

/-- The value of code `k` of a codebook. -/
def cbDecode (c : Codebook) (k : Nat) : Fv := cbValue c (c.entries.getD k 1)

/-- The fixed codebooks 0 and 1 (Table 02-2). -/
def codebook0 : Codebook := ⟨0, [0x0001, 0x7E00, 0x0200, 0x0300, 0x0600, 0x0700, 0x0A00, 0x0B00,
  0x8003, 0xFE00, 0x8200, 0x8300, 0x8600, 0x8700, 0x8A00, 0x8B00]⟩
def codebook1 : Codebook := ⟨0, [0x0001, 0x0200, 0x0600, 0x0700, 0x0A00, 0x0A80, 0x0B00, 0x0B80,
  0x8E00, 0x8B80, 0x8B00, 0x8A80, 0x8A00, 0x8700, 0x8600, 0x8200]⟩

/-- Format codes of Table 03-4 that carry a UE5M3 fine scale. -/
def isDFormat (f : Nat) : Bool := [0x01, 0x10, 0x11, 0x12, 0x13, 0x14].contains f
/-- Format codes with an E8M0 scale. -/
def isMxFormat (f : Nat) : Bool := [0x02, 0x18, 0x19, 0x1A, 0x1B, 0x1C].contains f
def isBlockFormat (f : Nat) : Bool := isDFormat f || isMxFormat f
/-- R86: the format codes the device recognises. -/
def validFormat (f : Nat) : Bool := isBlockFormat f || [0x20, 0x21, 0x30].contains f
/-- R41: the formats a matrix operand may have. -/
def matrixFormat (f : Nat) : Bool := isBlockFormat f || f == 0x20

/-- Element bits of a format (Table 03-4). -/
def fmtBits (f : Nat) : Nat :=
  if f = 0x01 ∨ f = 0x02 then 4
  else if f = 0x10 ∨ f = 0x11 ∨ f = 0x18 ∨ f = 0x19 then 6
  else if f = 0x20 ∨ f = 0x21 then 16
  else if f = 0x30 then 32
  else 8

/-- Row bytes, tile bytes and scale bytes of a format (Table 03-4). -/
def rowBytes (f : Nat) : Nat := 32 * fmtBits f
def tileBytes (f : Nat) : Nat := 128 * rowBytes f
def blockLen (f : Nat) : Nat := if isMxFormat f then 32 else 16
def scaleBytes (f : Nat) : Nat := if isDFormat f then 2048 else if isMxFormat f then 1024 else 0

/-- A small binary float without infinities of its own: FP6 and FP8 codes (Table 02-3). -/
def decodeMini (ebits fbits bias code : Nat) : Fv :=
  let neg := code / 2 ^ (ebits + fbits) % 2 == 1
  let ex := code / 2 ^ fbits % 2 ^ ebits
  let fr := code % 2 ^ fbits
  if ex = 0 then .fin neg fr (1 - (bias : Int) - fbits) else .fin neg (2 ^ fbits + fr) ((ex : Int) - bias - fbits)

/-- R41 to R46: the value of an element code of format `f`; D4 decodes through its codebook. MXINT8 carries its factor
2^-6 here (R89). -/
def decodeElem (f : Nat) (cb : Codebook) (code : Nat) : Fv :=
  if f = 0x01 then cbDecode cb code
  else if f = 0x02 then cbDecode codebook0 code
  else if f = 0x10 ∨ f = 0x18 then decodeMini 2 3 1 code
  else if f = 0x11 ∨ f = 0x19 then decodeMini 3 2 3 code
  else if f = 0x12 ∨ f = 0x1A then
    if code % 128 = 0x7F then .nan else decodeMini 4 3 7 code
  else if f = 0x13 ∨ f = 0x1B then unpackFv ⟨5, 2⟩ code
  else if f = 0x14 then let i := signedBits code 8; .fin (decide (i < 0)) i.natAbs 0
  else if f = 0x1C then let i := signedBits code 8; .fin (decide (i < 0)) i.natAbs (-6)
  else if f = 0x20 then unpackFv fmtBf16 code
  else if f = 0x21 then unpackFv fmtF16 code
  else unpackFv fmt32 code

/-! ## CIF (R47, R48) -/

/-- Table 02-5: a CIF word from sign, exponent field and significand. -/
def cifWord (neg : Bool) (e m : Nat) : BitVec 18 := BitVec.ofNat 18 (neg.toNat * 2 ^ 17 + e % 512 * 256 + m % 256)

/-- R48: the CIF word of a value whose significand has at most 8 bits: exact, normalised, every NaN the canonical one. -/
def toCif : Fv → BitVec 18
  | .nan => 0x1FFC0#18
  | .inf s => cifWord s 511 0
  | .fin s m e =>
    if m = 0 then cifWord s 0 0
    else
      let k := Nat.log2 m
      cifWord s (e + k + 256).toNat (if k ≤ 7 then m * 2 ^ (7 - k) else m / 2 ^ (k - 7))

/-- R47: the value of a CIF word. -/
def cifValue (w : BitVec 18) : Fv :=
  let s := w.getLsbD 17
  let e := bitsAt w.toNat 8 9
  let m := bitsAt w.toNat 0 8
  if e = 511 then (if m = 0 then .inf s else .nan) else .fin s m ((e : Int) - 263)

/-- R41, R48: the CIF word that a matrix operand's element code decodes to. -/
def decodeCif (f : Nat) (cb : Codebook) (code : Nat) : BitVec 18 := toCif (decodeElem f cb code)

/-- The value of an element code as a reader takes it: a matrix format through CIF, FP16 and FP32 as they are. -/
def elemValue (f : Nat) (cb : Codebook) (code : Nat) : Fv :=
  if matrixFormat f then cifValue (decodeCif f cb code) else decodeElem f cb code

/-- R67: the value of a UE5M3 code. -/
def ue5m3 (c : Nat) : Fv :=
  if c = 0xFF then .nan
  else if c / 8 = 0 then .fin false (c % 8) (-17)
  else .fin false (8 + c % 8) ((c / 8 : Nat) - 18)

/-- R89: the value of an E8M0 code. -/
def e8m0 (c : Nat) : Fv := if c = 0xFF then .nan else .fin false 1 ((c : Int) - 127)

/-- The fine or block scale of a format's scale code. -/
def scaleValue (f c : Nat) : Fv := if isMxFormat f then e8m0 c else ue5m3 c

/-- Whether a ≥ b, for finite values. -/
def fvGe (a b : Fv) : Bool := match a.cmp b with | some .lt => false | some _ => true | none => false

/-- The first code from `c`, of the `n` left, whose value times `unit` is at least `x`. -/
def ue5m3Search (x unit : Fv) : Nat → Nat → Nat × Bool
  | 0, _ => (0xFE, true)
  | n + 1, c => if fvGe ((ue5m3 c).mul unit) x then (c, false) else ue5m3Search x unit n (c + 1)

/-- R68: the positive quantity `x / unit` rounded up to UE5M3, and whether the conversion saturated. -/
def ue5m3Up (x unit : Fv) : Nat × Bool :=
  if !x.isFin then (0xFF, false) else if x.isZero then (0, false) else ue5m3Search x unit 254 1

/-- R50, R124: the effective exponents of a codebook's nonzero entries. -/
def cbExps (c : Codebook) : List Int := (c.entries.filter (fun e => !cbZero e)).map (cbExp c)

def maxInt : List Int → Int
  | [] => 0
  | [a] => a
  | a :: t => max a (maxInt t)

def minInt : List Int → Int
  | [] => 0
  | [a] => a
  | a :: t => min a (minInt t)

/-- Table 05-1: the bound exponent v of a format's elements. -/
def elemBound (f : Nat) (cb : Codebook) : Int :=
  if f = 0x01 then maxInt (cbExps cb)
  else if f = 0x02 then 2
  else if f = 0x10 ∨ f = 0x18 then 2
  else if f = 0x11 ∨ f = 0x19 then 4
  else if f = 0x12 ∨ f = 0x1A then 8
  else if f = 0x13 ∨ f = 0x1B then 15
  else 7

/-- Table 05-2: the bound exponent u of a scale code that is neither zero nor NaN; none otherwise. -/
def scaleBound (f c : Nat) : Option Int :=
  if isMxFormat f then
    if c = 0xFF then none else some ((c : Int) - (if f = 0x1C then 133 else 127))
  else if c = 0 ∨ c = 0xFF then none
  else if c / 8 = 0 then some ((Nat.log2 c : Int) - 17)
  else some ((c / 8 : Nat) - 15)

/-- The codes the quantiser may write in a format, with their values (R155): no NaN or infinity, no negative zero. -/
def writableCodes (f : Nat) (cb : Codebook) : List (Nat × Fv) :=
  if f = 0x01 then
    (List.range 16).filterMap (fun k =>
      let e := cb.entries.getD k 1
      if cbNowrite e then none else some (if cbZero e then 0 else k, cbValue cb e))
  else
    let codes := (List.range (2 ^ fmtBits f)).map (fun k => (k, decodeElem f cb k))
    codes.filter (fun kv => kv.2.isFin && !(kv.2.isZero && kv.1 != 0) &&
      !((f == 0x14 || f == 0x1C) && kv.1 == 0x80) && !(f == 0x02 && kv.1 == 8))

/-- |y − v × s|, exactly. -/
def distTo (y s v : Fv) : Fv := (y.add (v.mul s).neg).abs

/-- One step of the search of R155: a nearer candidate wins, and among equally near ones an even code, then the lower. -/
def nearer (y s : Fv) (best c : Nat × Fv) : Nat × Fv :=
  match (distTo y s c.2).cmp (distTo y s best.2) with
  | some .lt => c
  | some .eq => if best.1 % 2 = 1 ∧ c.1 % 2 = 0 then c else best
  | _ => best

/-- R155: the code whose value times `s` lies nearest to `y`. -/
def nearestCode (cands : List (Nat × Fv)) (y s : Fv) : Nat :=
  match cands with
  | [] => 0
  | c :: cs =>
    let b := cs.foldl (nearer y s) c
    if b.2.isZero then 0 else b.1

/-- The largest writable magnitude L of R73. -/
def largestMag (f : Nat) (cb : Codebook) : Fv :=
  (writableCodes f cb).foldl (fun acc kv => if fvGe kv.2.abs acc then kv.2.abs else acc) (.fin false 0 0)

/-- A tensor as one barge sees it in one step: format, codebook, planes, extents, strides and coarse scale, at the
tensor's widening level. -/
structure View where
  fmt : Nat
  cb : Codebook
  base : Nat
  scaleBase : Nat
  dims : List Nat
  strides : List Nat
  coarse : BitVec 32
  deriving DecidableEq, Repr

/-- The extent of dimension `d`. -/
def View.dim (v : View) (d : Nat) : Nat := v.dims.getD d 1

/-- An index (i0, i1, i2, i3, i4). -/
abbrev Ix := Nat × Nat × Nat × Nat × Nat

/-- R82: the storage tile of an index. -/
def tileOf (v : View) : Ix → Nat
  | (i0, i1, i2, i3, i4) =>
    (i1 / 128) * ((v.dim 0 + 255) / 256) + i0 / 256 + i2 * v.strides.getD 0 0 + i3 * v.strides.getD 1 0 +
      i4 * v.strides.getD 2 0

/-- R82: the address of the byte that holds the first bit of an element. -/
def elementAddress (v : View) (i : Ix) : Nat :=
  v.base + tileOf v i * tileBytes v.fmt + i.2.1 % 128 * rowBytes v.fmt + i.1 % 256 * fmtBits v.fmt / 8

/-- R82: the address of an element's scale byte. -/
def scaleAddress (v : View) (i : Ix) : Nat :=
  v.scaleBase + tileOf v i * scaleBytes v.fmt + i.2.1 % 128 * (256 / blockLen v.fmt) + i.1 % 256 / blockLen v.fmt

/-- A little-endian number of `n` bytes at `a`. -/
def leAt (rd : Nat → BitVec 8) (a : Nat) : Nat → Nat
  | 0 => 0
  | n + 1 => (rd a).toNat + 256 * leAt rd (a + 1) n

/-- R81: the element code at an index. -/
def elemCode (rd : Nat → BitVec 8) (v : View) (i : Ix) : Nat :=
  let b := fmtBits v.fmt
  let sh := i.1 % 256 * b % 8
  leAt rd (elementAddress v i) (if sh + b ≤ 8 then 1 else (sh + b + 7) / 8) / 2 ^ sh % 2 ^ b

/-- R83: whether an index is padding of a tensor. -/
def isPadding (v : View) (i : Ix) : Bool := decide (v.dim 0 ≤ i.1) || decide (v.dim 1 ≤ i.2.1)

/-- The stored scale code at an index. -/
def scaleCode (rd : Nat → BitVec 8) (v : View) (i : Ix) : Nat := (rd (scaleAddress v i)).toNat

/-- R123, R55: the factor of a position: element times block scale; +0 at padding; NaN under a NaN scale. -/
def factorAt (rd : Nat → BitVec 8) (v : View) (i : Ix) : Fv :=
  if isPadding v i then .fin false 0 0
  else
    let e := elemValue v.fmt v.cb (elemCode rd v i)
    if isBlockFormat v.fmt then
      match scaleValue v.fmt (scaleCode rd v i) with
      | .nan => .nan
      | s => e.mul s
    else e

/-- R125: the bound exponent of a qualifying position; none when the side does not qualify. -/
def boundAt (rd : Nat → BitVec 8) (v : View) (i : Ix) : Option Int :=
  if isPadding v i then none
  else if isBlockFormat v.fmt then
    match scaleBound v.fmt (scaleCode rd v i) with
    | some u => some (elemBound v.fmt v.cb + u + 2)
    | none => none
  else
    match elemValue v.fmt v.cb (elemCode rd v i) with
    | .fin _ m e => if m = 0 then none else some (e + (Nat.log2 m : Nat) + 1)
    | _ => none

/-- R66: the value of an element, its coarse scale included. -/
def valueAt (rd : Nat → BitVec 8) (v : View) (i : Ix) : Fv :=
  if isDFormat v.fmt then (factorAt rd v i).mul (fv32 v.coarse) else factorAt rd v i

/-- R66, R59: the value of an element, rounded once to FP32. -/
def readF32 (rd : Nat → BitVec 8) (v : View) (i : Ix) : BitVec 32 := to32 (valueAt rd v i)

/-- Rounding of a nonnegative finite value toward +infinity to FP32 (R154). -/
def roundUp32 (x : Fv) : BitVec 32 :=
  let r := to32 x
  if fvGe (fv32 r) x then r else r + 1

/-- The counts one block adds to its tensor's monitor (R161). -/
structure BlockCount where
  blocks : Nat := 0
  zero : Nat := 0
  sat : Nat := 0
  nonfinite : Nat := 0
  deriving DecidableEq, Repr

/-- A block as the quantiser writes it: scale code, element codes, counts, and the amax fed to STEP_AMAX. -/
structure QBlock where
  scale : Nat
  codes : List Nat
  count : BlockCount
  amax : Option (BitVec 32)
  deriving DecidableEq, Repr

/-- One position of a block before quantisation: its exact value, whether it is real, whether it is sluiced. -/
structure QPos where
  y : Fv
  real : Bool
  sluiced : Bool
  deriving DecidableEq, Repr

/-- The exact amax over the real positions that stay in the block (R154). -/
def blockAmax (ps : List QPos) : Fv :=
  ps.foldl (fun acc p => if p.real && !p.sluiced then (if fvGe p.y.abs acc then p.y.abs else acc) else acc) (.fin false 0 0)

/-- R70: the amax of a block as STEP_AMAX takes it: NaN where a value is NaN (Table 02-9), else rounded up to FP32. -/
def blockAmax32 (ps : List QPos) : BitVec 32 :=
  if ps.any (fun p => p.real && p.y.isNan) then 0x7FC00000#32 else roundUp32 (blockAmax ps)

/-- R154 to R157: a block of 16 positions of a D format, under coarse scale `c`. A non-finite block is counted as such only,
as the procedure of R154 has it, and its amax is fed as R70 has it (log 79). -/
def quantiseBlock (f : Nat) (cb : Codebook) (c : BitVec 32) (ps : List QPos) : QBlock :=
  let zeros := ps.map (fun _ => 0)
  if !ps.any (·.real) then ⟨0, zeros, {}, none⟩
  else if ps.any (fun p => p.real && !p.y.isFin) then
    ⟨0xFF, zeros, { nonfinite := 1 }, some (blockAmax32 (ps.map (fun p => { p with sluiced := false })))⟩
  else
    let a := blockAmax ps
    let up := roundUp32 a
    if a.isZero then ⟨0, zeros, { blocks := 1, zero := 1 }, some up⟩
    else
      let (sc, sat) := ue5m3Up a ((fv32 c).mul (largestMag f cb))
      let s := (fv32 c).mul (ue5m3 sc)
      let cands := writableCodes f cb
      let codes := ps.map (fun p => if p.real && !p.sluiced then nearestCode cands p.y s else 0)
      let n : Nat := if sat then 1 else 0
      if codes.all (fun k => (decodeElem f cb k).isZero) then ⟨0, zeros, { blocks := 1, zero := 1, sat := n }, some up⟩
      else ⟨sc, codes, { blocks := 1, sat := n }, some up⟩

/-- The exponent emax of an MX format (R90). -/
def mxEmax (f : Nat) : Int :=
  if f = 0x02 ∨ f = 0x18 then 2 else if f = 0x19 then 4 else if f = 0x1A then 8 else if f = 0x1B then 15 else 0

/-- floor(log2 a) of a nonzero finite magnitude. -/
def fvLog2 : Fv → Int
  | .fin _ m e => e + (Nat.log2 m : Nat)
  | _ => 0

/-- R90: a block of 32 positions of an MX format. -/
def quantiseMx (f : Nat) (ps : List QPos) : QBlock :=
  let zeros := ps.map (fun _ => 0)
  if !ps.any (·.real) then ⟨0, zeros, {}, none⟩
  else if ps.any (fun p => p.real && !p.y.isFin) then ⟨0xFF, zeros, { nonfinite := 1 }, none⟩
  else
    let a := blockAmax ps
    if a.isZero then ⟨0, zeros, { blocks := 1, zero := 1 }, none⟩
    else
      let x := max (-127) (min 127 (fvLog2 a - mxEmax f))
      let s : Fv := .fin false 1 x
      let cands := writableCodes f codebook0
      let top := (largestMag f codebook0).mul s
      let codes := ps.map (fun p => if p.real then nearestCode cands p.y s else 0)
      ⟨(x + 127).toNat, codes, { blocks := 1, sat := if fvGe top a then 0 else 1 }, none⟩

end Sys2Proof.Machine
end

