-- ==== Sys2Proof/Machine/Operands.lean ====
section
/-! DEFINITION. The operand forms: every field of a barge descriptor, a tensor descriptor, a sluice table descriptor and a
manifest header, at the bytes and bits the tables give it (Tables 01-2, 01-3, 03-5, 04-4, 06-4, 07-2, 08-7, 08-8, 09-7,
10-3, 10-7, 10-9, 11-7, 12-8, 14-3), and of an SQ entry (R465). -/

namespace Sys2Proof.Machine

/-- Bits lo to lo + len − 1 of byte `byte` on, of a record. -/
def recBits {n : Nat} (r : BitVec n) (byte lo len : Nat) : Nat := bitsAt r.toNat (8 * byte + lo) len

/-- Whether every bit of bytes lo to hi of a record is 0. -/
def recZero {n : Nat} (r : BitVec n) (lo hi : Nat) : Bool := recBits r lo 0 (8 * (hi + 1 - lo)) == 0

/-- The bytes of a record. -/
def recByte {n : Nat} (r : BitVec n) (i : Nat) : Byte := BitVec.ofNat 8 (r.toNat / 2 ^ (8 * i))

/-! Manifest header (Table 01-2), 64 bytes. -/
def mhCount (h : BitVec 512) : Nat := recBits h 0 0 16
def mhFirst (h : BitVec 512) : Bool := recBits h 2 0 1 == 1
def mhLast (h : BitVec 512) : Bool := recBits h 2 1 1 == 1
def mhFlagsReserved (h : BitVec 512) : Nat := recBits h 2 2 14
def mhPlanEnd (h : BitVec 512) : Nat := recBits h 4 0 32
def mhPlanPos (h : BitVec 512) : Nat := recBits h 8 0 32
def mhCrc (h : BitVec 512) : Nat := recBits h 12 0 32

/-! Common barge header (Table 01-3). A descriptor is 128 bytes. -/
def bClass (b : BitVec 1024) : Nat := recBits b 0 0 8
def bOp (b : BitVec 1024) : Nat := recBits b 1 0 8
def bNotify (b : BitVec 1024) : Bool := recBits b 2 0 1 == 1
def bFence (b : BitVec 1024) : Bool := recBits b 2 1 1 == 1
def bContext (b : BitVec 1024) : Nat := recBits b 4 0 3
def bIndex (b : BitVec 1024) : Nat := recBits b 6 0 12
def bAfterA (b : BitVec 1024) : Option Nat := if recBits b 8 15 1 = 1 then some (recBits b 8 0 12) else none
def bAfterB (b : BitVec 1024) : Option Nat := if recBits b 10 15 1 = 1 then some (recBits b 10 0 12) else none
def bBudget (b : BitVec 1024) : Nat := recBits b 12 0 32

/-- Reserved bits of the common header, all of which must be 0. -/
def bHeaderReserved (b : BitVec 1024) : Nat :=
  recBits b 2 2 14 + recBits b 4 3 5 + recBits b 5 0 8 + recBits b 6 12 4 + recBits b 8 12 3 + recBits b 10 12 3

/-- A 18-bit tensor index field at a byte, and its reserved bits. -/
def bTd (b : BitVec 1024) (byte : Nat) : Nat := recBits b byte 0 18
def bTdReserved (b : BitVec 1024) (byte : Nat) : Nat := recBits b byte 18 14
/-- A 48-bit address field at a byte, and its reserved bits. -/
def bAddr (b : BitVec 1024) (byte : Nat) : Nat := recBits b byte 0 48
def bAddrReserved (b : BitVec 1024) (byte : Nat) : Nat := recBits b byte 48 16
def bU32 (b : BitVec 1024) (byte : Nat) : Nat := recBits b byte 0 32
def bU16 (b : BitVec 1024) (byte : Nat) : Nat := recBits b byte 0 16

/-! MATRIX fields (Table 04-4). -/
def mxA (b : BitVec 1024) : Nat := bTd b 16
def mxB (b : BitVec 1024) : Nat := bTd b 20
def mxC (b : BitVec 1024) : Nat := bTd b 24
def mxM (b : BitVec 1024) : Nat := bU32 b 28
def mxN (b : BitVec 1024) : Nat := bU32 b 32
def mxK (b : BitVec 1024) : Nat := bU32 b 36
def mxSplitK (b : BitVec 1024) : Nat := recBits b 40 0 8
def mxComp (b : BitVec 1024) : Bool := recBits b 41 0 1 == 1
def mxFamily (b : BitVec 1024) : Bool := recBits b 41 1 1 == 1
def mxNoCross (b : BitVec 1024) : Bool := recBits b 41 2 1 == 1
def mxBatch (b : BitVec 1024) : Nat := bU16 b 42
def mxCountAddr (b : BitVec 1024) : Nat := bAddr b 44
def mxTasks (b : BitVec 1024) : Nat := bU32 b 52

/-! Output-path fields (Table 06-4). -/
def opTranspose (b : BitVec 1024) : Bool := recBits b 64 0 1 == 1
def opBiasEn (b : BitVec 1024) : Bool := recBits b 64 1 1 == 1
def opBiasAxis (b : BitVec 1024) : Nat := recBits b 64 2 1
def opClipEn (b : BitVec 1024) : Bool := recBits b 64 3 1 == 1
def opEltOp (b : BitVec 1024) : Nat := recBits b 64 4 2
def opKernelEn (b : BitVec 1024) : Bool := recBits b 64 6 1 == 1
def opAuxEn (b : BitVec 1024) : Bool := recBits b 64 7 1 == 1
def opStatsEn (b : BitVec 1024) : Bool := recBits b 65 0 1 == 1
def opKernelId (b : BitVec 1024) : Nat := bU16 b 66
def opAlpha (b : BitVec 1024) : BitVec 32 := BitVec.ofNat 32 (bU32 b 68)
def opClipLo (b : BitVec 1024) : BitVec 32 := BitVec.ofNat 32 (bU32 b 72)
def opClipHi (b : BitVec 1024) : BitVec 32 := BitVec.ofNat 32 (bU32 b 76)
def opTdBias (b : BitVec 1024) : Nat := bTd b 80
def opTdElt (b : BitVec 1024) : Nat := bTd b 84
def opTdAux (b : BitVec 1024) : Nat := bTd b 88
def opSluiceOut (b : BitVec 1024) : Nat := bU16 b 92
def opStatsBase (b : BitVec 1024) : Nat := recBits b 96 0 21

/-! Tensor descriptor (Table 03-5), 64 bytes. -/
def tdBase (d : BitVec 512) : Nat := recBits d 0 0 48
def tdFormat (d : BitVec 512) : Nat := recBits d 8 0 8
def tdCodebook (d : BitVec 512) : Nat := recBits d 9 0 6
def tdFixedCoarse (d : BitVec 512) : Bool := recBits d 10 0 1 == 1
def tdAgree (d : BitVec 512) : Bool := recBits d 10 1 1 == 1
def tdNoHistory (d : BitVec 512) : Bool := recBits d 10 2 1 == 1
def tdWidenable (d : BitVec 512) : Bool := recBits d 10 3 1 == 1
def tdCoarseIndex (d : BitVec 512) : Nat := recBits d 12 0 16
def tdRotation (d : BitVec 512) : Nat := recBits d 14 0 16
def tdRotSize (d : BitVec 512) : Nat := recBits d 14 14 2
def tdRotKey (d : BitVec 512) : Nat := recBits d 14 0 14
def tdDim (d : BitVec 512) (i : Nat) : Nat := recBits d (16 + 4 * i) 0 32
def tdDims (d : BitVec 512) : List Nat := (List.range 5).map (tdDim d)
def tdSluice (d : BitVec 512) : Nat := recBits d 36 0 16
def tdWidenSlot (d : BitVec 512) : Nat := recBits d 38 0 10
def tdScaleBase (d : BitVec 512) : Nat := recBits d 40 0 48
def tdStride (d : BitVec 512) (i : Nat) : Nat := recBits d (48 + 4 * i) 0 32
def tdStrides (d : BitVec 512) : List Nat := (List.range 3).map (tdStride d)
def tdCheck (d : BitVec 512) : Nat := recBits d 60 0 32
def tdReserved (d : BitVec 512) : Nat :=
  recBits d 6 0 16 + recBits d 9 6 2 + recBits d 10 4 12 + recBits d 38 10 6 + recBits d 46 0 16

/-- Storage tiles of a tensor (R80): tiles of dimensions 0 and 1, over every index of dimensions 2 to 4. -/
def tdTiles (d : BitVec 512) : Nat :=
  ((tdDim d 0 + 255) / 256) * ((tdDim d 1 + 127) / 128) * tdDim d 2 * tdDim d 3 * tdDim d 4

/-! Sluice table descriptor (Table 07-2), 64 bytes. -/
def stFirst (d : BitVec 512) : Nat := recBits d 0 0 21
def stK (d : BitVec 512) : Nat := recBits d 4 0 32
def stWindows (d : BitVec 512) : Nat := (stK d + 4095) / 4096
def stBudget (d : BitVec 512) : Nat := recBits d 8 0 7
def stLeadMult (d : BitVec 512) : Nat := recBits d 9 0 5
def stKeepMult (d : BitVec 512) : Nat := recBits d 10 0 5
def stOvfThr (d : BitVec 512) : Nat := recBits d 11 0 7
def stGroup (d : BitVec 512) : Nat := recBits d 12 0 16
def stWidenSlot (d : BitVec 512) : Nat := recBits d 14 0 10
def stOvfReq (d : BitVec 512) : Bool := recBits d 14 15 1 == 1
def stLaneBase (d : BitVec 512) : Nat := recBits d 16 0 48
def stLaneRows (d : BitVec 512) : Nat := recBits d 24 0 32
def stContext (d : BitVec 512) : Nat := recBits d 28 0 3
def stInit (d : BitVec 512) : Nat := recBits d 32 0 32
def stReserved (d : BitVec 512) : Nat :=
  recBits d 0 21 11 + recBits d 8 7 1 + recBits d 9 5 3 + recBits d 10 5 3 + recBits d 11 7 1 + recBits d 14 10 5 +
    recBits d 22 0 16 + recBits d 28 3 5 + recBits d 29 0 24 + recBits d 36 0 192

/-! VECTOR fields (Tables 08-7 and 08-8). -/
def vbIn (b : BitVec 1024) (i : Nat) : Nat := bTd b (16 + 4 * i)
def vbOut (b : BitVec 1024) : Nat := bTd b 28
def vbKernel (b : BitVec 1024) (i : Nat) : Nat := bU16 b (32 + 2 * i)
def vbRed1 (b : BitVec 1024) : Nat := recBits b 38 0 4
def vbRed2 (b : BitVec 1024) : Nat := recBits b 38 4 4
def vbTopK (b : BitVec 1024) : Nat := recBits b 39 0 7
def vbInCount (b : BitVec 1024) : Nat := recBits b 40 0 2
def vbRes (b : BitVec 1024) : Nat := bAddr b 48
def cxIdx (b : BitVec 1024) : Nat := bAddr b 16
def cxList (b : BitVec 1024) : Nat := bAddr b 24
def cxCount (b : BitVec 1024) : Nat := bAddr b 32
def cxPos (b : BitVec 1024) : Nat := bAddr b 40
def cxL (b : BitVec 1024) : Nat := bU32 b 48
def cxBuckets (b : BitVec 1024) : Nat := bU16 b 52
def cxCap (b : BitVec 1024) : Nat := bU32 b 56
def cxFill (b : BitVec 1024) : BitVec 32 := BitVec.ofNat 32 (bU32 b 60)

/-! ATTENTION fields (Table 09-7). -/
def atQ (b : BitVec 1024) : Nat := bTd b 16
def atK (b : BitVec 1024) : Nat := bTd b 20
def atV (b : BitVec 1024) : Nat := bTd b 24
def atO (b : BitVec 1024) : Nat := bTd b 28
def atLse (b : BitVec 1024) : Nat := bTd b 32
def atSlot (b : BitVec 1024) : Nat := recBits b 36 0 2
def atMask (b : BitVec 1024) : Nat := recBits b 36 4 4
def atPD4 (b : BitVec 1024) : Bool := recBits b 37 0 1 == 1
def atRopeDoc (b : BitVec 1024) : Bool := recBits b 37 1 1 == 1
def atRopeHalves (b : BitVec 1024) : Bool := recBits b 37 2 1 == 1
def atSplit (b : BitVec 1024) : Nat := recBits b 38 0 7
def atRopeTable (b : BitVec 1024) : Nat := recBits b 39 0 8
def atKtFirst (b : BitVec 1024) : Nat := bU32 b 40
def atKtCount (b : BitVec 1024) : Nat := bU32 b 44
def atSegBase (b : BitVec 1024) : Nat := bU16 b 48
def atNseg (b : BitVec 1024) : Nat := bU16 b 50
def atMaskParam (b : BitVec 1024) : Nat := bU32 b 52
def atSmScale (b : BitVec 1024) : BitVec 32 := BitVec.ofNat 32 (bU32 b 56)
def atGradScale (b : BitVec 1024) : BitVec 32 := BitVec.ofNat 32 (bU32 b 60)
def atDO (b : BitVec 1024) : Nat := bTd b 80
def atDQ (b : BitVec 1024) : Nat := bTd b 84
def atDK (b : BitVec 1024) : Nat := bTd b 88
def atDV (b : BitVec 1024) : Nat := bTd b 92
def atQPos0 (b : BitVec 1024) : Nat := bU32 b 100
def atQPos1 (b : BitVec 1024) : Nat := bU32 b 104
def atQSplit (b : BitVec 1024) : Nat := bU32 b 108
def atKPos0 (b : BitVec 1024) : Nat := bU32 b 112
def atState (b : BitVec 1024) : Nat := bAddr b 116

/-! STASH, VOTE and UPDATE fields (Tables 10-3, 10-7, 10-9). -/
def saSrc (b : BitVec 1024) : Nat := bAddr b 16
def saDst (b : BitVec 1024) : Nat := bAddr b 24
def saBytes (b : BitVec 1024) : Nat := recBits b 32 0 41
def saArea (b : BitVec 1024) : Nat := recBits b 40 0 41
def voGroup (b : BitVec 1024) : Nat := bU16 b 16
def voLoss (b : BitVec 1024) : Nat := bAddr b 20
def voGnorm (b : BitVec 1024) : Nat := bAddr b 28
def voVerdict (b : BitVec 1024) : Nat := bAddr b 36
def upW (b : BitVec 1024) : Nat := bTd b 16
def upG (b : BitVec 1024) : Nat := bTd b 20
def upROff (b : BitVec 1024) : Nat := bAddr b 24
def upMOff (b : BitVec 1024) : Nat := bAddr b 32
def upSOff (b : BitVec 1024) : Nat := bAddr b 40
def upShard (b : BitVec 1024) : Nat := recBits b 48 0 64
def upHp (b : BitVec 1024) : Nat := bAddr b 56
def upGroup (b : BitVec 1024) : Nat := bU16 b 64
def upDecay (b : BitVec 1024) : Bool := recBits b 66 0 1 == 1
def upClip (b : BitVec 1024) : Bool := recBits b 66 1 1 == 1

/-! TRANSFER fields (Table 11-7). -/
def trSrc (b : BitVec 1024) : Nat := bAddr b 16
def trPattern (b : BitVec 1024) : Nat := bU32 b 16
def trDst (b : BitVec 1024) : Nat := bAddr b 24
def trBytes (b : BitVec 1024) : Nat := recBits b 32 0 41
def trRows (b : BitVec 1024) : Nat := bU32 b 40
def trSrcPitch (b : BitVec 1024) : Nat := recBits b 48 0 41
def trDstPitch (b : BitVec 1024) : Nat := recBits b 56 0 41

/-! COLLECTIVE fields (Table 12-8). -/
def coGroup (b : BitVec 1024) : Nat := recBits b 16 0 10
def coMax (b : BitVec 1024) : Bool := recBits b 18 0 1 == 1
def coIn (b : BitVec 1024) : Nat := bTd b 20
def coOut (b : BitVec 1024) : Nat := bTd b 24
def coSrc (b : BitVec 1024) : Nat := bAddr b 28
def coDst (b : BitVec 1024) : Nat := bAddr b 36
def coBytes (b : BitVec 1024) : Nat := recBits b 44 0 40
def coArg (b : BitVec 1024) : Nat := recBits b 52 0 13
def coFirst (b : BitVec 1024) : Nat := bU32 b 56
def coCount (b : BitVec 1024) : Nat := bU32 b 60

/-! Submission queue entry (R465), 64 bytes. -/
def sqOp (e : BitVec 512) : Nat := recBits e 0 0 16
def sqTag (e : BitVec 512) : Nat := recBits e 2 0 16
def sqAddr (e : BitVec 512) : Nat := recBits e 8 0 64
def sqLen (e : BitVec 512) : Nat := recBits e 16 0 64
def sqArg (e : BitVec 512) : Nat := recBits e 24 0 64
def sqReserved (e : BitVec 512) : Nat := recBits e 4 0 32 + recBits e 32 0 256

/-! TEST fields (Table 14-3). -/
def teEngine (b : BitVec 1024) : Nat := recBits b 16 0 11
def teFirst (b : BitVec 1024) : Nat := recBits b 18 0 4
def teLast (b : BitVec 1024) : Nat := recBits b 19 0 4
def teRes (b : BitVec 1024) : Nat := bAddr b 20
def teAddr (b : BitVec 1024) : Nat := bAddr b 28
def teBytes (b : BitVec 1024) : Nat := recBits b 36 0 41

end Sys2Proof.Machine
end

