-- ==== Sys2Proof/Machine/Accum.lean ====
section
/-! DEFINITION. Products, accumulation and the order of sums (spec/05 R122 to R137, spec/02 R55, R56). -/

namespace Sys2Proof.Machine

/-- R55: the special state of an output element. -/
inductive Special where
  | none | pinf | ninf | nan
  deriving DecidableEq, Repr

/-- Table 02-8: a state combined with a contribution. -/
def combine : Special → Special → Special
  | .none, x => x
  | s, .none => s
  | .pinf, .pinf => .pinf
  | .ninf, .ninf => .ninf
  | _, _ => .nan

/-- Table 02-8: the contribution of a product with a non-finite factor. -/
def specialOf (a b : Fv) : Special :=
  match a.mul b with
  | .nan => .nan
  | .inf s => if s then .ninf else .pinf
  | .fin _ _ _ => .none

/-- The mode of a running sum: window bits below the ceiling and positions of a group (R126, R134). -/
structure WindowShape where
  below : Nat
  group : Nat
  deriving DecidableEq, Repr

def normalWindow : WindowShape := ⟨71, 256⟩
def familyWindow : WindowShape := ⟨18, 32⟩

/-- One position of a group as one output element meets it: both factors and both bound exponents. -/
structure Pos where
  a : Fv
  b : Fv
  boundA : Option Int
  boundB : Option Int
  deriving DecidableEq, Repr

/-- R125: the group ceiling; none when no position qualifies. -/
def ceiling (ps : List Pos) : Option Int :=
  ps.foldl (fun acc p =>
    match p.boundA, p.boundB with
    | some x, some y => some (match acc with | some c => max c (x + y) | none => x + y)
    | _, _ => acc) none

/-- |m × 2^e| in units of 2^u, truncated toward zero, and whether a nonzero part was dropped (R126). -/
def truncUnits (m : Nat) (e u : Int) : Nat × Bool :=
  if u ≤ e then (m * 2 ^ (e - u).toNat, false)
  else (m / 2 ^ (u - e).toNat, m % 2 ^ (u - e).toNat != 0)

/-- The window after one position, with the special state and the sticky bit (R122, R126). -/
def addPos (u : Int) (acc : Int × Special × Bool) (p : Pos) : Int × Special × Bool :=
  if !p.a.isFin || !p.b.isFin then (acc.1, combine acc.2.1 (specialOf p.a p.b), acc.2.2)
  else
    match p.a.mul p.b with
    | .fin s m e =>
      if m = 0 then acc
      else
        let (q, d) := truncUnits m e u
        (acc.1 + signedOf s q, acc.2.1, acc.2.2 || d)
    | _ => acc

/-- A finite value as an exact signed number m × 2^e. -/
def signedFv : Fv → Int × Int
  | .fin s m e => (signedOf s m, e)
  | _ => (0, 0)

/-- An exact sum of m × 2^e and n × 2^f. -/
def addScaled (m : Int) (e : Int) (n : Int) (f : Int) : Int × Int :=
  let u := min e f
  (m * 2 ^ (e - u).toNat + n * 2 ^ (f - u).toNat, u)

/-- The largest finite FP32 pattern of a sign. -/
def maxFinite32 (neg : Bool) : BitVec 32 := if neg then 0xFF7FFFFF#32 else 0x7F7FFFFF#32

/-- R127: the exact sum m × 2^e rounded into a running total; overflow goes into the special state, a zero is +0. -/
def promoteExact (st : Special) (m e : Int) : BitVec 32 × Special :=
  let neg := decide (m < 0)
  let r := to32 (.fin neg m.natAbs e)
  if r &&& 0x7FFFFFFF#32 = 0 then (0, st)
  else if isNonfinite32 r then (maxFinite32 neg, combine st (if neg then .ninf else .pinf))
  else (r, st)

/-- R127: promotion of a window `w` of units 2^u into the total `t`. -/
def promote (t : BitVec 32) (st : Special) (w u : Int) : BitVec 32 × Special :=
  let (m, e) := signedFv (fv32 t)
  let (n, f) := addScaled m e w u
  promoteExact st n f

/-- A running total: hi alone, or the pair (hi, lo) of compensated mode (R132). -/
structure Total where
  hi : BitVec 32 := 0
  lo : BitVec 32 := 0
  st : Special := .none
  deriving DecidableEq, Repr

/-- R132: promotion of the exact hi + lo + w × 2^u. -/
def promote2 (t : Total) (w u : Int) : Total :=
  let (m, e) := signedFv (fv32 t.hi)
  let (n, f) := signedFv (fv32 t.lo)
  let (p, g) := addScaled m e n f
  let (v, x) := addScaled p g w u
  let (hi, st) := promoteExact t.st v x
  if hi &&& 0x7FFFFFFF#32 = 0x7F7FFFFF#32 ∧ (st = .pinf ∨ st = .ninf) then ⟨hi, 0, st⟩
  else
    let (h, k) := signedFv (fv32 hi)
    let (d, y) := addScaled v x (-h) k
    let lo := to32 (.fin (decide (d < 0)) d.natAbs y)
    ⟨hi, if lo &&& 0x7FFFFFFF#32 = 0 then 0 else lo, st⟩

/-- One group or sub-group of an element, promoted into its total (R122, R134); also its sticky bit. -/
def addGroup (comp : Bool) (sh : WindowShape) (t : Total) (ps : List Pos) : Total × Bool :=
  match ceiling ps with
  | none => ({ t with st := (ps.foldl (addPos 0) (0, t.st, false)).2.1 }, false)
  | some c =>
    let u := c - sh.below
    let (w, st, sticky) := ps.foldl (addPos u) (0, t.st, false)
    if comp then (promote2 { t with st := st } w u, sticky)
    else
      let (r, st') := promote t.hi st w u
      (⟨r, 0, st'⟩, sticky)

/-- The groups `gs` of a segment in ascending order, each given by its positions. -/
def addGroups (comp : Bool) (sh : WindowShape) (pos : Nat → List Pos) : List Nat → Total → Total
  | [], t => t
  | g :: gs, t => addGroups comp sh pos gs (addGroup comp sh t (pos g)).1

/-- R128, R132: the join of two segment results. -/
def joinTwo (comp : Bool) (x y : Total) : Total :=
  let st := combine x.st y.st
  if comp then
    let (m, e) := signedFv (fv32 y.hi)
    let (n, f) := signedFv (fv32 y.lo)
    let (p, g) := addScaled m e n f
    promote2 { x with st := st } p g
  else
    let (m, e) := signedFv (fv32 y.hi)
    let (r, st') := promote x.hi st m e
    ⟨r, 0, st'⟩

/-- One level of the join tree: neighbours pair up, an odd last one is carried over. -/
def joinLevel (comp : Bool) : List Total → List Total
  | x :: y :: rest => joinTwo comp x y :: joinLevel comp rest
  | xs => xs

/-- R128: the join tree over the segments, in at most `fuel` levels. -/
def joinTree (comp : Bool) : Nat → List Total → Total
  | 0, xs => xs.headD {}
  | fuel + 1, xs =>
    match xs with
    | [] => {}
    | [x] => x
    | xs => joinTree comp fuel (joinLevel comp xs)

/-- R56: what a drained element delivers. -/
def deliver (t : Total) : BitVec 32 :=
  match t.st with
  | .none => t.hi
  | .pinf => 0x7F800000#32
  | .ninf => 0xFF800000#32
  | .nan => nan32

/-! ## Row states -/

/-- A row state (R234). M is the integer that R233 holds in FP32. -/
inductive RowState where
  | empty
  | finite (m : Int) (l : BitVec 32) (o : List (BitVec 32))
  | inf (n : Nat) (o : List (BitVec 32))
  | nan
  deriving DecidableEq, Repr

/-- R101: the groups of segment `j` of `s`, of `g` groups in all. -/
def segmentGroups (g s j : Nat) : List Nat :=
  let lo := j * g / s
  (List.range ((j + 1) * g / s - lo)).map (· + lo)

end Sys2Proof.Machine
end

