-- ==== Sys2Proof/Machine/RegMap.lean ====
section
/-! DEFINITION. The register map: every register of the register tables of spec/00 to spec/19, with the access code,
the reset value and the surviving reset domains of every field (R2 to R8), and the names by which the model calls
registers (`R.`) and their fields (`F.`). -/

namespace Sys2Proof.Machine

/-- Access codes (Table 00-3). -/
inductive Acc where
  | ro | rw | w1c | wo | rc | rwl
  deriving DecidableEq, Repr

/-- One field of a register table: bits hi:lo, access, reset value, and the reset domains it survives, as the sum of
C = 1, M = 2, D = 4, X = 8, K = 16 (Table 00-4). -/
structure RegField where
  hi : Nat
  lo : Nat
  acc : Acc
  reset : Nat
  surv : Nat
  deriving DecidableEq, Repr

/-- One register, or one array of them: the BAR0 offset of the first, (count, stride) of each index, whether the first
index is a context, whether it is 64 bits wide, whether the teardown of its owner alone resets it, and its fields. -/
structure RegRow where
  base : Nat
  dims : List (Nat × Nat)
  byCtx : Bool
  wide : Bool
  owned : Bool
  fields : List RegField
  deriving DecidableEq, Repr

/-- A named field: BAR0 offset of its register and its bits. -/
structure Fld where
  addr : Nat
  hi : Nat
  lo : Nat
  deriving DecidableEq, Repr

/-- LOCK registers. -/
def lockRows : List RegRow := [
  ⟨0x100000, [], false, false, false, [⟨12, 0, .rwl, 0x00C8, 28⟩]⟩, -- LOCK_PERIOD, Table 01-6
  ⟨0x100004, [], false, false, false, [⟨23, 16, .rwl, 0x20, 28⟩, ⟨15, 8, .rwl, 0x14, 28⟩, ⟨7, 0, .rwl, 0x04, 28⟩]⟩, -- LOCK_SLOTS, Table 01-7
  ⟨0x100008, [], false, false, false, [⟨15, 8, .rwl, 0x18, 28⟩, ⟨7, 0, .rwl, 0x0C, 28⟩]⟩, -- LOCK_STRETCH_TIMING, Table 01-8
  ⟨0x10000c, [], false, false, false, [⟨3, 3, .rwl, 1, 28⟩, ⟨2, 2, .rwl, 0, 28⟩, ⟨1, 1, .rwl, 0, 28⟩, ⟨0, 0, .rwl, 1, 28⟩]⟩, -- LOCK_CTL, Table 01-9
  ⟨0x100010, [], false, false, false, [⟨4, 4, .ro, 0, 16⟩, ⟨3, 3, .ro, 0, 16⟩, ⟨2, 2, .ro, 0, 16⟩, ⟨1, 1, .ro, 0, 16⟩, ⟨0, 0, .ro, 0, 24⟩]⟩, -- LOCK_STATUS, Table 01-10
  ⟨0x100014, [], false, false, false, [⟨6, 6, .w1c, 0, 16⟩, ⟨5, 5, .w1c, 0, 16⟩, ⟨4, 4, .w1c, 0, 16⟩, ⟨3, 3, .w1c, 0, 16⟩, ⟨2, 2, .w1c, 0, 16⟩, ⟨1, 1, .w1c, 0, 16⟩, ⟨0, 0, .w1c, 0, 16⟩]⟩, -- LOCK_EVENTS, Table 01-11
  ⟨0x100018, [], false, true, false, [⟨63, 0, .ro, 0, 24⟩]⟩, -- LOCK_FTC, Table 01-12
  ⟨0x100020, [], false, true, false, [⟨63, 0, .ro, 0, 24⟩]⟩, -- LOCK_INDEX, Table 01-13
  ⟨0x100028, [], false, true, false, [⟨63, 0, .ro, 0, 24⟩]⟩, -- LOCK_NEXT_TICK, Table 01-14
  ⟨0x100030, [], false, false, false, [⟨31, 16, .ro, 0, 16⟩, ⟨15, 0, .ro, 0, 16⟩]⟩, -- LOCK_GRANT, Table 01-15
  ⟨0x100034, [], false, false, false, [⟨23, 16, .ro, 0x40, 28⟩, ⟨15, 8, .ro, 0x40, 28⟩, ⟨7, 0, .ro, 0x40, 28⟩]⟩, -- LOCK_SLOW, Table 01-15
  ⟨0x100038, [], false, false, false, [⟨31, 0, .ro, 0, 16⟩]⟩, -- LOCK_STRETCH_COUNT, Table 01-16
  ⟨0x10003c, [], false, false, false, [⟨31, 0, .ro, 0, 16⟩]⟩, -- LOCK_OVERRUN_COUNT, Table 01-16
  ⟨0x100040, [], false, false, false, [⟨31, 0, .ro, 0, 16⟩]⟩, -- LOCK_BUDGET_COUNT, Table 01-16
  ⟨0x100044, [], false, false, false, [⟨31, 0, .ro, 0, 16⟩]⟩ -- LOCK_LAST_END, Table 01-16
  ]

/-- FORMAT registers. -/
def formatRows : List RegRow := [
  ⟨0x200000, [], false, true, true, [⟨63, 2, .ro, 0, 16⟩, ⟨1, 0, .ro, 3, 31⟩]⟩, -- FORMAT_CB_VALID, Table 02-11
  ⟨0x200008, [], false, false, false, [⟨31, 31, .wo, 0, 0⟩, ⟨10, 8, .wo, 0, 0⟩, ⟨5, 0, .wo, 0, 0⟩]⟩, -- FORMAT_CB_CMD, Table 02-12
  ⟨0x20000c, [], false, false, false, [⟨31, 31, .ro, 0, 0⟩, ⟨19, 16, .ro, 0, 0⟩, ⟨13, 8, .ro, 0, 0⟩, ⟨7, 0, .ro, 0, 0⟩]⟩, -- FORMAT_CB_RESULT, Table 02-13
  ⟨0x200010, [], false, false, false, [⟨7, 0, .rw, 0, 0⟩]⟩, -- FORMAT_CB_STAGE_BASE, Table 02-14
  ⟨0x200014, [(8, 0x4)], false, false, false, [⟨31, 16, .rw, 0, 0⟩, ⟨15, 0, .rw, 0, 0⟩]⟩, -- FORMAT_CB_STAGE_ENTRY, Table 02-15
  ⟨0x200040, [], false, false, false, [⟨31, 0, .rc, 0, 16⟩]⟩, -- FORMAT_NONFINITE_OUT, Table 02-16
  ⟨0x201000, [(2, 0x40)], false, false, false, [⟨31, 31, .ro, 1, 31⟩, ⟨26, 24, .ro, 0, 31⟩, ⟨7, 0, .ro, 0, 31⟩]⟩, -- FORMAT_CB_HDR, Table 02-17
  ⟨0x201080, [(62, 0x40)], false, false, true, [⟨31, 31, .ro, 0, 16⟩, ⟨26, 24, .ro, 0, 16⟩, ⟨7, 0, .ro, 0, 16⟩]⟩, -- FORMAT_CB_HDR 2..63, Table 02-17
  ⟨0x201004, [], false, false, false, [⟨31, 16, .ro, 0x7E00, 31⟩, ⟨15, 0, .ro, 0x0001, 31⟩]⟩, -- FORMAT_CB_ENT 0 0, Table 02-18
  ⟨0x201008, [], false, false, false, [⟨31, 16, .ro, 0x0300, 31⟩, ⟨15, 0, .ro, 0x0200, 31⟩]⟩, -- FORMAT_CB_ENT 0 1, Table 02-18
  ⟨0x20100c, [], false, false, false, [⟨31, 16, .ro, 0x0700, 31⟩, ⟨15, 0, .ro, 0x0600, 31⟩]⟩, -- FORMAT_CB_ENT 0 2, Table 02-18
  ⟨0x201010, [], false, false, false, [⟨31, 16, .ro, 0x0B00, 31⟩, ⟨15, 0, .ro, 0x0A00, 31⟩]⟩, -- FORMAT_CB_ENT 0 3, Table 02-18
  ⟨0x201014, [], false, false, false, [⟨31, 16, .ro, 0xFE00, 31⟩, ⟨15, 0, .ro, 0x8003, 31⟩]⟩, -- FORMAT_CB_ENT 0 4, Table 02-18
  ⟨0x201018, [], false, false, false, [⟨31, 16, .ro, 0x8300, 31⟩, ⟨15, 0, .ro, 0x8200, 31⟩]⟩, -- FORMAT_CB_ENT 0 5, Table 02-18
  ⟨0x20101c, [], false, false, false, [⟨31, 16, .ro, 0x8700, 31⟩, ⟨15, 0, .ro, 0x8600, 31⟩]⟩, -- FORMAT_CB_ENT 0 6, Table 02-18
  ⟨0x201020, [], false, false, false, [⟨31, 16, .ro, 0x8B00, 31⟩, ⟨15, 0, .ro, 0x8A00, 31⟩]⟩, -- FORMAT_CB_ENT 0 7, Table 02-18
  ⟨0x201044, [], false, false, false, [⟨31, 16, .ro, 0x0200, 31⟩, ⟨15, 0, .ro, 0x0001, 31⟩]⟩, -- FORMAT_CB_ENT 1 0, Table 02-18
  ⟨0x201048, [], false, false, false, [⟨31, 16, .ro, 0x0700, 31⟩, ⟨15, 0, .ro, 0x0600, 31⟩]⟩, -- FORMAT_CB_ENT 1 1, Table 02-18
  ⟨0x20104c, [], false, false, false, [⟨31, 16, .ro, 0x0A80, 31⟩, ⟨15, 0, .ro, 0x0A00, 31⟩]⟩, -- FORMAT_CB_ENT 1 2, Table 02-18
  ⟨0x201050, [], false, false, false, [⟨31, 16, .ro, 0x0B80, 31⟩, ⟨15, 0, .ro, 0x0B00, 31⟩]⟩, -- FORMAT_CB_ENT 1 3, Table 02-18
  ⟨0x201054, [], false, false, false, [⟨31, 16, .ro, 0x8B80, 31⟩, ⟨15, 0, .ro, 0x8E00, 31⟩]⟩, -- FORMAT_CB_ENT 1 4, Table 02-18
  ⟨0x201058, [], false, false, false, [⟨31, 16, .ro, 0x8A80, 31⟩, ⟨15, 0, .ro, 0x8B00, 31⟩]⟩, -- FORMAT_CB_ENT 1 5, Table 02-18
  ⟨0x20105c, [], false, false, false, [⟨31, 16, .ro, 0x8700, 31⟩, ⟨15, 0, .ro, 0x8A00, 31⟩]⟩, -- FORMAT_CB_ENT 1 6, Table 02-18
  ⟨0x201060, [], false, false, false, [⟨31, 16, .ro, 0x8200, 31⟩, ⟨15, 0, .ro, 0x8600, 31⟩]⟩, -- FORMAT_CB_ENT 1 7, Table 02-18
  ⟨0x201084, [(62, 0x40), (8, 0x4)], false, false, true, [⟨31, 16, .ro, 0, 16⟩, ⟨15, 0, .ro, 0, 16⟩]⟩, -- FORMAT_CB_ENT 2..63, Table 02-18
  ⟨0x200044, [], false, false, false, [⟨31, 0, .ro, 0, 16⟩]⟩, -- FORMAT_Q_BLOCKS, Table 06-6
  ⟨0x200048, [], false, false, false, [⟨31, 0, .ro, 0, 16⟩]⟩, -- FORMAT_Q_ZERO, Table 06-6
  ⟨0x20004c, [], false, false, false, [⟨31, 0, .ro, 0, 16⟩]⟩, -- FORMAT_Q_SAT, Table 06-6
  ⟨0x200050, [], false, false, false, [⟨31, 0, .ro, 0, 16⟩]⟩, -- FORMAT_Q_NONFINITE, Table 06-6
  ⟨0x200054, [], false, false, false, [⟨31, 0, .ro, 0, 16⟩]⟩ -- FORMAT_Q_SLUICED, Table 06-6
  ]

/-- SCALE registers. -/
def scaleRows : List RegRow := [
  ⟨0x300010, [(8, 0x4)], true, false, false, [⟨31, 31, .ro, 0, 0⟩, ⟨30, 30, .ro, 1, 0⟩, ⟨3, 0, .ro, 0x4, 0⟩]⟩, -- SCALE_CTX, Table 03-7
  ⟨0x300030, [(8, 0x4)], true, false, false, [⟨31, 16, .ro, 0, 0⟩, ⟨15, 0, .ro, 0, 0⟩]⟩, -- SCALE_CTX_RANGE, Table 03-8
  ⟨0x300050, [], false, true, false, [⟨63, 0, .ro, 0xFE0038000000, 31⟩]⟩, -- SCALE_SHT_BASE, Table 03-9
  ⟨0x300058, [], false, true, false, [⟨63, 0, .ro, 0xFE003C000000, 31⟩]⟩, -- SCALE_CST_BASE, Table 03-9
  ⟨0x300060, [], false, false, false, [⟨31, 31, .wo, 0, 0⟩, ⟨15, 0, .rw, 0, 0⟩]⟩, -- SCALE_RD_SEL, Table 03-10
  ⟨0x300064, [], false, false, false, [⟨31, 31, .ro, 0, 0⟩]⟩, -- SCALE_RD_STATUS, Table 03-10
  ⟨0x300068, [], false, false, false, [⟨31, 0, .ro, 0, 0⟩]⟩, -- SCALE_RD_H, Table 03-11
  ⟨0x30006c, [], false, false, false, [⟨31, 0, .ro, 0, 0⟩]⟩, -- SCALE_RD_C0, Table 03-11
  ⟨0x300070, [], false, false, false, [⟨31, 0, .ro, 0, 0⟩]⟩, -- SCALE_RD_C1, Table 03-11
  ⟨0x300074, [], false, false, false, [⟨31, 0, .ro, 0, 0⟩]⟩, -- SCALE_RD_AMAX, Table 03-11
  ⟨0x300080, [(4, 0x4)], false, false, false, [⟨31, 0, .ro, 0, 0⟩]⟩, -- SCALE_RD_HIST 0..3, Table 03-11
  ⟨0x3000a0, [(8, 0x4)], false, false, false, [⟨31, 0, .ro, 0, 0⟩]⟩, -- SCALE_RD_HIST 8..15, Table 03-11
  ⟨0x300090, [], false, true, false, [⟨63, 0, .ro, 0, 0⟩]⟩, -- SCALE_LAST_STEP, Table 03-12
  ⟨0x300098, [], false, false, false, [⟨31, 0, .ro, 0, 16⟩]⟩, -- SCALE_BOOTSTRAP_COUNT, Table 03-12
  ⟨0x30009c, [], false, false, false, [⟨31, 0, .ro, 0, 16⟩]⟩, -- SCALE_CLAMP_COUNT, Table 03-12
  ⟨0x300100, [], false, true, false, [⟨63, 0, .ro, 0xFE0030000000, 31⟩]⟩, -- SCALE_CSTAT_BASE, Table 07-6
  ⟨0x300108, [], false, false, false, [⟨1, 1, .ro, 0, 0⟩, ⟨0, 0, .ro, 0, 0⟩]⟩, -- SCALE_CSTAT_STATUS, Table 07-6
  ⟨0x300110, [(8, 0x8)], true, false, false, [⟨20, 0, .ro, 0, 0⟩]⟩, -- SCALE_CSTAT_CLAIM_FIRST, Table 07-7
  ⟨0x300114, [(8, 0x8)], true, false, false, [⟨21, 0, .ro, 0, 0⟩]⟩, -- SCALE_CSTAT_CLAIM_COUNT, Table 07-7
  ⟨0x300150, [], false, false, false, [⟨31, 31, .wo, 0, 0⟩, ⟨24, 24, .rw, 0, 0⟩, ⟨20, 0, .rw, 0, 0⟩]⟩, -- SCALE_CSTAT_RD_SEL, Table 07-8
  ⟨0x300154, [], false, false, false, [⟨31, 31, .ro, 0, 0⟩]⟩, -- SCALE_CSTAT_RD_STATUS, Table 07-8
  ⟨0x300158, [], false, false, false, [⟨31, 0, .ro, 0, 0⟩]⟩, -- SCALE_CSTAT_RD_AMAX, Table 07-8
  ⟨0x30015c, [], false, false, false, [⟨31, 0, .ro, 0, 0⟩]⟩, -- SCALE_CSTAT_RD_LEAD, Table 07-8
  ⟨0x300160, [], false, false, false, [⟨31, 0, .ro, 0, 0⟩]⟩, -- SCALE_CSTAT_RD_ROWS, Table 07-8
  ⟨0x300164, [], false, false, false, [⟨31, 0, .ro, 0, 0⟩]⟩, -- SCALE_CSTAT_RD_STEP, Table 07-8
  ⟨0x300168, [], false, false, false, [⟨31, 0, .ro, 0, 16⟩]⟩ -- SCALE_CSTAT_DISCARD, Table 07-8
  ]

/-- COMPUTE registers. -/
def computeRows : List RegRow := [
  ⟨0x400000, [(4, 0x100000)], false, false, false, [⟨25, 25, .ro, 0, 28⟩, ⟨24, 16, .ro, 0, 0⟩, ⟨8, 0, .ro, 0, 28⟩]⟩, -- COMPUTE_DIE_STATUS, Table 04-5
  ⟨0x400004, [], false, false, false, [⟨16, 16, .rwl, 1, 28⟩, ⟨15, 8, .rwl, 0x08, 28⟩, ⟨2, 0, .rwl, 0x2, 28⟩]⟩, -- COMPUTE_STEAL, Table 04-6
  ⟨0x400008, [], false, false, false, [⟨31, 31, .ro, 0, 16⟩, ⟨30, 30, .ro, 0, 16⟩, ⟨14, 12, .ro, 0, 16⟩, ⟨11, 0, .ro, 0, 16⟩]⟩, -- COMPUTE_ARRAY, Table 04-7
  ⟨0x40000c, [], false, false, false, [⟨31, 0, .ro, 0, 16⟩]⟩, -- COMPUTE_TASKS_TOTAL, Table 04-7
  ⟨0x400010, [(4, 0x100000)], false, false, false, [⟨31, 0, .ro, 0, 0⟩]⟩, -- COMPUTE_TASKS_DONE, Table 04-8
  ⟨0x400014, [(4, 0x100000)], false, false, false, [⟨31, 0, .ro, 0, 16⟩]⟩, -- COMPUTE_STEALS_IN, Table 04-8
  ⟨0x400018, [(4, 0x100000)], false, false, false, [⟨31, 0, .ro, 0, 16⟩]⟩, -- COMPUTE_STEALS_CROSS, Table 04-8
  ⟨0x40001c, [(4, 0x100000)], false, false, false, [⟨31, 0, .ro, 0, 16⟩]⟩, -- COMPUTE_SPLITK_WAIT, Table 04-8
  ⟨0x400020, [(4, 0x100000)], false, false, false, [⟨31, 31, .ro, 0, 0⟩, ⟨8, 0, .ro, 0, 0⟩]⟩, -- COMPUTE_WITHHELD, Table 04-9
  ⟨0x400024, [(4, 0x100000)], false, false, false, [⟨10, 0, .ro, 0x44C, 28⟩]⟩, -- COMPUTE_CLK, Table 04-9
  ⟨0x400100, [(4, 0x100000), (20, 0x4)], false, false, false, [⟨16, 0, .rwl, 0, 28⟩]⟩, -- COMPUTE_DISABLED, Table 04-10
  ⟨0x400180, [(4, 0x100000), (20, 0x4)], false, false, false, [⟨16, 0, .ro, 0, 28⟩]⟩, -- COMPUTE_OFFLINE, Table 04-10
  ⟨0x400200, [(4, 0x100000)], false, false, false, [⟨8, 0, .rw, 0, 0⟩]⟩, -- COMPUTE_ENG_SEL, Table 04-11
  ⟨0x400204, [(4, 0x100000)], false, false, false, [⟨31, 29, .ro, 0, 0⟩, ⟨28, 27, .ro, 0, 0⟩, ⟨23, 0, .ro, 0, 0⟩]⟩, -- COMPUTE_ENG_STATUS, Table 04-11
  ⟨0x400030, [(4, 0x100000)], false, false, false, [⟨31, 0, .ro, 0, 16⟩]⟩, -- COMPUTE_STICKY_GROUPS, Table 05-8
  ⟨0x400034, [(4, 0x100000)], false, false, false, [⟨31, 0, .ro, 0, 16⟩]⟩ -- COMPUTE_FORCED_DRAINS, Table 05-8
  ]

/-- TRAIN registers. -/
def trainRows : List RegRow := [
  ⟨0xa10000, [], false, true, false, [⟨63, 0, .ro, 0xFE0034000000, 31⟩]⟩, -- TRAIN_SLUICE_BASE, Table 07-9
  ⟨0xa10008, [], false, false, false, [⟨31, 31, .ro, 0, 0⟩, ⟨30, 30, .ro, 0, 0⟩, ⟨0, 0, .ro, 0, 0⟩]⟩, -- TRAIN_SLUICE_STATUS, Table 07-9
  ⟨0xa10020, [(8, 0x4)], true, false, false, [⟨26, 16, .ro, 0, 0⟩, ⟨15, 0, .ro, 0, 0⟩]⟩, -- TRAIN_WIDEN_CTX, Table 07-10
  ⟨0xa100c0, [(8, 0x4)], true, false, false, [⟨31, 16, .ro, 0, 0⟩, ⟨15, 0, .ro, 0, 0⟩]⟩, -- TRAIN_MON_THR, Table 07-10
  ⟨0xa10040, [(8, 0x10)], true, true, false, [⟨63, 0, .ro, 0, 0⟩]⟩, -- TRAIN_WIDEN_ARENA_BASE, Table 07-10
  ⟨0xa10048, [(8, 0x10)], true, true, false, [⟨63, 0, .ro, 0, 0⟩]⟩, -- TRAIN_WIDEN_ARENA_SIZE, Table 07-10
  ⟨0xa10100, [], false, false, false, [⟨14, 12, .rw, 0, 0⟩, ⟨9, 0, .rw, 0, 0⟩]⟩, -- TRAIN_WIDEN_SEL, Table 07-11
  ⟨0xa10104, [], false, false, false, [⟨31, 30, .ro, 0, 0⟩, ⟨29, 29, .ro, 0, 0⟩, ⟨28, 28, .ro, 0, 0⟩, ⟨15, 0, .ro, 0, 0⟩]⟩, -- TRAIN_WIDEN_STATE, Table 07-11
  ⟨0xa1000c, [], false, false, false, [⟨31, 0, .ro, 0, 16⟩]⟩, -- TRAIN_SLUICE_SWAPS, Table 07-12
  ⟨0xa10010, [], false, false, false, [⟨31, 0, .ro, 0, 16⟩]⟩, -- TRAIN_SLUICE_WITHHELD, Table 07-12
  ⟨0xa10014, [], false, false, false, [⟨31, 0, .ro, 0, 16⟩]⟩, -- TRAIN_SLUICE_OVERFLOW, Table 07-12
  ⟨0xa10110, [], false, false, false, [⟨31, 0, .ro, 0, 16⟩]⟩, -- TRAIN_WIDEN_GRANTS, Table 07-12
  ⟨0xa10114, [], false, false, false, [⟨31, 0, .ro, 0, 16⟩]⟩, -- TRAIN_WIDEN_EXHAUSTED, Table 07-12
  ⟨0xa10118, [], false, false, false, [⟨31, 0, .ro, 0, 16⟩]⟩, -- TRAIN_WIDEN_UNFIT, Table 07-12
  ⟨0xa1011c, [], false, false, false, [⟨31, 0, .ro, 0, 16⟩]⟩, -- TRAIN_WIDEN_NARROWED, Table 07-12
  ⟨0xa10120, [], false, false, false, [⟨31, 0, .ro, 0, 16⟩]⟩, -- TRAIN_WIDEN_RETIMED, Table 07-12
  ⟨0xa00000, [(8, 0x4)], true, false, false, [⟨15, 0, .rw, 0x0020, 0⟩]⟩, -- TRAIN_CTX_CFG, Table 10-15
  ⟨0xa00020, [(8, 0x4)], true, false, false, [⟨31, 31, .ro, 0, 0⟩, ⟨30, 30, .ro, 0, 0⟩, ⟨29, 29, .ro, 0, 0⟩, ⟨28, 28, .ro, 0, 0⟩, ⟨27, 27, .ro, 0, 0⟩, ⟨26, 26, .ro, 0, 0⟩, ⟨25, 25, .ro, 0, 0⟩, ⟨24, 24, .ro, 0, 0⟩, ⟨18, 16, .ro, 0, 0⟩, ⟨15, 0, .ro, 0, 0⟩]⟩, -- TRAIN_CTX_STATUS, Table 10-15
  ⟨0xa00040, [(8, 0x8)], true, true, false, [⟨63, 0, .ro, 0, 12⟩]⟩, -- TRAIN_STEP, Table 10-16
  ⟨0xa00080, [(8, 0x8)], true, true, false, [⟨63, 0, .ro, 0xFFFFFFFFFFFFFFFF, 12⟩]⟩, -- TRAIN_COMMIT, Table 10-16
  ⟨0xa000c0, [(8, 0x4)], true, false, false, [⟨1, 1, .ro, 0, 12⟩, ⟨0, 0, .ro, 0, 12⟩]⟩, -- TRAIN_ARENA, Table 10-16
  ⟨0xa00100, [(8, 0x8)], true, true, false, [⟨63, 0, .rw, 0, 0⟩]⟩, -- TRAIN_SEED, Table 10-17
  ⟨0xa00200, [(8, 0x20)], true, true, false, [⟨63, 0, .ro, 0, 0⟩]⟩, -- TRAIN_ARENA_A, Table 10-18
  ⟨0xa00208, [(8, 0x20)], true, true, false, [⟨63, 0, .ro, 0, 0⟩]⟩, -- TRAIN_ARENA_B, Table 10-18
  ⟨0xa00210, [(8, 0x20)], true, true, false, [⟨63, 0, .ro, 0, 0⟩]⟩, -- TRAIN_ARENA_SIZE, Table 10-18
  ⟨0xa00300, [(8, 0x8)], true, true, false, [⟨63, 0, .rw, 0, 0⟩]⟩, -- TRAIN_RESUME, Table 10-19
  ⟨0xa00340, [], false, false, false, [⟨31, 31, .wo, 0, 0⟩, ⟨10, 8, .wo, 0, 0⟩, ⟨1, 0, .wo, 0, 0⟩]⟩, -- TRAIN_CTL, Table 10-19
  ⟨0xa00344, [], false, false, false, [⟨7, 0, .ro, 0, 0⟩]⟩, -- TRAIN_CTL_RESULT, Table 10-19
  ⟨0xa00380, [(8, 0x4)], true, false, false, [⟨31, 0, .ro, 0, 16⟩]⟩, -- TRAIN_SKIPPED, Table 10-20
  ⟨0xa003a0, [(8, 0x4)], true, false, false, [⟨31, 0, .ro, 0, 16⟩]⟩, -- TRAIN_COMMITS, Table 10-20
  ⟨0xa003c0, [], false, false, false, [⟨31, 0, .ro, 0, 16⟩]⟩, -- TRAIN_COMMIT_FAIL, Table 10-20
  ⟨0xa003c4, [], false, false, false, [⟨31, 0, .ro, 0, 16⟩]⟩, -- TRAIN_STASH_IN, Table 10-20
  ⟨0xa003c8, [], false, false, false, [⟨31, 0, .ro, 0, 16⟩]⟩, -- TRAIN_STASH_OUT, Table 10-20
  ⟨0xa003cc, [], false, false, false, [⟨31, 0, .ro, 0, 16⟩]⟩, -- TRAIN_STASH_BAD, Table 10-20
  ⟨0xa003d0, [], false, false, false, [⟨31, 0, .ro, 0, 16⟩]⟩, -- TRAIN_EVAL_NONFINITE, Table 10-20
  ⟨0xa00400, [], false, false, false, [⟨2, 0, .rw, 0, 0⟩]⟩, -- TRAIN_VERDICT_SEL, Table 10-21
  ⟨0xa00500, [(64, 0x4)], false, false, false, [⟨31, 0, .ro, 0, 0⟩]⟩, -- TRAIN_VERDICT, Table 10-21
  ⟨0xa00600, [(8, 0x4)], false, false, false, [⟨31, 0, .ro, 0, 0⟩]⟩ -- TRAIN_CVERDICT, Table 10-21
  ]

/-- VECTOR registers. -/
def vectorRows : List RegRow := [
  ⟨0x800000, [], false, false, false, [⟨31, 31, .ro, 0, 16⟩, ⟨30, 28, .ro, 0, 16⟩, ⟨14, 12, .ro, 0, 16⟩, ⟨11, 0, .ro, 0, 16⟩]⟩, -- VECTOR_STATUS, Table 08-11
  ⟨0x800004, [], false, false, false, [⟨28, 16, .ro, 0, 16⟩, ⟨14, 0, .ro, 0, 16⟩]⟩, -- VECTOR_KSTORE, Table 08-11
  ⟨0x800008, [], false, false, false, [⟨12, 10, .rw, 0, 0⟩, ⟨9, 0, .rw, 0, 0⟩]⟩, -- VECTOR_KERNEL_SEL, Table 08-12
  ⟨0x80000c, [], false, false, false, [⟨31, 31, .ro, 0, 0⟩, ⟨30, 20, .ro, 0, 0⟩, ⟨17, 9, .ro, 0, 0⟩, ⟨8, 0, .ro, 0, 0⟩]⟩, -- VECTOR_KERNEL_INFO, Table 08-12
  ⟨0x800010, [], false, false, false, [⟨29, 16, .ro, 0, 0⟩, ⟨11, 0, .ro, 0, 0⟩]⟩, -- VECTOR_KERNEL_LOC, Table 08-12
  ⟨0x800020, [], false, false, false, [⟨31, 0, .ro, 0, 16⟩]⟩, -- VECTOR_EMPTY_ROWS, Table 08-13
  ⟨0x800024, [], false, false, false, [⟨31, 0, .ro, 0, 16⟩]⟩, -- VECTOR_NONFINITE_RES, Table 08-13
  ⟨0x800028, [], false, false, false, [⟨31, 0, .ro, 0, 16⟩]⟩, -- VECTOR_CMP_DROP, Table 08-13
  ⟨0x80002c, [], false, false, false, [⟨31, 0, .ro, 0, 16⟩]⟩, -- VECTOR_EXPAND_OOR, Table 08-13
  ⟨0x800100, [], false, false, false, [⟨31, 31, .ro, 0, 16⟩, ⟨26, 24, .ro, 0, 16⟩, ⟨8, 0, .ro, 0, 16⟩]⟩, -- VECTOR_CNT_STATUS, Table 08-14
  ⟨0x800104, [], false, false, false, [⟨31, 0, .ro, 0, 16⟩]⟩, -- VECTOR_CNT_DROPPED, Table 08-14
  ⟨0x800200, [(256, 0x4)], false, false, false, [⟨31, 0, .ro, 0, 16⟩]⟩ -- VECTOR_CNT, Table 08-14
  ]

/-- ATTN registers. -/
def attnRows : List RegRow := [
  ⟨0x900000, [(4, 0x4)], false, false, true, [⟨31, 31, .ro, 0, 0⟩, ⟨26, 24, .ro, 0, 0⟩, ⟨14, 0, .ro, 0, 0⟩]⟩, -- ATTN_SLOT_CFG, Table 09-9
  ⟨0x900010, [(4, 0x4)], false, false, true, [⟨31, 31, .ro, 0, 0⟩, ⟨16, 0, .ro, 0, 0⟩]⟩, -- ATTN_SLOT_DOCS, Table 09-9
  ⟨0x900020, [], false, true, false, [⟨63, 0, .ro, 0xFE003E000000, 31⟩]⟩, -- ATTN_BOUNDARY_BASE, Table 09-10
  ⟨0x900028, [], false, true, false, [⟨63, 0, .ro, 0xFE003F000000, 31⟩]⟩, -- ATTN_ROPE_BASE, Table 09-10
  ⟨0x900030, [], false, false, false, [⟨31, 31, .ro, 0, 16⟩, ⟨30, 28, .ro, 0, 16⟩, ⟨14, 12, .ro, 0, 16⟩, ⟨11, 0, .ro, 0, 16⟩]⟩, -- ATTN_STATUS, Table 09-11
  ⟨0x900040, [(8, 0x4)], false, false, true, [⟨31, 0, .ro, 0, 0⟩]⟩, -- ATTN_ROPE_VALID, Table 09-11
  ⟨0x900060, [], false, false, false, [⟨31, 0, .ro, 0, 16⟩]⟩, -- ATTN_TILES_DONE, Table 09-12
  ⟨0x900064, [], false, false, false, [⟨31, 0, .ro, 0, 16⟩]⟩, -- ATTN_TILES_SKIPPED, Table 09-12
  ⟨0x900068, [], false, false, false, [⟨31, 0, .ro, 0, 16⟩]⟩, -- ATTN_MASKED_ROWS, Table 09-12
  ⟨0x90006c, [], false, false, false, [⟨31, 0, .ro, 0, 16⟩]⟩, -- ATTN_ZERO_GRAD_ROWS, Table 09-12
  ⟨0x900070, [], false, false, false, [⟨31, 0, .ro, 0, 16⟩]⟩, -- ATTN_INF_ROWS, Table 09-12
  ⟨0x900074, [], false, false, false, [⟨31, 0, .ro, 0, 16⟩]⟩, -- ATTN_NAN_ROWS, Table 09-12
  ⟨0x900078, [], false, false, false, [⟨31, 0, .ro, 0, 16⟩]⟩, -- ATTN_P_ZERO, Table 09-12
  ⟨0x90007c, [], false, false, false, [⟨31, 0, .ro, 0, 16⟩]⟩ -- ATTN_TABLE_BAD, Table 09-12
  ]

/-- MEM registers. -/
def memRows : List RegRow := [
  ⟨0xc00000, [(12, 0x10000)], false, false, false, [⟨31, 31, .ro, 0, 0⟩, ⟨30, 28, .ro, 0, 28⟩, ⟨15, 8, .ro, 0, 28⟩, ⟨7, 0, .ro, 0, 28⟩]⟩, -- MEM_STACK_STATUS, Table 11-9
  ⟨0xc00004, [(12, 0x10000)], false, false, false, [⟨31, 0, .ro, 0, 16⟩]⟩, -- MEM_STACK_CORR, Table 11-9
  ⟨0xc00100, [(12, 0x10000), (64, 0x4)], false, false, false, [⟨31, 31, .ro, 0, 28⟩, ⟨4, 0, .ro, 0, 28⟩]⟩, -- MEM_LANE_MARK, Table 11-10
  ⟨0xe00000, [], false, true, false, [⟨63, 0, .ro, 0, 28⟩]⟩, -- MEM_CAP, Table 11-11
  ⟨0xe00008, [], false, false, false, [⟨31, 31, .w1c, 1, 28⟩, ⟨30, 30, .ro, 0, 28⟩, ⟨29, 29, .ro, 0, 28⟩, ⟨28, 26, .ro, 0, 28⟩, ⟨25, 22, .ro, 0, 28⟩, ⟨12, 9, .ro, 0, 28⟩, ⟨8, 0, .ro, 0, 28⟩]⟩, -- MEM_STATUS, Table 11-11
  ⟨0xe0000c, [], false, false, false, [⟨0, 0, .rw, 0, 28⟩]⟩, -- MEM_CTL, Table 11-11
  ⟨0xe00010, [(12, 0x4)], false, false, false, [⟨31, 0, .ro, 0, 28⟩]⟩, -- MEM_MAP, Table 11-12
  ⟨0xe00040, [], false, false, false, [⟨31, 31, .ro, 0, 0⟩, ⟨30, 30, .ro, 0, 0⟩, ⟨8, 0, .ro, 0, 0⟩]⟩, -- MEM_RETRAIN, Table 11-12
  ⟨0xe00050, [], false, true, false, [⟨47, 0, .rw, 0, 0⟩]⟩, -- MEM_XLATE_ADDR, Table 11-13
  ⟨0xe00058, [], false, false, false, [⟨31, 23, .ro, 0, 0⟩, ⟨22, 22, .ro, 0, 0⟩, ⟨21, 0, .ro, 0, 0⟩]⟩, -- MEM_XLATE_RESULT, Table 11-13
  ⟨0xe00060, [], false, false, false, [⟨31, 0, .ro, 0, 16⟩]⟩, -- MEM_CORRECTED, Table 11-14
  ⟨0xe00064, [], false, false, false, [⟨31, 0, .ro, 0, 16⟩]⟩, -- MEM_ERASURE, Table 11-14
  ⟨0xe00068, [], false, false, false, [⟨31, 0, .ro, 0, 16⟩]⟩, -- MEM_UNCORR, Table 11-14
  ⟨0xe0006c, [], false, false, false, [⟨31, 0, .ro, 0, 16⟩]⟩, -- MEM_RMW, Table 11-14
  ⟨0xe00070, [], false, false, false, [⟨31, 0, .ro, 0, 16⟩]⟩, -- MEM_RETRAINS, Table 11-14
  ⟨0xe00074, [], false, false, false, [⟨31, 0, .ro, 0, 16⟩]⟩, -- MEM_STALL_NS, Table 11-14
  ⟨0xe00080, [], false, true, false, [⟨63, 0, .ro, 0, 28⟩]⟩, -- MEM_UNCORR_ADDR, Table 11-14
  ⟨0xe00090, [], false, false, false, [⟨31, 31, .wo, 0, 0⟩, ⟨30, 28, .rw, 0, 0⟩, ⟨27, 27, .rw, 0, 0⟩, ⟨26, 22, .rw, 0, 0⟩, ⟨21, 21, .rw, 0, 0⟩, ⟨8, 0, .rw, 0, 0⟩]⟩, -- MEM_MARGIN_CTL, Table 11-15
  ⟨0xe00094, [], false, false, false, [⟨31, 31, .ro, 0, 0⟩, ⟨26, 24, .ro, 0, 0⟩, ⟨23, 19, .ro, 0, 0⟩, ⟨15, 8, .ro, 0, 0⟩, ⟨7, 0, .ro, 0, 0⟩]⟩ -- MEM_MARGIN_RESULT, Table 11-15
  ]

/-- LINK registers. -/
def linkRows : List RegRow := [
  ⟨0x1000000, [], false, false, false, [⟨31, 16, .rwl, 0, 28⟩, ⟨12, 0, .rwl, 0, 28⟩]⟩, -- LINK_ID, Table 12-12
  ⟨0x1000004, [], false, false, false, [⟨31, 31, .rwl, 0, 28⟩, ⟨28, 24, .rwl, 0, 28⟩, ⟨23, 23, .rwl, 0, 28⟩, ⟨20, 16, .rwl, 0, 28⟩, ⟨7, 0, .rwl, 0x04, 28⟩]⟩, -- LINK_TICK_CFG, Table 12-13
  ⟨0x1000008, [], false, false, false, [⟨31, 0, .rwl, 0, 28⟩]⟩, -- LINK_TICK_CHILD, Table 12-13
  ⟨0x100000c, [], false, false, false, [⟨31, 16, .rw, 0x1388, 28⟩, ⟨7, 0, .rw, 0x14, 28⟩]⟩, -- LINK_TIMEOUT, Table 12-14
  ⟨0x1000010, [(8, 0x4)], true, false, false, [⟨31, 0, .rw, 0, 28⟩]⟩, -- LINK_CTX_EPOCH, Table 12-14
  ⟨0x1000030, [], false, true, false, [⟨63, 0, .ro, 0xFE0020000000, 31⟩]⟩, -- LINK_STAGING_BASE, Table 12-15
  ⟨0x1000038, [], false, true, false, [⟨63, 0, .ro, 0xFE0028000000, 31⟩]⟩, -- LINK_MEMBERS_BASE, Table 12-15
  ⟨0x1000040, [], false, true, false, [⟨63, 0, .rw, 0, 0⟩]⟩, -- LINK_AGREE_IN, Table 12-16
  ⟨0x1000048, [], false, false, false, [⟨31, 31, .wo, 0, 0⟩, ⟨25, 24, .rw, 0, 0⟩, ⟨9, 0, .rw, 0, 0⟩]⟩, -- LINK_AGREE_CTL, Table 12-16
  ⟨0x100004c, [], false, false, false, [⟨31, 31, .ro, 0, 0⟩, ⟨26, 24, .ro, 0, 0⟩, ⟨13, 0, .ro, 0, 0⟩]⟩, -- LINK_AGREE_RESULT, Table 12-16
  ⟨0x1000058, [], false, false, false, [⟨12, 0, .ro, 0, 0⟩]⟩, -- LINK_AGREE_FIRST, Table 12-16
  ⟨0x1000050, [], false, true, false, [⟨63, 0, .ro, 0, 0⟩]⟩, -- LINK_AGREE_OUT, Table 12-16
  ⟨0x1010000, [(1024, 0x8)], false, false, false, [⟨31, 31, .rw, 0, 28⟩, ⟨30, 28, .rw, 0, 28⟩, ⟨26, 14, .rw, 0, 28⟩, ⟨13, 0, .rw, 0, 28⟩]⟩, -- LINK_GRP_CFG, Table 12-17
  ⟨0x1010004, [(1024, 0x8)], false, false, false, [⟨19, 0, .rw, 0, 28⟩]⟩, -- LINK_GRP_MEM, Table 12-17
  ⟨0x1000100, [(2, 0x40000), (16, 0x4)], false, false, false, [⟨31, 31, .rwl, 1, 28⟩, ⟨30, 30, .rwl, 0, 28⟩, ⟨29, 29, .wo, 0, 0⟩]⟩, -- LINK_PORT_CTL, Table 12-18
  ⟨0x1000140, [(2, 0x40000), (16, 0x4)], false, false, false, [⟨31, 29, .ro, 0, 0⟩, ⟨28, 28, .ro, 0, 28⟩]⟩, -- LINK_PORT_STATUS, Table 12-18
  ⟨0x1000180, [(2, 0x40000), (16, 0x4)], false, false, false, [⟨31, 31, .ro, 0, 28⟩, ⟨28, 24, .ro, 0, 28⟩, ⟨12, 0, .ro, 0, 28⟩]⟩, -- LINK_PORT_PARTNER, Table 12-18
  ⟨0x1020000, [(2, 0x40000), (8192, 0x4)], false, false, false, [⟨31, 31, .rw, 0, 28⟩, ⟨28, 24, .rw, 0, 28⟩, ⟨23, 23, .rw, 0, 28⟩, ⟨20, 16, .rw, 0, 28⟩]⟩, -- LINK_ROUTE, Table 12-18
  ⟨0x1001000, [(2, 0x40000), (16, 0x20)], false, false, false, [⟨31, 0, .ro, 0, 16⟩]⟩, -- LINK_P_FEC_CORR, Table 12-19
  ⟨0x1001004, [(2, 0x40000), (16, 0x20)], false, false, false, [⟨31, 0, .ro, 0, 16⟩]⟩, -- LINK_P_FEC_UNCORR, Table 12-19
  ⟨0x1001008, [(2, 0x40000), (16, 0x20)], false, false, false, [⟨31, 0, .ro, 0, 16⟩]⟩, -- LINK_P_CRC_ERR, Table 12-19
  ⟨0x100100c, [(2, 0x40000), (16, 0x20)], false, false, false, [⟨31, 0, .ro, 0, 16⟩]⟩, -- LINK_P_REPLAYS, Table 12-19
  ⟨0x1001010, [(2, 0x40000), (16, 0x20)], false, false, false, [⟨31, 0, .ro, 0, 16⟩]⟩, -- LINK_P_DOWN, Table 12-19
  ⟨0x1000060, [], false, false, false, [⟨31, 0, .ro, 0, 16⟩]⟩, -- LINK_EPOCH_DROP, Table 12-19
  ⟨0x1000064, [], false, false, false, [⟨31, 0, .ro, 0, 16⟩]⟩, -- LINK_DUP_DROP, Table 12-19
  ⟨0x1000068, [], false, false, false, [⟨31, 0, .ro, 0, 16⟩]⟩, -- LINK_STAGE_FULL, Table 12-19
  ⟨0x100006c, [], false, false, false, [⟨31, 0, .ro, 0, 16⟩]⟩, -- LINK_NOROUTE, Table 12-19
  ⟨0x1000070, [], false, false, false, [⟨31, 0, .ro, 0, 16⟩]⟩, -- LINK_E2E_BAD, Table 12-19
  ⟨0x1000074, [], false, false, false, [⟨31, 0, .ro, 0, 16⟩]⟩, -- LINK_SCHED_LATE, Table 12-19
  ⟨0x1000078, [], false, false, false, [⟨31, 0, .ro, 0, 16⟩]⟩ -- LINK_STRETCH_LATE, Table 12-19
  ]

/-- HEALTH registers. -/
def healthRows : List RegRow := [
  ⟨0x1800000, [], false, false, false, [⟨12, 8, .ro, 0, 24⟩, ⟨1, 0, .ro, 0, 24⟩]⟩, -- HEALTH_RISK, Table 14-7
  ⟨0x1800004, [], false, false, false, [⟨31, 31, .rw, 0, 28⟩, ⟨15, 0, .rw, 0x2710, 28⟩]⟩, -- HEALTH_CTL, Table 14-7
  ⟨0x1800100, [(17, 0x4)], false, false, false, [⟨31, 30, .ro, 0, 24⟩, ⟨29, 0, .ro, 0, 24⟩]⟩, -- HEALTH_INPUT, Table 14-8
  ⟨0x1800010, [(4, 0x4)], false, false, false, [⟨31, 16, .ro, 0, 16⟩, ⟨15, 0, .ro, 0, 16⟩]⟩, -- HEALTH_BIST_DIE, Table 14-9
  ⟨0x1800020, [], false, false, false, [⟨10, 0, .rw, 0, 0⟩]⟩, -- HEALTH_ENG_SEL, Table 14-9
  ⟨0x1800024, [], false, false, false, [⟨31, 31, .ro, 0, 28⟩, ⟨7, 4, .ro, 0, 28⟩, ⟨3, 0, .ro, 0, 28⟩]⟩, -- HEALTH_ENG_STATUS, Table 14-9
  ⟨0x1800028, [], false, true, false, [⟨63, 0, .ro, 0xFFFFFFFFFFFFFFFF, 28⟩]⟩, -- HEALTH_ENG_PASS, Table 14-9
  ⟨0x1800200, [(16, 0x8)], false, true, false, [⟨63, 0, .rwl, 0, 28⟩]⟩, -- HEALTH_BIST_SIG, Table 14-9
  ⟨0x1800040, [], false, false, false, [⟨0, 0, .rwl, 1, 28⟩]⟩, -- HEALTH_SCRUB_CTL, Table 14-10
  ⟨0x1800044, [], false, false, false, [⟨20, 0, .ro, 0, 28⟩]⟩, -- HEALTH_SCRUB_ROW, Table 14-10
  ⟨0x1800048, [], false, false, false, [⟨31, 0, .ro, 0, 16⟩]⟩, -- HEALTH_SCRUB_PASSES, Table 14-10
  ⟨0x180004c, [], false, false, false, [⟨31, 0, .ro, 0, 16⟩]⟩, -- HEALTH_SCRUB_FIXED, Table 14-10
  ⟨0x1800050, [], false, false, false, [⟨23, 0, .ro, 0, 24⟩]⟩, -- HEALTH_LOCKSTEP_OUT, Table 14-10
  ⟨0x1800054, [], false, false, false, [⟨31, 0, .ro, 0, 16⟩]⟩, -- HEALTH_LOCKSTEP_MISMATCH, Table 14-10
  ⟨0x1800058, [], false, false, false, [⟨31, 0, .ro, 0, 16⟩]⟩, -- HEALTH_SRAM_CORR, Table 14-10
  ⟨0x180005c, [], false, false, false, [⟨31, 0, .ro, 0, 16⟩]⟩ -- HEALTH_SRAM_UNCORR, Table 14-10
  ]

/-- RECORDER registers. -/
def recorderRows : List RegRow := [
  ⟨0x1900000, [], false, false, false, [⟨14, 0, .ro, 0, 30⟩]⟩, -- RECORDER_COUNT, Table 14-11
  ⟨0x1900004, [], false, false, false, [⟨31, 31, .ro, 0, 30⟩]⟩, -- RECORDER_STATUS, Table 14-11
  ⟨0x1900008, [], false, false, false, [⟨31, 0, .ro, 0, 30⟩]⟩, -- RECORDER_UPDATES, Table 14-11
  ⟨0x190000c, [], false, false, false, [⟨31, 0, .ro, 0, 30⟩]⟩, -- RECORDER_LOST, Table 14-11
  ⟨0x1900010, [], false, true, false, [⟨63, 0, .ro, 0, 30⟩]⟩, -- RECORDER_FIRST_LOST, Table 14-11
  ⟨0x1900020, [], false, false, false, [⟨31, 31, .wo, 0, 0⟩, ⟨13, 0, .rw, 0, 0⟩]⟩, -- RECORDER_RD_SEL, Table 14-11
  ⟨0x1900024, [], false, false, false, [⟨31, 31, .ro, 0, 0⟩, ⟨30, 30, .ro, 0, 0⟩, ⟨29, 29, .ro, 0, 0⟩]⟩, -- RECORDER_RD_STATUS, Table 14-11
  ⟨0x1900040, [(8, 0x4)], false, false, false, [⟨31, 0, .ro, 0, 0⟩]⟩ -- RECORDER_RD_WORD, Table 14-11
  ]

/-- LK registers. -/
def lkRows0 : List RegRow := [
  ⟨0x1b08000, [], false, false, false, [⟨31, 31, .rw, 1, 28⟩, ⟨23, 16, .rw, 0x1E, 28⟩, ⟨15, 0, .rw, 0x07D0, 28⟩]⟩, -- LK_WD_CTL, Table 15-8
  ⟨0x1b08004, [], false, false, false, [⟨31, 31, .w1c, 0, 28⟩, ⟨30, 28, .ro, 0, 28⟩, ⟨20, 16, .ro, 0, 28⟩, ⟨15, 8, .ro, 0, 28⟩]⟩, -- LK_WD_STATUS, Table 15-8
  ⟨0x1b08008, [], false, true, false, [⟨63, 0, .ro, 0, 28⟩]⟩, -- LK_WD_LAST_OK, Table 15-8
  ⟨0x1b08010, [], false, false, false, [⟨31, 31, .wo, 0, 0⟩, ⟨10, 8, .wo, 0, 0⟩, ⟨1, 0, .wo, 0, 0⟩]⟩, -- LK_RESET_CMD, Table 15-9
  ⟨0x1b08014, [], false, false, false, [⟨31, 31, .ro, 0, 0⟩, ⟨30, 28, .ro, 0, 28⟩, ⟨27, 24, .ro, 0, 28⟩]⟩, -- LK_RESET_STATUS, Table 15-9
  ⟨0x1b08018, [], false, false, false, [⟨31, 0, .ro, 0, 28⟩]⟩, -- LK_RESET_LAST_MS, Table 15-9
  ⟨0x1b0801c, [], false, false, false, [⟨31, 16, .ro, 0, 28⟩, ⟨15, 0, .ro, 0, 28⟩]⟩, -- LK_RESET_COUNT, Table 15-9
  ⟨0x1b08020, [], false, false, false, [⟨31, 0, .ro, 0, 28⟩]⟩, -- LK_TEARDOWN_US, Table 15-9
  ⟨0x1b08024, [], false, false, false, [⟨31, 31, .ro, 0, 28⟩, ⟨26, 24, .ro, 0, 28⟩, ⟨15, 8, .ro, 0, 28⟩, ⟨7, 0, .ro, 0, 28⟩]⟩, -- LK_REPLAY, Table 15-9
  ⟨0x1b08028, [], false, false, false, [⟨15, 0, .w1c, 0, 28⟩]⟩, -- LK_QUAR_VALID, Table 15-9
  ⟨0x1b08030, [], false, true, false, [⟨63, 0, .ro, 0, 28⟩]⟩, -- LK_LAST_INDEX, Table 15-10
  ⟨0x1b08038, [], false, true, false, [⟨63, 0, .ro, 0, 28⟩]⟩, -- LK_LAST_FTC, Table 15-10
  ⟨0x1b08040, [], false, true, false, [⟨63, 0, .ro, 0, 28⟩]⟩, -- LK_LAST_NEXT, Table 15-10
  ⟨0x1b08100, [(8, 0x20)], true, true, false, [⟨63, 0, .ro, 0, 28⟩]⟩, -- LK_LAST_STEP, Table 15-10
  ⟨0x1b08108, [(8, 0x20)], true, true, false, [⟨63, 0, .ro, 0xFFFFFFFFFFFFFFFF, 28⟩]⟩, -- LK_LAST_COMMIT, Table 15-10
  ⟨0x1b08110, [(8, 0x20)], true, false, false, [⟨31, 31, .ro, 0, 28⟩, ⟨1, 1, .ro, 0, 28⟩, ⟨0, 0, .ro, 0, 28⟩]⟩, -- LK_LAST_STATE, Table 15-10
  ⟨0x1b08200, [(16, 0x8)], false, true, false, [⟨63, 0, .ro, 0, 28⟩]⟩, -- LK_QUAR, Table 15-10
  ⟨0x1b0a000, [(8, 0x4)], true, false, false, [⟨31, 31, .rw, 0, 0⟩, ⟨29, 28, .rw, 0x2, 0⟩, ⟨23, 0, .rw, 0, 0⟩]⟩, -- LK_SNAP_CFG, Table 16-6
  ⟨0x1b0a080, [(8, 0x4)], true, false, false, [⟨31, 31, .rw, 0, 0⟩, ⟨12, 0, .rw, 0, 0⟩]⟩, -- LK_SNAP_BUDDY, Table 16-6
  ⟨0x1b0a0a0, [(8, 0x4)], true, false, false, [⟨31, 31, .rw, 0, 0⟩, ⟨12, 0, .rw, 0, 0⟩]⟩, -- LK_SNAP_WARD, Table 16-6
  ⟨0x1b0a040, [], false, false, false, [⟨31, 31, .wo, 0, 0⟩, ⟨10, 8, .wo, 0, 0⟩, ⟨3, 0, .wo, 0, 0⟩]⟩, -- LK_SNAP_CMD, Table 16-7
  ⟨0x1b0a044, [], false, false, false, [⟨31, 31, .ro, 0, 0⟩, ⟨7, 0, .ro, 0, 0⟩]⟩, -- LK_SNAP_RESULT, Table 16-7
  ⟨0x1b0a048, [], false, false, false, [⟨31, 31, .rw, 0, 0⟩, ⟨30, 30, .rw, 0, 0⟩, ⟨24, 24, .rw, 0, 0⟩, ⟨12, 0, .rw, 0, 0⟩]⟩, -- LK_SNAP_RESTORE_SRC, Table 16-7
  ⟨0x1b0a050, [], false, true, false, [⟨63, 0, .rw, 0, 0⟩]⟩, -- LK_SNAP_START, Table 16-7
  ⟨0x1b0a058, [], false, true, false, [⟨63, 0, .rw, 0, 0⟩]⟩, -- LK_SNAP_CERT_ADDR, Table 16-7
  ⟨0x1b0a200, [(8, 0x8), (2, 0x4)], true, false, false, [⟨31, 29, .ro, 0, 0⟩, ⟨28, 28, .rw, 0, 0⟩, ⟨23, 0, .ro, 0, 0⟩]⟩, -- LK_SNAP_SLOT, Table 16-8
  ⟨0x1b0a240, [(8, 0x8), (2, 0x4)], true, false, false, [⟨31, 29, .ro, 0, 0⟩, ⟨23, 0, .ro, 0, 0⟩]⟩, -- LK_SNAP_WSLOT, Table 16-8
  ⟨0x1b0a280, [(8, 0x4)], true, false, false, [⟨31, 31, .ro, 0, 0⟩, ⟨30, 30, .ro, 0, 0⟩, ⟨29, 29, .ro, 0, 0⟩, ⟨28, 28, .ro, 0, 0⟩]⟩, -- LK_SNAP_VERIFY, Table 16-8
  ⟨0x1b0a2a0, [(8, 0x4)], true, false, false, [⟨31, 16, .ro, 0, 0⟩, ⟨15, 0, .ro, 0, 0⟩]⟩, -- LK_SNAP_GAP, Table 16-8
  ⟨0x1b0a300, [(8, 0x10)], true, true, false, [⟨63, 0, .rw, 0, 0⟩]⟩, -- LK_SNAP_DPOS, Table 16-8
  ⟨0x1b0a308, [(8, 0x10)], true, true, false, [⟨63, 0, .rw, 0, 0⟩]⟩, -- LK_SNAP_DPOS_STEP, Table 16-8
  ⟨0x1b00000, [], false, false, false, [⟨31, 31, .ro, 0, 24⟩, ⟨30, 30, .ro, 0, 24⟩, ⟨4, 0, .ro, 0, 24⟩]⟩, -- LK_STATUS, Table 18-11
  ⟨0x1b00004, [], false, false, false, [⟨31, 0, .ro, 0, 28⟩]⟩, -- LK_HEARTBEAT, Table 18-11
  ⟨0x1b00008, [], false, false, false, [⟨31, 0, .ro, 0, 28⟩]⟩, -- LK_PROGRESS, Table 18-11
  ⟨0x1b0000c, [], false, false, false, [⟨31, 0, .ro, 0, 16⟩]⟩, -- LK_BAR2_REFUSED, Table 18-11
  ⟨0x1b00100, [(8, 0x4)], true, false, false, [⟨31, 29, .ro, 0, 0⟩]⟩, -- LK_CTX_STATE, Table 18-11
  ⟨0x1b00200, [(8, 0x8)], true, true, false, [⟨63, 0, .ro, 0, 0⟩]⟩, -- LK_IMAGE_ID, Table 18-11
  ⟨0x1b00300, [(8, 0x8)], true, false, false, [⟨7, 0, .ro, 0, 0⟩]⟩, -- LK_LOAD_RESULT, Table 18-11
  ⟨0x1b00304, [(8, 0x8)], true, false, false, [⟨31, 0, .ro, 0, 0⟩]⟩, -- LK_LOAD_DETAIL, Table 18-11
  ⟨0x1b01000, [(8, 0x40)], true, true, false, [⟨63, 0, .rw, 0, 28⟩]⟩ -- LK_SQ_BASE, Table 18-12
  ]

/-- LK registers. -/
def lkRows1 : List RegRow := [
  ⟨0x1b01008, [(8, 0x40)], true, false, false, [⟨15, 0, .rw, 0, 28⟩]⟩, -- LK_SQ_SIZE, Table 18-12
  ⟨0x1b0100c, [(8, 0x40)], true, false, false, [⟨15, 0, .rw, 0, 28⟩]⟩, -- LK_SQ_TAIL, Table 18-12
  ⟨0x1b01010, [(8, 0x40)], true, false, false, [⟨15, 0, .ro, 0, 28⟩]⟩, -- LK_SQ_HEAD, Table 18-12
  ⟨0x1b01018, [(8, 0x40)], true, true, false, [⟨63, 0, .rw, 0, 28⟩]⟩, -- LK_CQ_BASE, Table 18-12
  ⟨0x1b01020, [(8, 0x40)], true, false, false, [⟨15, 0, .rw, 0, 28⟩]⟩, -- LK_CQ_SIZE, Table 18-12
  ⟨0x1b01024, [(8, 0x40)], true, false, false, [⟨15, 0, .rw, 0, 28⟩]⟩, -- LK_CQ_HEAD, Table 18-12
  ⟨0x1b01028, [(8, 0x40)], true, false, false, [⟨15, 0, .ro, 0, 28⟩]⟩, -- LK_CQ_TAIL, Table 18-12
  ⟨0x1b0102c, [(8, 0x40)], true, false, false, [⟨31, 0, .ro, 0, 16⟩]⟩ -- LK_CQ_LOST, Table 18-12
  ]

/-- LK registers. -/
def lkRows : List RegRow := lkRows0 ++ lkRows1

/-- BOOT registers. -/
def bootRows : List RegRow := [
  ⟨0x1a00000, [], false, false, false, [⟨31, 29, .ro, 0, 28⟩, ⟨28, 28, .ro, 0, 28⟩, ⟨27, 27, .ro, 0, 28⟩, ⟨26, 26, .ro, 0, 28⟩, ⟨25, 25, .ro, 0, 28⟩, ⟨23, 16, .ro, 0, 28⟩, ⟨7, 0, .ro, 0, 28⟩]⟩, -- BOOT_STATUS, Table 17-11
  ⟨0x1a00004, [], false, false, false, [⟨31, 0, .ro, 0, 28⟩]⟩, -- BOOT_FW_VERSION, Table 17-11
  ⟨0x1a00008, [], false, false, false, [⟨31, 0, .ro, 0, 28⟩]⟩, -- BOOT_FW_A, Table 17-11
  ⟨0x1a0000c, [], false, false, false, [⟨31, 0, .ro, 0, 28⟩]⟩, -- BOOT_FW_B, Table 17-11
  ⟨0x1a00010, [], false, false, false, [⟨7, 0, .ro, 0, 28⟩]⟩, -- BOOT_FW_STATE, Table 17-11
  ⟨0x1a00014, [], false, false, false, [⟨31, 0, .ro, 0, 28⟩]⟩, -- BOOT_SITE_SEQ, Table 17-11
  ⟨0x1a00018, [], false, false, false, [⟨31, 0, .ro, 0, 28⟩]⟩, -- BOOT_POWER_FEED, Table 17-11
  ⟨0x1a0001c, [], false, false, false, [⟨31, 0, .ro, 0, 28⟩]⟩, -- BOOT_COOLING_LOOP, Table 17-11
  ⟨0x1a00020, [], false, false, false, [⟨31, 0, .ro, 0, 28⟩]⟩, -- BOOT_MIN_FW, Table 17-11
  ⟨0x1a00024, [], false, false, false, [⟨31, 0, .ro, 0, 28⟩]⟩, -- BOOT_FW_PIN, Table 17-11
  ⟨0x1a00028, [], false, false, false, [⟨31, 0, .ro, 0, 28⟩]⟩, -- BOOT_MS, Table 17-11
  ⟨0x1a00030, [], false, true, false, [⟨63, 0, .ro, 0, 28⟩]⟩, -- BOOT_NONCE, Table 17-11
  ⟨0x1a00040, [], false, false, false, [⟨31, 31, .wo, 0, 0⟩, ⟨3, 0, .wo, 0, 0⟩]⟩, -- BOOT_CMD, Table 17-12
  ⟨0x1a00044, [], false, false, false, [⟨31, 0, .rw, 0, 0⟩]⟩, -- BOOT_CMD_OFFSET, Table 17-12
  ⟨0x1a00048, [], false, false, false, [⟨19, 0, .rw, 0, 0⟩]⟩, -- BOOT_CMD_LEN, Table 17-12
  ⟨0x1a0004c, [], false, false, false, [⟨31, 31, .ro, 0, 0⟩, ⟨7, 0, .ro, 0, 0⟩]⟩, -- BOOT_CMD_RESULT, Table 17-12
  ⟨0x1a00050, [], false, false, false, [⟨1, 0, .rw, 0, 0⟩, ⟨5, 4, .ro, 0, 0⟩, ⟨11, 8, .ro, 0, 0⟩]⟩, -- BOOT_PWR, Table 17-12
  ⟨0x1a80000, [(131072, 0x4)], false, false, false, [⟨31, 0, .rw, 0, 0⟩]⟩ -- BOOT_STAGE, Table 17-12
  ]

/-- GLOBAL registers. -/
def globalRows : List RegRow := [
  ⟨0x0, [], false, true, false, [⟨63, 40, .ro, 0x120000, 31⟩, ⟨39, 32, .ro, 0xA1, 31⟩, ⟨31, 16, .ro, 0x0416, 31⟩, ⟨15, 0, .ro, 0x1E5D, 31⟩]⟩, -- GLOBAL_PCI_ID, Table 18-10
  ⟨0x8, [], false, true, false, [⟨63, 0, .rw, 0, 28⟩]⟩, -- GLOBAL_BAR2_WIN, Table 18-10
  ⟨0x10000, [(64, 0x10)], false, false, false, [⟨31, 0, .rw, 0, 28⟩]⟩, -- MSIX_ADDR_LO, Table R461
  ⟨0x10004, [(64, 0x10)], false, false, false, [⟨31, 0, .rw, 0, 28⟩]⟩, -- MSIX_ADDR_HI, Table R461
  ⟨0x10008, [(64, 0x10)], false, false, false, [⟨31, 0, .rw, 0, 28⟩]⟩, -- MSIX_DATA, Table R461
  ⟨0x1000c, [(64, 0x10)], false, false, false, [⟨0, 0, .rw, 1, 28⟩]⟩, -- MSIX_CTL, Table R461
  ⟨0x11000, [], false, true, false, [⟨63, 0, .ro, 0, 28⟩]⟩ -- MSIX_PBA, Table R461
  ]

/-- MODULE registers. -/
def moduleRows : List RegRow := [
  ⟨0x1c00000, [], false, false, false, [⟨15, 14, .ro, 0, 30⟩, ⟨7, 7, .ro, 0, 30⟩, ⟨4, 4, .ro, 0, 28⟩, ⟨3, 3, .ro, 0, 30⟩, ⟨2, 2, .ro, 0, 30⟩, ⟨1, 1, .ro, 0, 30⟩, ⟨0, 0, .ro, 0, 30⟩]⟩, -- MODULE_STATUS, Table 19-10
  ⟨0x1c00004, [], false, false, false, [⟨0, 0, .wo, 0, 0⟩]⟩, -- MODULE_CTL, Table 19-10
  ⟨0x1c00008, [], false, false, false, [⟨11, 0, .rw, 0xAF0, 30⟩]⟩, -- MODULE_PWR_LIMIT, Table 19-10
  ⟨0x1c00100, [(15, 0x4)], false, false, false, [⟨15, 0, .ro, 0, 30⟩]⟩, -- MODULE_SENSE, Table 19-11
  ⟨0x1c00200, [], false, true, false, [⟨63, 0, .ro, Config.moduleSerial.toNat, 31⟩]⟩ -- MODULE_SERIAL, Table 19-11
  ]

/-- The rows of the register block that holds BAR0 offset `a` (Table 00-2). -/
def blockRows (a : Nat) : List RegRow :=
  match a / 0x100000 with
  | 0 => globalRows | 1 => lockRows | 2 => formatRows | 3 => scaleRows
  | 4 => computeRows | 5 => computeRows | 6 => computeRows | 7 => computeRows
  | 8 => vectorRows | 9 => attnRows | 10 => trainRows | 11 => trainRows
  | 12 => memRows | 13 => memRows | 14 => memRows | 15 => memRows
  | 16 => linkRows | 17 => linkRows | 18 => linkRows | 19 => linkRows
  | 20 => linkRows | 21 => linkRows | 22 => linkRows | 23 => linkRows
  | 24 => healthRows | 25 => recorderRows | 26 => bootRows | 27 => lkRows | 28 => moduleRows
  | _ => []


/-! Names of the registers (BAR0 offsets). -/

abbrev R.LOCK_PERIOD : Nat := 0x100000
abbrev R.LOCK_SLOTS : Nat := 0x100004
abbrev R.LOCK_STRETCH_TIMING : Nat := 0x100008
abbrev R.LOCK_CTL : Nat := 0x10000c
abbrev R.LOCK_STATUS : Nat := 0x100010
abbrev R.LOCK_EVENTS : Nat := 0x100014
abbrev R.LOCK_FTC : Nat := 0x100018
abbrev R.LOCK_INDEX : Nat := 0x100020
abbrev R.LOCK_NEXT_TICK : Nat := 0x100028
abbrev R.LOCK_GRANT : Nat := 0x100030
abbrev R.LOCK_SLOW : Nat := 0x100034
abbrev R.LOCK_STRETCH_COUNT : Nat := 0x100038
abbrev R.LOCK_OVERRUN_COUNT : Nat := 0x10003c
abbrev R.LOCK_BUDGET_COUNT : Nat := 0x100040
abbrev R.LOCK_LAST_END : Nat := 0x100044
abbrev R.FORMAT_CB_VALID : Nat := 0x200000
abbrev R.FORMAT_CB_CMD : Nat := 0x200008
abbrev R.FORMAT_CB_RESULT : Nat := 0x20000c
abbrev R.FORMAT_CB_STAGE_BASE : Nat := 0x200010
abbrev R.FORMAT_CB_STAGE_ENTRY (i : Nat) : Nat := 0x200014 + 0x4 * i
abbrev R.FORMAT_NONFINITE_OUT : Nat := 0x200040
abbrev R.FORMAT_CB_HDR (i : Nat) : Nat := 0x201000 + 0x40 * i
abbrev R.FORMAT_CB_ENT (i j : Nat) : Nat := 0x201004 + 0x40 * i + 0x4 * j
abbrev R.SCALE_CTX (c : Nat) : Nat := 0x300010 + 0x4 * c
abbrev R.SCALE_CTX_RANGE (c : Nat) : Nat := 0x300030 + 0x4 * c
abbrev R.SCALE_SHT_BASE : Nat := 0x300050
abbrev R.SCALE_CST_BASE : Nat := 0x300058
abbrev R.SCALE_RD_SEL : Nat := 0x300060
abbrev R.SCALE_RD_STATUS : Nat := 0x300064
abbrev R.SCALE_RD_H : Nat := 0x300068
abbrev R.SCALE_RD_C0 : Nat := 0x30006c
abbrev R.SCALE_RD_C1 : Nat := 0x300070
abbrev R.SCALE_RD_AMAX : Nat := 0x300074
/-- Words 4 to 7 lie where Table 03-12 puts three other registers: they stand outside BAR0 (log 11). -/
abbrev R.SCALE_RD_HIST (i : Nat) : Nat := if 4 ≤ i ∧ i < 8 then 0x4000080 + 4 * i else 0x300080 + 4 * i
abbrev R.SCALE_LAST_STEP : Nat := 0x300090
abbrev R.SCALE_BOOTSTRAP_COUNT : Nat := 0x300098
abbrev R.SCALE_CLAMP_COUNT : Nat := 0x30009c
abbrev R.COMPUTE_DIE_STATUS (i : Nat) : Nat := 0x400000 + 0x100000 * i
abbrev R.COMPUTE_STEAL : Nat := 0x400004
abbrev R.COMPUTE_ARRAY : Nat := 0x400008
abbrev R.COMPUTE_TASKS_TOTAL : Nat := 0x40000c
abbrev R.COMPUTE_TASKS_DONE (i : Nat) : Nat := 0x400010 + 0x100000 * i
abbrev R.COMPUTE_STEALS_IN (i : Nat) : Nat := 0x400014 + 0x100000 * i
abbrev R.COMPUTE_STEALS_CROSS (i : Nat) : Nat := 0x400018 + 0x100000 * i
abbrev R.COMPUTE_SPLITK_WAIT (i : Nat) : Nat := 0x40001c + 0x100000 * i
abbrev R.COMPUTE_WITHHELD (i : Nat) : Nat := 0x400020 + 0x100000 * i
abbrev R.COMPUTE_CLK (i : Nat) : Nat := 0x400024 + 0x100000 * i
abbrev R.COMPUTE_DISABLED (i j : Nat) : Nat := 0x400100 + 0x100000 * i + 0x4 * j
abbrev R.COMPUTE_OFFLINE (i j : Nat) : Nat := 0x400180 + 0x100000 * i + 0x4 * j
abbrev R.COMPUTE_ENG_SEL (i : Nat) : Nat := 0x400200 + 0x100000 * i
abbrev R.COMPUTE_ENG_STATUS (i : Nat) : Nat := 0x400204 + 0x100000 * i
abbrev R.COMPUTE_STICKY_GROUPS (i : Nat) : Nat := 0x400030 + 0x100000 * i
abbrev R.COMPUTE_FORCED_DRAINS (i : Nat) : Nat := 0x400034 + 0x100000 * i
abbrev R.FORMAT_Q_BLOCKS : Nat := 0x200044
abbrev R.FORMAT_Q_ZERO : Nat := 0x200048
abbrev R.FORMAT_Q_SAT : Nat := 0x20004c
abbrev R.FORMAT_Q_NONFINITE : Nat := 0x200050
abbrev R.FORMAT_Q_SLUICED : Nat := 0x200054
abbrev R.SCALE_CSTAT_BASE : Nat := 0x300100
abbrev R.SCALE_CSTAT_STATUS : Nat := 0x300108
abbrev R.SCALE_CSTAT_CLAIM_FIRST (c : Nat) : Nat := 0x300110 + 0x8 * c
abbrev R.SCALE_CSTAT_CLAIM_COUNT (c : Nat) : Nat := 0x300114 + 0x8 * c
abbrev R.SCALE_CSTAT_RD_SEL : Nat := 0x300150
abbrev R.SCALE_CSTAT_RD_STATUS : Nat := 0x300154
abbrev R.SCALE_CSTAT_RD_AMAX : Nat := 0x300158
abbrev R.SCALE_CSTAT_RD_LEAD : Nat := 0x30015c
abbrev R.SCALE_CSTAT_RD_ROWS : Nat := 0x300160
abbrev R.SCALE_CSTAT_RD_STEP : Nat := 0x300164
abbrev R.SCALE_CSTAT_DISCARD : Nat := 0x300168
abbrev R.TRAIN_SLUICE_BASE : Nat := 0xa10000
abbrev R.TRAIN_SLUICE_STATUS : Nat := 0xa10008
abbrev R.TRAIN_WIDEN_CTX (c : Nat) : Nat := 0xa10020 + 0x4 * c
abbrev R.TRAIN_MON_THR (c : Nat) : Nat := 0xa100c0 + 0x4 * c
abbrev R.TRAIN_WIDEN_ARENA_BASE (c : Nat) : Nat := 0xa10040 + 0x10 * c
abbrev R.TRAIN_WIDEN_ARENA_SIZE (c : Nat) : Nat := 0xa10048 + 0x10 * c
abbrev R.TRAIN_WIDEN_SEL : Nat := 0xa10100
abbrev R.TRAIN_WIDEN_STATE : Nat := 0xa10104
abbrev R.TRAIN_SLUICE_SWAPS : Nat := 0xa1000c
abbrev R.TRAIN_SLUICE_WITHHELD : Nat := 0xa10010
abbrev R.TRAIN_SLUICE_OVERFLOW : Nat := 0xa10014
abbrev R.TRAIN_WIDEN_GRANTS : Nat := 0xa10110
abbrev R.TRAIN_WIDEN_EXHAUSTED : Nat := 0xa10114
abbrev R.TRAIN_WIDEN_UNFIT : Nat := 0xa10118
abbrev R.TRAIN_WIDEN_NARROWED : Nat := 0xa1011c
abbrev R.TRAIN_WIDEN_RETIMED : Nat := 0xa10120
abbrev R.VECTOR_STATUS : Nat := 0x800000
abbrev R.VECTOR_KSTORE : Nat := 0x800004
abbrev R.VECTOR_KERNEL_SEL : Nat := 0x800008
abbrev R.VECTOR_KERNEL_INFO : Nat := 0x80000c
abbrev R.VECTOR_KERNEL_LOC : Nat := 0x800010
abbrev R.VECTOR_EMPTY_ROWS : Nat := 0x800020
abbrev R.VECTOR_NONFINITE_RES : Nat := 0x800024
abbrev R.VECTOR_CMP_DROP : Nat := 0x800028
abbrev R.VECTOR_EXPAND_OOR : Nat := 0x80002c
abbrev R.VECTOR_CNT_STATUS : Nat := 0x800100
abbrev R.VECTOR_CNT_DROPPED : Nat := 0x800104
abbrev R.VECTOR_CNT (i : Nat) : Nat := 0x800200 + 0x4 * i
abbrev R.ATTN_SLOT_CFG (i : Nat) : Nat := 0x900000 + 0x4 * i
abbrev R.ATTN_SLOT_DOCS (i : Nat) : Nat := 0x900010 + 0x4 * i
abbrev R.ATTN_BOUNDARY_BASE : Nat := 0x900020
abbrev R.ATTN_ROPE_BASE : Nat := 0x900028
abbrev R.ATTN_STATUS : Nat := 0x900030
abbrev R.ATTN_ROPE_VALID (i : Nat) : Nat := 0x900040 + 0x4 * i
abbrev R.ATTN_TILES_DONE : Nat := 0x900060
abbrev R.ATTN_TILES_SKIPPED : Nat := 0x900064
abbrev R.ATTN_MASKED_ROWS : Nat := 0x900068
abbrev R.ATTN_ZERO_GRAD_ROWS : Nat := 0x90006c
abbrev R.ATTN_INF_ROWS : Nat := 0x900070
abbrev R.ATTN_NAN_ROWS : Nat := 0x900074
abbrev R.ATTN_P_ZERO : Nat := 0x900078
abbrev R.ATTN_TABLE_BAD : Nat := 0x90007c
abbrev R.TRAIN_CTX_CFG (c : Nat) : Nat := 0xa00000 + 0x4 * c
abbrev R.TRAIN_CTX_STATUS (c : Nat) : Nat := 0xa00020 + 0x4 * c
abbrev R.TRAIN_STEP (c : Nat) : Nat := 0xa00040 + 0x8 * c
abbrev R.TRAIN_COMMIT (c : Nat) : Nat := 0xa00080 + 0x8 * c
abbrev R.TRAIN_ARENA (c : Nat) : Nat := 0xa000c0 + 0x4 * c
abbrev R.TRAIN_SEED (c : Nat) : Nat := 0xa00100 + 0x8 * c
abbrev R.TRAIN_ARENA_A (c : Nat) : Nat := 0xa00200 + 0x20 * c
abbrev R.TRAIN_ARENA_B (c : Nat) : Nat := 0xa00208 + 0x20 * c
abbrev R.TRAIN_ARENA_SIZE (c : Nat) : Nat := 0xa00210 + 0x20 * c
abbrev R.TRAIN_RESUME (c : Nat) : Nat := 0xa00300 + 0x8 * c
abbrev R.TRAIN_CTL : Nat := 0xa00340
abbrev R.TRAIN_CTL_RESULT : Nat := 0xa00344
abbrev R.TRAIN_SKIPPED (c : Nat) : Nat := 0xa00380 + 0x4 * c
abbrev R.TRAIN_COMMITS (c : Nat) : Nat := 0xa003a0 + 0x4 * c
abbrev R.TRAIN_COMMIT_FAIL : Nat := 0xa003c0
abbrev R.TRAIN_STASH_IN : Nat := 0xa003c4
abbrev R.TRAIN_STASH_OUT : Nat := 0xa003c8
abbrev R.TRAIN_STASH_BAD : Nat := 0xa003cc
abbrev R.TRAIN_EVAL_NONFINITE : Nat := 0xa003d0
abbrev R.TRAIN_VERDICT_SEL : Nat := 0xa00400
abbrev R.TRAIN_VERDICT (i : Nat) : Nat := 0xa00500 + 0x4 * i
abbrev R.TRAIN_CVERDICT (i : Nat) : Nat := 0xa00600 + 0x4 * i
abbrev R.MEM_STACK_STATUS (i : Nat) : Nat := 0xc00000 + 0x10000 * i
abbrev R.MEM_STACK_CORR (i : Nat) : Nat := 0xc00004 + 0x10000 * i
abbrev R.MEM_LANE_MARK (i j : Nat) : Nat := 0xc00100 + 0x10000 * i + 0x4 * j
abbrev R.MEM_CAP : Nat := 0xe00000
abbrev R.MEM_STATUS : Nat := 0xe00008
abbrev R.MEM_CTL : Nat := 0xe0000c
abbrev R.MEM_MAP (i : Nat) : Nat := 0xe00010 + 0x4 * i
abbrev R.MEM_RETRAIN : Nat := 0xe00040
abbrev R.MEM_XLATE_ADDR : Nat := 0xe00050
abbrev R.MEM_XLATE_RESULT : Nat := 0xe00058
abbrev R.MEM_CORRECTED : Nat := 0xe00060
abbrev R.MEM_ERASURE : Nat := 0xe00064
abbrev R.MEM_UNCORR : Nat := 0xe00068
abbrev R.MEM_RMW : Nat := 0xe0006c
abbrev R.MEM_RETRAINS : Nat := 0xe00070
abbrev R.MEM_STALL_NS : Nat := 0xe00074
abbrev R.MEM_UNCORR_ADDR : Nat := 0xe00080
abbrev R.MEM_MARGIN_CTL : Nat := 0xe00090
abbrev R.MEM_MARGIN_RESULT : Nat := 0xe00094
abbrev R.LINK_ID : Nat := 0x1000000
abbrev R.LINK_TICK_CFG : Nat := 0x1000004
abbrev R.LINK_TICK_CHILD : Nat := 0x1000008
abbrev R.LINK_TIMEOUT : Nat := 0x100000c
abbrev R.LINK_CTX_EPOCH (c : Nat) : Nat := 0x1000010 + 0x4 * c
abbrev R.LINK_STAGING_BASE : Nat := 0x1000030
abbrev R.LINK_MEMBERS_BASE : Nat := 0x1000038
abbrev R.LINK_AGREE_IN : Nat := 0x1000040
abbrev R.LINK_AGREE_CTL : Nat := 0x1000048
abbrev R.LINK_AGREE_RESULT : Nat := 0x100004c
abbrev R.LINK_AGREE_FIRST : Nat := 0x1000058
abbrev R.LINK_AGREE_OUT : Nat := 0x1000050
abbrev R.LINK_GRP_CFG (i : Nat) : Nat := 0x1010000 + 0x8 * i
abbrev R.LINK_GRP_MEM (i : Nat) : Nat := 0x1010004 + 0x8 * i
abbrev R.LINK_PORT_CTL (i j : Nat) : Nat := 0x1000100 + 0x40000 * i + 0x4 * j
abbrev R.LINK_PORT_STATUS (i j : Nat) : Nat := 0x1000140 + 0x40000 * i + 0x4 * j
abbrev R.LINK_PORT_PARTNER (i j : Nat) : Nat := 0x1000180 + 0x40000 * i + 0x4 * j
abbrev R.LINK_ROUTE (i j : Nat) : Nat := 0x1020000 + 0x40000 * i + 0x4 * j
abbrev R.LINK_P_FEC_CORR (i j : Nat) : Nat := 0x1001000 + 0x40000 * i + 0x20 * j
abbrev R.LINK_P_FEC_UNCORR (i j : Nat) : Nat := 0x1001004 + 0x40000 * i + 0x20 * j
abbrev R.LINK_P_CRC_ERR (i j : Nat) : Nat := 0x1001008 + 0x40000 * i + 0x20 * j
abbrev R.LINK_P_REPLAYS (i j : Nat) : Nat := 0x100100c + 0x40000 * i + 0x20 * j
abbrev R.LINK_P_DOWN (i j : Nat) : Nat := 0x1001010 + 0x40000 * i + 0x20 * j
abbrev R.LINK_EPOCH_DROP : Nat := 0x1000060
abbrev R.LINK_DUP_DROP : Nat := 0x1000064
abbrev R.LINK_STAGE_FULL : Nat := 0x1000068
abbrev R.LINK_NOROUTE : Nat := 0x100006c
abbrev R.LINK_E2E_BAD : Nat := 0x1000070
abbrev R.LINK_SCHED_LATE : Nat := 0x1000074
abbrev R.LINK_STRETCH_LATE : Nat := 0x1000078
abbrev R.HEALTH_RISK : Nat := 0x1800000
abbrev R.HEALTH_CTL : Nat := 0x1800004
abbrev R.HEALTH_INPUT (i : Nat) : Nat := 0x1800100 + 0x4 * i
abbrev R.HEALTH_BIST_DIE (i : Nat) : Nat := 0x1800010 + 0x4 * i
abbrev R.HEALTH_ENG_SEL : Nat := 0x1800020
abbrev R.HEALTH_ENG_STATUS : Nat := 0x1800024
abbrev R.HEALTH_ENG_PASS : Nat := 0x1800028
abbrev R.HEALTH_BIST_SIG (i : Nat) : Nat := 0x1800200 + 0x8 * i
abbrev R.HEALTH_SCRUB_CTL : Nat := 0x1800040
abbrev R.HEALTH_SCRUB_ROW : Nat := 0x1800044
abbrev R.HEALTH_SCRUB_PASSES : Nat := 0x1800048
abbrev R.HEALTH_SCRUB_FIXED : Nat := 0x180004c
abbrev R.HEALTH_LOCKSTEP_OUT : Nat := 0x1800050
abbrev R.HEALTH_LOCKSTEP_MISMATCH : Nat := 0x1800054
abbrev R.HEALTH_SRAM_CORR : Nat := 0x1800058
abbrev R.HEALTH_SRAM_UNCORR : Nat := 0x180005c
abbrev R.RECORDER_COUNT : Nat := 0x1900000
abbrev R.RECORDER_STATUS : Nat := 0x1900004
abbrev R.RECORDER_UPDATES : Nat := 0x1900008
abbrev R.RECORDER_LOST : Nat := 0x190000c
abbrev R.RECORDER_FIRST_LOST : Nat := 0x1900010
abbrev R.RECORDER_RD_SEL : Nat := 0x1900020
abbrev R.RECORDER_RD_STATUS : Nat := 0x1900024
abbrev R.RECORDER_RD_WORD (i : Nat) : Nat := 0x1900040 + 0x4 * i
abbrev R.LK_WD_CTL : Nat := 0x1b08000
abbrev R.LK_WD_STATUS : Nat := 0x1b08004
abbrev R.LK_WD_LAST_OK : Nat := 0x1b08008
abbrev R.LK_RESET_CMD : Nat := 0x1b08010
abbrev R.LK_RESET_STATUS : Nat := 0x1b08014
abbrev R.LK_RESET_LAST_MS : Nat := 0x1b08018
abbrev R.LK_RESET_COUNT : Nat := 0x1b0801c
abbrev R.LK_TEARDOWN_US : Nat := 0x1b08020
abbrev R.LK_REPLAY : Nat := 0x1b08024
abbrev R.LK_QUAR_VALID : Nat := 0x1b08028
abbrev R.LK_LAST_INDEX : Nat := 0x1b08030
abbrev R.LK_LAST_FTC : Nat := 0x1b08038
abbrev R.LK_LAST_NEXT : Nat := 0x1b08040
abbrev R.LK_LAST_STEP (c : Nat) : Nat := 0x1b08100 + 0x20 * c
abbrev R.LK_LAST_COMMIT (c : Nat) : Nat := 0x1b08108 + 0x20 * c
abbrev R.LK_LAST_STATE (c : Nat) : Nat := 0x1b08110 + 0x20 * c
abbrev R.LK_QUAR (i : Nat) : Nat := 0x1b08200 + 0x8 * i
abbrev R.LK_SNAP_CFG (c : Nat) : Nat := 0x1b0a000 + 0x4 * c
abbrev R.LK_SNAP_BUDDY (c : Nat) : Nat := 0x1b0a080 + 0x4 * c
abbrev R.LK_SNAP_WARD (c : Nat) : Nat := 0x1b0a0a0 + 0x4 * c
abbrev R.LK_SNAP_CMD : Nat := 0x1b0a040
abbrev R.LK_SNAP_RESULT : Nat := 0x1b0a044
abbrev R.LK_SNAP_RESTORE_SRC : Nat := 0x1b0a048
abbrev R.LK_SNAP_START : Nat := 0x1b0a050
abbrev R.LK_SNAP_CERT_ADDR : Nat := 0x1b0a058
abbrev R.LK_SNAP_SLOT (c j : Nat) : Nat := 0x1b0a200 + 0x8 * c + 0x4 * j
abbrev R.LK_SNAP_WSLOT (c j : Nat) : Nat := 0x1b0a240 + 0x8 * c + 0x4 * j
abbrev R.LK_SNAP_VERIFY (c : Nat) : Nat := 0x1b0a280 + 0x4 * c
abbrev R.LK_SNAP_GAP (c : Nat) : Nat := 0x1b0a2a0 + 0x4 * c
abbrev R.LK_SNAP_DPOS (c : Nat) : Nat := 0x1b0a300 + 0x10 * c
abbrev R.LK_SNAP_DPOS_STEP (c : Nat) : Nat := 0x1b0a308 + 0x10 * c
abbrev R.BOOT_STATUS : Nat := 0x1a00000
abbrev R.BOOT_FW_VERSION : Nat := 0x1a00004
abbrev R.BOOT_FW_A : Nat := 0x1a00008
abbrev R.BOOT_FW_B : Nat := 0x1a0000c
abbrev R.BOOT_FW_STATE : Nat := 0x1a00010
abbrev R.BOOT_SITE_SEQ : Nat := 0x1a00014
abbrev R.BOOT_POWER_FEED : Nat := 0x1a00018
abbrev R.BOOT_COOLING_LOOP : Nat := 0x1a0001c
abbrev R.BOOT_MIN_FW : Nat := 0x1a00020
abbrev R.BOOT_FW_PIN : Nat := 0x1a00024
abbrev R.BOOT_MS : Nat := 0x1a00028
abbrev R.BOOT_NONCE : Nat := 0x1a00030
abbrev R.BOOT_CMD : Nat := 0x1a00040
abbrev R.BOOT_CMD_OFFSET : Nat := 0x1a00044
abbrev R.BOOT_CMD_LEN : Nat := 0x1a00048
abbrev R.BOOT_CMD_RESULT : Nat := 0x1a0004c
abbrev R.BOOT_PWR : Nat := 0x1a00050
abbrev R.GLOBAL_PCI_ID : Nat := 0x0
abbrev R.GLOBAL_BAR2_WIN : Nat := 0x8
abbrev R.LK_STATUS : Nat := 0x1b00000
abbrev R.LK_HEARTBEAT : Nat := 0x1b00004
abbrev R.LK_PROGRESS : Nat := 0x1b00008
abbrev R.LK_BAR2_REFUSED : Nat := 0x1b0000c
abbrev R.LK_CTX_STATE (c : Nat) : Nat := 0x1b00100 + 0x4 * c
abbrev R.LK_IMAGE_ID (c : Nat) : Nat := 0x1b00200 + 0x8 * c
abbrev R.LK_LOAD_RESULT (c : Nat) : Nat := 0x1b00300 + 0x8 * c
abbrev R.LK_LOAD_DETAIL (c : Nat) : Nat := 0x1b00304 + 0x8 * c
abbrev R.LK_SQ_BASE (c : Nat) : Nat := 0x1b01000 + 0x40 * c
abbrev R.LK_SQ_SIZE (c : Nat) : Nat := 0x1b01008 + 0x40 * c
abbrev R.LK_SQ_TAIL (c : Nat) : Nat := 0x1b0100c + 0x40 * c
abbrev R.LK_SQ_HEAD (c : Nat) : Nat := 0x1b01010 + 0x40 * c
abbrev R.LK_CQ_BASE (c : Nat) : Nat := 0x1b01018 + 0x40 * c
abbrev R.LK_CQ_SIZE (c : Nat) : Nat := 0x1b01020 + 0x40 * c
abbrev R.LK_CQ_HEAD (c : Nat) : Nat := 0x1b01024 + 0x40 * c
abbrev R.LK_CQ_TAIL (c : Nat) : Nat := 0x1b01028 + 0x40 * c
abbrev R.LK_CQ_LOST (c : Nat) : Nat := 0x1b0102c + 0x40 * c
abbrev R.MODULE_STATUS : Nat := 0x1c00000
abbrev R.MODULE_CTL : Nat := 0x1c00004
abbrev R.MODULE_PWR_LIMIT : Nat := 0x1c00008
abbrev R.MODULE_SENSE (i : Nat) : Nat := 0x1c00100 + 0x4 * i
abbrev R.MODULE_SERIAL : Nat := 0x1c00200
abbrev R.BOOT_STAGE (i : Nat) : Nat := 0x1a80000 + 0x4 * i
abbrev R.MSIX_ADDR_LO (i : Nat) : Nat := 0x10000 + 0x10 * i
abbrev R.MSIX_ADDR_HI (i : Nat) : Nat := 0x10004 + 0x10 * i
abbrev R.MSIX_DATA (i : Nat) : Nat := 0x10008 + 0x10 * i
abbrev R.MSIX_CTL (i : Nat) : Nat := 0x1000c + 0x10 * i
abbrev R.MSIX_PBA : Nat := 0x11000

/-! Names of their fields. -/

abbrev F.LOCK_PERIOD_PERIOD_US : Fld := ⟨R.LOCK_PERIOD, 12, 0⟩
abbrev F.LOCK_SLOTS_STRETCH_LIMIT : Fld := ⟨R.LOCK_SLOTS, 23, 16⟩
abbrev F.LOCK_SLOTS_TEST_US : Fld := ⟨R.LOCK_SLOTS, 15, 8⟩
abbrev F.LOCK_SLOTS_MAINT_US : Fld := ⟨R.LOCK_SLOTS, 7, 0⟩
abbrev F.LOCK_STRETCH_TIMING_LEAD_US : Fld := ⟨R.LOCK_STRETCH_TIMING, 15, 8⟩
abbrev F.LOCK_STRETCH_TIMING_CUTOFF_US : Fld := ⟨R.LOCK_STRETCH_TIMING, 7, 0⟩
abbrev F.LOCK_CTL_TICK_OUT_EN : Fld := ⟨R.LOCK_CTL, 3, 3⟩
abbrev F.LOCK_CTL_TICK_IN_EN : Fld := ⟨R.LOCK_CTL, 2, 2⟩
abbrev F.LOCK_CTL_TICK_MASTER : Fld := ⟨R.LOCK_CTL, 1, 1⟩
abbrev F.LOCK_CTL_TEST_EN : Fld := ⟨R.LOCK_CTL, 0, 0⟩
abbrev F.LOCK_STATUS_DRAINING : Fld := ⟨R.LOCK_STATUS, 4, 4⟩
abbrev F.LOCK_STATUS_STEP_ABORTED : Fld := ⟨R.LOCK_STATUS, 3, 3⟩
abbrev F.LOCK_STATUS_STRETCHED : Fld := ⟨R.LOCK_STATUS, 2, 2⟩
abbrev F.LOCK_STATUS_TICKING : Fld := ⟨R.LOCK_STATUS, 1, 1⟩
abbrev F.LOCK_STATUS_FTC_LOCKED : Fld := ⟨R.LOCK_STATUS, 0, 0⟩
abbrev F.LOCK_EVENTS_FTC_UNLOCK : Fld := ⟨R.LOCK_EVENTS, 6, 6⟩
abbrev F.LOCK_EVENTS_MAINT_DEFERRED : Fld := ⟨R.LOCK_EVENTS, 5, 5⟩
abbrev F.LOCK_EVENTS_BUDGET_EXCEED : Fld := ⟨R.LOCK_EVENTS, 4, 4⟩
abbrev F.LOCK_EVENTS_SCHEDULE_MISS : Fld := ⟨R.LOCK_EVENTS, 3, 3⟩
abbrev F.LOCK_EVENTS_ABORT_RX : Fld := ⟨R.LOCK_EVENTS, 2, 2⟩
abbrev F.LOCK_EVENTS_ABORT_TX : Fld := ⟨R.LOCK_EVENTS, 1, 1⟩
abbrev F.LOCK_EVENTS_OVERRUN : Fld := ⟨R.LOCK_EVENTS, 0, 0⟩
abbrev F.LOCK_GRANT_REQUEST_US : Fld := ⟨R.LOCK_GRANT, 31, 16⟩
abbrev F.LOCK_GRANT_GRANT_US : Fld := ⟨R.LOCK_GRANT, 15, 0⟩
abbrev F.LOCK_SLOW_FABRIC_SLOW : Fld := ⟨R.LOCK_SLOW, 23, 16⟩
abbrev F.LOCK_SLOW_MOVER_SLOW : Fld := ⟨R.LOCK_SLOW, 15, 8⟩
abbrev F.LOCK_SLOW_ARRAY_SLOW : Fld := ⟨R.LOCK_SLOW, 7, 0⟩
abbrev F.FORMAT_CB_CMD_GO : Fld := ⟨R.FORMAT_CB_CMD, 31, 31⟩
abbrev F.FORMAT_CB_CMD_CONTEXT : Fld := ⟨R.FORMAT_CB_CMD, 10, 8⟩
abbrev F.FORMAT_CB_CMD_ID : Fld := ⟨R.FORMAT_CB_CMD, 5, 0⟩
abbrev F.FORMAT_CB_RESULT_BUSY : Fld := ⟨R.FORMAT_CB_RESULT, 31, 31⟩
abbrev F.FORMAT_CB_RESULT_ENTRY : Fld := ⟨R.FORMAT_CB_RESULT, 19, 16⟩
abbrev F.FORMAT_CB_RESULT_ID : Fld := ⟨R.FORMAT_CB_RESULT, 13, 8⟩
abbrev F.FORMAT_CB_RESULT_CODE : Fld := ⟨R.FORMAT_CB_RESULT, 7, 0⟩
abbrev F.FORMAT_CB_STAGE_BASE_BASE_EXP : Fld := ⟨R.FORMAT_CB_STAGE_BASE, 7, 0⟩
abbrev F.FORMAT_CB_STAGE_ENTRY_ENTRY_HI (i : Nat) : Fld := ⟨(R.FORMAT_CB_STAGE_ENTRY i), 31, 16⟩
abbrev F.FORMAT_CB_STAGE_ENTRY_ENTRY_LO (i : Nat) : Fld := ⟨(R.FORMAT_CB_STAGE_ENTRY i), 15, 0⟩
abbrev F.FORMAT_NONFINITE_OUT_COUNT : Fld := ⟨R.FORMAT_NONFINITE_OUT, 31, 0⟩
abbrev F.FORMAT_CB_HDR_VALID (i : Nat) : Fld := ⟨(R.FORMAT_CB_HDR i), 31, 31⟩
abbrev F.FORMAT_CB_HDR_OWNER (i : Nat) : Fld := ⟨(R.FORMAT_CB_HDR i), 26, 24⟩
abbrev F.FORMAT_CB_HDR_BASE_EXP (i : Nat) : Fld := ⟨(R.FORMAT_CB_HDR i), 7, 0⟩
abbrev F.FORMAT_CB_ENT_ENTRY_HI (i j : Nat) : Fld := ⟨(R.FORMAT_CB_ENT i j), 31, 16⟩
abbrev F.FORMAT_CB_ENT_ENTRY_LO (i j : Nat) : Fld := ⟨(R.FORMAT_CB_ENT i j), 15, 0⟩
abbrev F.SCALE_CTX_BOOTSTRAP_NEXT (c : Nat) : Fld := ⟨(R.SCALE_CTX c), 31, 31⟩
abbrev F.SCALE_CTX_HIST_EMPTY (c : Nat) : Fld := ⟨(R.SCALE_CTX c), 30, 30⟩
abbrev F.SCALE_CTX_HEADROOM (c : Nat) : Fld := ⟨(R.SCALE_CTX c), 3, 0⟩
abbrev F.SCALE_CTX_RANGE_COUNT_M1 (c : Nat) : Fld := ⟨(R.SCALE_CTX_RANGE c), 31, 16⟩
abbrev F.SCALE_CTX_RANGE_FIRST (c : Nat) : Fld := ⟨(R.SCALE_CTX_RANGE c), 15, 0⟩
abbrev F.SCALE_RD_SEL_GO : Fld := ⟨R.SCALE_RD_SEL, 31, 31⟩
abbrev F.SCALE_RD_SEL_INDEX : Fld := ⟨R.SCALE_RD_SEL, 15, 0⟩
abbrev F.SCALE_RD_STATUS_BUSY : Fld := ⟨R.SCALE_RD_STATUS, 31, 31⟩
abbrev F.COMPUTE_DIE_STATUS_BELOW_GUARANTEE (i : Nat) : Fld := ⟨(R.COMPUTE_DIE_STATUS i), 25, 25⟩
abbrev F.COMPUTE_DIE_STATUS_AVAILABLE (i : Nat) : Fld := ⟨(R.COMPUTE_DIE_STATUS i), 24, 16⟩
abbrev F.COMPUTE_DIE_STATUS_ENABLED (i : Nat) : Fld := ⟨(R.COMPUTE_DIE_STATUS i), 8, 0⟩
abbrev F.COMPUTE_STEAL_CROSS_EN : Fld := ⟨R.COMPUTE_STEAL, 16, 16⟩
abbrev F.COMPUTE_STEAL_CROSS_MIN : Fld := ⟨R.COMPUTE_STEAL, 15, 8⟩
abbrev F.COMPUTE_STEAL_RADIUS : Fld := ⟨R.COMPUTE_STEAL, 2, 0⟩
abbrev F.COMPUTE_ARRAY_BUSY : Fld := ⟨R.COMPUTE_ARRAY, 31, 31⟩
abbrev F.COMPUTE_ARRAY_ABORTED : Fld := ⟨R.COMPUTE_ARRAY, 30, 30⟩
abbrev F.COMPUTE_ARRAY_CONTEXT : Fld := ⟨R.COMPUTE_ARRAY, 14, 12⟩
abbrev F.COMPUTE_ARRAY_BARGE_INDEX : Fld := ⟨R.COMPUTE_ARRAY, 11, 0⟩
abbrev F.COMPUTE_TASKS_TOTAL_COUNT : Fld := ⟨R.COMPUTE_TASKS_TOTAL, 31, 0⟩
abbrev F.COMPUTE_WITHHELD_VALID (i : Nat) : Fld := ⟨(R.COMPUTE_WITHHELD i), 31, 31⟩
abbrev F.COMPUTE_WITHHELD_ENGINE (i : Nat) : Fld := ⟨(R.COMPUTE_WITHHELD i), 8, 0⟩
abbrev F.COMPUTE_CLK_FREQ_MHZ (i : Nat) : Fld := ⟨(R.COMPUTE_CLK i), 10, 0⟩
abbrev F.COMPUTE_DISABLED_MAP (i j : Nat) : Fld := ⟨(R.COMPUTE_DISABLED i j), 16, 0⟩
abbrev F.COMPUTE_OFFLINE_MAP (i j : Nat) : Fld := ⟨(R.COMPUTE_OFFLINE i j), 16, 0⟩
abbrev F.COMPUTE_ENG_SEL_ENGINE (i : Nat) : Fld := ⟨(R.COMPUTE_ENG_SEL i), 8, 0⟩
abbrev F.COMPUTE_ENG_STATUS_STATE (i : Nat) : Fld := ⟨(R.COMPUTE_ENG_STATUS i), 31, 29⟩
abbrev F.COMPUTE_ENG_STATUS_SLOTS (i : Nat) : Fld := ⟨(R.COMPUTE_ENG_STATUS i), 28, 27⟩
abbrev F.COMPUTE_ENG_STATUS_TASKS (i : Nat) : Fld := ⟨(R.COMPUTE_ENG_STATUS i), 23, 0⟩
abbrev F.COMPUTE_STICKY_GROUPS_COUNT (i : Nat) : Fld := ⟨(R.COMPUTE_STICKY_GROUPS i), 31, 0⟩
abbrev F.COMPUTE_FORCED_DRAINS_COUNT (i : Nat) : Fld := ⟨(R.COMPUTE_FORCED_DRAINS i), 31, 0⟩
abbrev F.SCALE_CSTAT_STATUS_AGREED : Fld := ⟨R.SCALE_CSTAT_STATUS, 1, 1⟩
abbrev F.SCALE_CSTAT_STATUS_FEED_BANK : Fld := ⟨R.SCALE_CSTAT_STATUS, 0, 0⟩
abbrev F.SCALE_CSTAT_CLAIM_FIRST_FIRST (c : Nat) : Fld := ⟨(R.SCALE_CSTAT_CLAIM_FIRST c), 20, 0⟩
abbrev F.SCALE_CSTAT_CLAIM_COUNT_COUNT (c : Nat) : Fld := ⟨(R.SCALE_CSTAT_CLAIM_COUNT c), 21, 0⟩
abbrev F.SCALE_CSTAT_RD_SEL_GO : Fld := ⟨R.SCALE_CSTAT_RD_SEL, 31, 31⟩
abbrev F.SCALE_CSTAT_RD_SEL_BANK : Fld := ⟨R.SCALE_CSTAT_RD_SEL, 24, 24⟩
abbrev F.SCALE_CSTAT_RD_SEL_INDEX : Fld := ⟨R.SCALE_CSTAT_RD_SEL, 20, 0⟩
abbrev F.SCALE_CSTAT_RD_STATUS_BUSY : Fld := ⟨R.SCALE_CSTAT_RD_STATUS, 31, 31⟩
abbrev F.TRAIN_SLUICE_STATUS_REBUILD_BUSY : Fld := ⟨R.TRAIN_SLUICE_STATUS, 31, 31⟩
abbrev F.TRAIN_SLUICE_STATUS_LAST_WITHHELD : Fld := ⟨R.TRAIN_SLUICE_STATUS, 30, 30⟩
abbrev F.TRAIN_SLUICE_STATUS_IN_FORCE : Fld := ⟨R.TRAIN_SLUICE_STATUS, 0, 0⟩
abbrev F.TRAIN_WIDEN_CTX_MAX_SLOTS (c : Nat) : Fld := ⟨(R.TRAIN_WIDEN_CTX c), 26, 16⟩
abbrev F.TRAIN_WIDEN_CTX_HOLD_STEPS (c : Nat) : Fld := ⟨(R.TRAIN_WIDEN_CTX c), 15, 0⟩
abbrev F.TRAIN_MON_THR_ZERO_THR (c : Nat) : Fld := ⟨(R.TRAIN_MON_THR c), 31, 16⟩
abbrev F.TRAIN_MON_THR_SAT_THR (c : Nat) : Fld := ⟨(R.TRAIN_MON_THR c), 15, 0⟩
abbrev F.TRAIN_WIDEN_SEL_CONTEXT : Fld := ⟨R.TRAIN_WIDEN_SEL, 14, 12⟩
abbrev F.TRAIN_WIDEN_SEL_SLOT : Fld := ⟨R.TRAIN_WIDEN_SEL, 9, 0⟩
abbrev F.TRAIN_WIDEN_STATE_LEVEL : Fld := ⟨R.TRAIN_WIDEN_STATE, 31, 30⟩
abbrev F.TRAIN_WIDEN_STATE_REQ_LAST : Fld := ⟨R.TRAIN_WIDEN_STATE, 29, 29⟩
abbrev F.TRAIN_WIDEN_STATE_REQ_OWN : Fld := ⟨R.TRAIN_WIDEN_STATE, 28, 28⟩
abbrev F.TRAIN_WIDEN_STATE_HOLD : Fld := ⟨R.TRAIN_WIDEN_STATE, 15, 0⟩
abbrev F.VECTOR_STATUS_BUSY : Fld := ⟨R.VECTOR_STATUS, 31, 31⟩
abbrev F.VECTOR_STATUS_STAGE : Fld := ⟨R.VECTOR_STATUS, 30, 28⟩
abbrev F.VECTOR_STATUS_CONTEXT : Fld := ⟨R.VECTOR_STATUS, 14, 12⟩
abbrev F.VECTOR_STATUS_BARGE_INDEX : Fld := ⟨R.VECTOR_STATUS, 11, 0⟩
abbrev F.VECTOR_KSTORE_CONST_USED : Fld := ⟨R.VECTOR_KSTORE, 28, 16⟩
abbrev F.VECTOR_KSTORE_INSTR_USED : Fld := ⟨R.VECTOR_KSTORE, 14, 0⟩
abbrev F.VECTOR_KERNEL_SEL_CONTEXT : Fld := ⟨R.VECTOR_KERNEL_SEL, 12, 10⟩
abbrev F.VECTOR_KERNEL_SEL_KERNEL : Fld := ⟨R.VECTOR_KERNEL_SEL, 9, 0⟩
abbrev F.VECTOR_KERNEL_INFO_VALID : Fld := ⟨R.VECTOR_KERNEL_INFO, 31, 31⟩
abbrev F.VECTOR_KERNEL_INFO_ISSUE : Fld := ⟨R.VECTOR_KERNEL_INFO, 30, 20⟩
abbrev F.VECTOR_KERNEL_INFO_CONST_COUNT : Fld := ⟨R.VECTOR_KERNEL_INFO, 17, 9⟩
abbrev F.VECTOR_KERNEL_INFO_COUNT : Fld := ⟨R.VECTOR_KERNEL_INFO, 8, 0⟩
abbrev F.VECTOR_KERNEL_LOC_START : Fld := ⟨R.VECTOR_KERNEL_LOC, 29, 16⟩
abbrev F.VECTOR_KERNEL_LOC_CONST_BASE : Fld := ⟨R.VECTOR_KERNEL_LOC, 11, 0⟩
abbrev F.VECTOR_CNT_STATUS_VALID : Fld := ⟨R.VECTOR_CNT_STATUS, 31, 31⟩
abbrev F.VECTOR_CNT_STATUS_CONTEXT : Fld := ⟨R.VECTOR_CNT_STATUS, 26, 24⟩
abbrev F.VECTOR_CNT_STATUS_NBUCKETS : Fld := ⟨R.VECTOR_CNT_STATUS, 8, 0⟩
abbrev F.VECTOR_CNT_DROPPED_COUNT : Fld := ⟨R.VECTOR_CNT_DROPPED, 31, 0⟩
abbrev F.VECTOR_CNT_COUNT (i : Nat) : Fld := ⟨(R.VECTOR_CNT i), 31, 0⟩
abbrev F.ATTN_SLOT_CFG_OWNED (i : Nat) : Fld := ⟨(R.ATTN_SLOT_CFG i), 31, 31⟩
abbrev F.ATTN_SLOT_CFG_CONTEXT (i : Nat) : Fld := ⟨(R.ATTN_SLOT_CFG i), 26, 24⟩
abbrev F.ATTN_SLOT_CFG_LENGTH_T (i : Nat) : Fld := ⟨(R.ATTN_SLOT_CFG i), 14, 0⟩
abbrev F.ATTN_SLOT_DOCS_BAD (i : Nat) : Fld := ⟨(R.ATTN_SLOT_DOCS i), 31, 31⟩
abbrev F.ATTN_SLOT_DOCS_DOCS (i : Nat) : Fld := ⟨(R.ATTN_SLOT_DOCS i), 16, 0⟩
abbrev F.ATTN_STATUS_BUSY : Fld := ⟨R.ATTN_STATUS, 31, 31⟩
abbrev F.ATTN_STATUS_OP : Fld := ⟨R.ATTN_STATUS, 30, 28⟩
abbrev F.ATTN_STATUS_CONTEXT : Fld := ⟨R.ATTN_STATUS, 14, 12⟩
abbrev F.ATTN_STATUS_BARGE_INDEX : Fld := ⟨R.ATTN_STATUS, 11, 0⟩
abbrev F.ATTN_ROPE_VALID_MAP (i : Nat) : Fld := ⟨(R.ATTN_ROPE_VALID i), 31, 0⟩
abbrev F.TRAIN_CTX_CFG_SKIP_LIMIT (c : Nat) : Fld := ⟨(R.TRAIN_CTX_CFG c), 15, 0⟩
abbrev F.TRAIN_CTX_STATUS_STOPPED (c : Nat) : Fld := ⟨(R.TRAIN_CTX_STATUS c), 31, 31⟩
abbrev F.TRAIN_CTX_STATUS_IN_STEP (c : Nat) : Fld := ⟨(R.TRAIN_CTX_STATUS c), 30, 30⟩
abbrev F.TRAIN_CTX_STATUS_EVAL (c : Nat) : Fld := ⟨(R.TRAIN_CTX_STATUS c), 29, 29⟩
abbrev F.TRAIN_CTX_STATUS_NONFINITE (c : Nat) : Fld := ⟨(R.TRAIN_CTX_STATUS c), 28, 28⟩
abbrev F.TRAIN_CTX_STATUS_STASH_FAULT (c : Nat) : Fld := ⟨(R.TRAIN_CTX_STATUS c), 27, 27⟩
abbrev F.TRAIN_CTX_STATUS_UPD_NONFINITE (c : Nat) : Fld := ⟨(R.TRAIN_CTX_STATUS c), 26, 26⟩
abbrev F.TRAIN_CTX_STATUS_UPD_FAULT (c : Nat) : Fld := ⟨(R.TRAIN_CTX_STATUS c), 25, 25⟩
abbrev F.TRAIN_CTX_STATUS_VERDICT_SKIP (c : Nat) : Fld := ⟨(R.TRAIN_CTX_STATUS c), 24, 24⟩
abbrev F.TRAIN_CTX_STATUS_PHASE (c : Nat) : Fld := ⟨(R.TRAIN_CTX_STATUS c), 18, 16⟩
abbrev F.TRAIN_CTX_STATUS_SKIP_RUN (c : Nat) : Fld := ⟨(R.TRAIN_CTX_STATUS c), 15, 0⟩
abbrev F.TRAIN_ARENA_PENDING (c : Nat) : Fld := ⟨(R.TRAIN_ARENA c), 1, 1⟩
abbrev F.TRAIN_ARENA_IN_FORCE (c : Nat) : Fld := ⟨(R.TRAIN_ARENA c), 0, 0⟩
abbrev F.TRAIN_CTL_GO : Fld := ⟨R.TRAIN_CTL, 31, 31⟩
abbrev F.TRAIN_CTL_CONTEXT : Fld := ⟨R.TRAIN_CTL, 10, 8⟩
abbrev F.TRAIN_CTL_CMD : Fld := ⟨R.TRAIN_CTL, 1, 0⟩
abbrev F.TRAIN_CTL_RESULT_CODE : Fld := ⟨R.TRAIN_CTL_RESULT, 7, 0⟩
abbrev F.TRAIN_VERDICT_SEL_CONTEXT : Fld := ⟨R.TRAIN_VERDICT_SEL, 2, 0⟩
abbrev F.TRAIN_VERDICT_WORD (i : Nat) : Fld := ⟨(R.TRAIN_VERDICT i), 31, 0⟩
abbrev F.TRAIN_CVERDICT_WORD (i : Nat) : Fld := ⟨(R.TRAIN_CVERDICT i), 31, 0⟩
abbrev F.MEM_STACK_STATUS_SHUT (i : Nat) : Fld := ⟨(R.MEM_STACK_STATUS i), 31, 31⟩
abbrev F.MEM_STACK_STATUS_STEP (i : Nat) : Fld := ⟨(R.MEM_STACK_STATUS i), 30, 28⟩
abbrev F.MEM_STACK_STATUS_TEMP_MAX (i : Nat) : Fld := ⟨(R.MEM_STACK_STATUS i), 15, 8⟩
abbrev F.MEM_STACK_STATUS_TEMP (i : Nat) : Fld := ⟨(R.MEM_STACK_STATUS i), 7, 0⟩
abbrev F.MEM_STACK_CORR_COUNT (i : Nat) : Fld := ⟨(R.MEM_STACK_CORR i), 31, 0⟩
abbrev F.MEM_LANE_MARK_VALID (i j : Nat) : Fld := ⟨(R.MEM_LANE_MARK i j), 31, 31⟩
abbrev F.MEM_LANE_MARK_LANE (i j : Nat) : Fld := ⟨(R.MEM_LANE_MARK i j), 4, 0⟩
abbrev F.MEM_STATUS_CONTENTS_LOST : Fld := ⟨R.MEM_STATUS, 31, 31⟩
abbrev F.MEM_STATUS_BELOW_GUARANTEE : Fld := ⟨R.MEM_STATUS, 30, 30⟩
abbrev F.MEM_STATUS_MARKED : Fld := ⟨R.MEM_STATUS, 29, 29⟩
abbrev F.MEM_STATUS_HOT_STEP : Fld := ⟨R.MEM_STATUS, 28, 26⟩
abbrev F.MEM_STATUS_HOT_STACK : Fld := ⟨R.MEM_STATUS, 25, 22⟩
abbrev F.MEM_STATUS_MAPPED_OUT : Fld := ⟨R.MEM_STATUS, 12, 9⟩
abbrev F.MEM_STATUS_ENABLED : Fld := ⟨R.MEM_STATUS, 8, 0⟩
abbrev F.MEM_CTL_KEEP_MARKED : Fld := ⟨R.MEM_CTL, 0, 0⟩
abbrev F.MEM_MAP_OUT (i : Nat) : Fld := ⟨(R.MEM_MAP i), 31, 0⟩
abbrev F.MEM_RETRAIN_ACTIVE : Fld := ⟨R.MEM_RETRAIN, 31, 31⟩
abbrev F.MEM_RETRAIN_PHASE : Fld := ⟨R.MEM_RETRAIN, 30, 30⟩
abbrev F.MEM_RETRAIN_CHANNEL : Fld := ⟨R.MEM_RETRAIN, 8, 0⟩
abbrev F.MEM_XLATE_RESULT_CHANNEL : Fld := ⟨R.MEM_XLATE_RESULT, 31, 23⟩
abbrev F.MEM_XLATE_RESULT_PC : Fld := ⟨R.MEM_XLATE_RESULT, 22, 22⟩
abbrev F.MEM_XLATE_RESULT_SECTOR : Fld := ⟨R.MEM_XLATE_RESULT, 21, 0⟩
abbrev F.MEM_MARGIN_CTL_GO : Fld := ⟨R.MEM_MARGIN_CTL, 31, 31⟩
abbrev F.MEM_MARGIN_CTL_KIND : Fld := ⟨R.MEM_MARGIN_CTL, 30, 28⟩
abbrev F.MEM_MARGIN_CTL_ALL_LANES : Fld := ⟨R.MEM_MARGIN_CTL, 27, 27⟩
abbrev F.MEM_MARGIN_CTL_LANE : Fld := ⟨R.MEM_MARGIN_CTL, 26, 22⟩
abbrev F.MEM_MARGIN_CTL_PC : Fld := ⟨R.MEM_MARGIN_CTL, 21, 21⟩
abbrev F.MEM_MARGIN_CTL_CHANNEL : Fld := ⟨R.MEM_MARGIN_CTL, 8, 0⟩
abbrev F.MEM_MARGIN_RESULT_BUSY : Fld := ⟨R.MEM_MARGIN_RESULT, 31, 31⟩
abbrev F.MEM_MARGIN_RESULT_CODE : Fld := ⟨R.MEM_MARGIN_RESULT, 26, 24⟩
abbrev F.MEM_MARGIN_RESULT_WORST_LANE : Fld := ⟨R.MEM_MARGIN_RESULT, 23, 19⟩
abbrev F.MEM_MARGIN_RESULT_LOW : Fld := ⟨R.MEM_MARGIN_RESULT, 15, 8⟩
abbrev F.MEM_MARGIN_RESULT_HIGH : Fld := ⟨R.MEM_MARGIN_RESULT, 7, 0⟩
abbrev F.LINK_ID_FABRIC_ID : Fld := ⟨R.LINK_ID, 31, 16⟩
abbrev F.LINK_ID_MODULE_ID : Fld := ⟨R.LINK_ID, 12, 0⟩
abbrev F.LINK_TICK_CFG_PARENT_VALID : Fld := ⟨R.LINK_TICK_CFG, 31, 31⟩
abbrev F.LINK_TICK_CFG_PARENT_PORT : Fld := ⟨R.LINK_TICK_CFG, 28, 24⟩
abbrev F.LINK_TICK_CFG_ALT_VALID : Fld := ⟨R.LINK_TICK_CFG, 23, 23⟩
abbrev F.LINK_TICK_CFG_ALT_PORT : Fld := ⟨R.LINK_TICK_CFG, 20, 16⟩
abbrev F.LINK_TICK_CFG_GATHER_US : Fld := ⟨R.LINK_TICK_CFG, 7, 0⟩
abbrev F.LINK_TICK_CHILD_MAP : Fld := ⟨R.LINK_TICK_CHILD, 31, 0⟩
abbrev F.LINK_TIMEOUT_COLL_MS : Fld := ⟨R.LINK_TIMEOUT, 31, 16⟩
abbrev F.LINK_TIMEOUT_E2E_US : Fld := ⟨R.LINK_TIMEOUT, 7, 0⟩
abbrev F.LINK_CTX_EPOCH_EPOCH (c : Nat) : Fld := ⟨(R.LINK_CTX_EPOCH c), 31, 0⟩
abbrev F.LINK_AGREE_CTL_GO : Fld := ⟨R.LINK_AGREE_CTL, 31, 31⟩
abbrev F.LINK_AGREE_CTL_OP : Fld := ⟨R.LINK_AGREE_CTL, 25, 24⟩
abbrev F.LINK_AGREE_CTL_GROUP : Fld := ⟨R.LINK_AGREE_CTL, 9, 0⟩
abbrev F.LINK_AGREE_RESULT_BUSY : Fld := ⟨R.LINK_AGREE_RESULT, 31, 31⟩
abbrev F.LINK_AGREE_RESULT_CODE : Fld := ⟨R.LINK_AGREE_RESULT, 26, 24⟩
abbrev F.LINK_AGREE_RESULT_MISSING : Fld := ⟨R.LINK_AGREE_RESULT, 13, 0⟩
abbrev F.LINK_AGREE_FIRST_FIRST_MISSING : Fld := ⟨R.LINK_AGREE_FIRST, 12, 0⟩
abbrev F.LINK_GRP_CFG_VALID (i : Nat) : Fld := ⟨(R.LINK_GRP_CFG i), 31, 31⟩
abbrev F.LINK_GRP_CFG_CONTEXT (i : Nat) : Fld := ⟨(R.LINK_GRP_CFG i), 30, 28⟩
abbrev F.LINK_GRP_CFG_RANK (i : Nat) : Fld := ⟨(R.LINK_GRP_CFG i), 26, 14⟩
abbrev F.LINK_GRP_CFG_SIZE (i : Nat) : Fld := ⟨(R.LINK_GRP_CFG i), 13, 0⟩
abbrev F.LINK_GRP_MEM_MEMBER_FIRST (i : Nat) : Fld := ⟨(R.LINK_GRP_MEM i), 19, 0⟩
abbrev F.LINK_PORT_CTL_EN (i j : Nat) : Fld := ⟨(R.LINK_PORT_CTL i j), 31, 31⟩
abbrev F.LINK_PORT_CTL_PMD (i j : Nat) : Fld := ⟨(R.LINK_PORT_CTL i j), 30, 30⟩
abbrev F.LINK_PORT_CTL_ACCEPT (i j : Nat) : Fld := ⟨(R.LINK_PORT_CTL i j), 29, 29⟩
abbrev F.LINK_PORT_STATUS_STATE (i j : Nat) : Fld := ⟨(R.LINK_PORT_STATUS i j), 31, 29⟩
abbrev F.LINK_PORT_STATUS_EQ_SAVED (i j : Nat) : Fld := ⟨(R.LINK_PORT_STATUS i j), 28, 28⟩
abbrev F.LINK_PORT_PARTNER_VALID (i j : Nat) : Fld := ⟨(R.LINK_PORT_PARTNER i j), 31, 31⟩
abbrev F.LINK_PORT_PARTNER_PORT (i j : Nat) : Fld := ⟨(R.LINK_PORT_PARTNER i j), 28, 24⟩
abbrev F.LINK_PORT_PARTNER_MODULE (i j : Nat) : Fld := ⟨(R.LINK_PORT_PARTNER i j), 12, 0⟩
abbrev F.LINK_ROUTE_VALID_A (i j : Nat) : Fld := ⟨(R.LINK_ROUTE i j), 31, 31⟩
abbrev F.LINK_ROUTE_PORT_A (i j : Nat) : Fld := ⟨(R.LINK_ROUTE i j), 28, 24⟩
abbrev F.LINK_ROUTE_VALID_B (i j : Nat) : Fld := ⟨(R.LINK_ROUTE i j), 23, 23⟩
abbrev F.LINK_ROUTE_PORT_B (i j : Nat) : Fld := ⟨(R.LINK_ROUTE i j), 20, 16⟩
abbrev F.HEALTH_RISK_INPUT : Fld := ⟨R.HEALTH_RISK, 12, 8⟩
abbrev F.HEALTH_RISK_LEVEL : Fld := ⟨R.HEALTH_RISK, 1, 0⟩
abbrev F.HEALTH_CTL_AUTO_RECOVER : Fld := ⟨R.HEALTH_CTL, 31, 31⟩
abbrev F.HEALTH_CTL_GRACE_MS : Fld := ⟨R.HEALTH_CTL, 15, 0⟩
abbrev F.HEALTH_INPUT_LEVEL (i : Nat) : Fld := ⟨(R.HEALTH_INPUT i), 31, 30⟩
abbrev F.HEALTH_INPUT_VALUE (i : Nat) : Fld := ⟨(R.HEALTH_INPUT i), 29, 0⟩
abbrev F.HEALTH_BIST_DIE_SWEEPS (i : Nat) : Fld := ⟨(R.HEALTH_BIST_DIE i), 31, 16⟩
abbrev F.HEALTH_BIST_DIE_FAILS (i : Nat) : Fld := ⟨(R.HEALTH_BIST_DIE i), 15, 0⟩
abbrev F.HEALTH_ENG_SEL_ENGINE : Fld := ⟨R.HEALTH_ENG_SEL, 10, 0⟩
abbrev F.HEALTH_ENG_STATUS_FAILED : Fld := ⟨R.HEALTH_ENG_STATUS, 31, 31⟩
abbrev F.HEALTH_ENG_STATUS_FAIL_SLICE : Fld := ⟨R.HEALTH_ENG_STATUS, 7, 4⟩
abbrev F.HEALTH_ENG_STATUS_NEXT_SLICE : Fld := ⟨R.HEALTH_ENG_STATUS, 3, 0⟩
abbrev F.HEALTH_SCRUB_CTL_EN : Fld := ⟨R.HEALTH_SCRUB_CTL, 0, 0⟩
abbrev F.HEALTH_SCRUB_ROW_ROW : Fld := ⟨R.HEALTH_SCRUB_ROW, 20, 0⟩
abbrev F.HEALTH_LOCKSTEP_OUT_MAP : Fld := ⟨R.HEALTH_LOCKSTEP_OUT, 23, 0⟩
abbrev F.RECORDER_COUNT_COUNT : Fld := ⟨R.RECORDER_COUNT, 14, 0⟩
abbrev F.RECORDER_STATUS_FULL : Fld := ⟨R.RECORDER_STATUS, 31, 31⟩
abbrev F.RECORDER_RD_SEL_GO : Fld := ⟨R.RECORDER_RD_SEL, 31, 31⟩
abbrev F.RECORDER_RD_SEL_INDEX : Fld := ⟨R.RECORDER_RD_SEL, 13, 0⟩
abbrev F.RECORDER_RD_STATUS_BUSY : Fld := ⟨R.RECORDER_RD_STATUS, 31, 31⟩
abbrev F.RECORDER_RD_STATUS_ECC : Fld := ⟨R.RECORDER_RD_STATUS, 30, 30⟩
abbrev F.RECORDER_RD_STATUS_EMPTY : Fld := ⟨R.RECORDER_RD_STATUS, 29, 29⟩
abbrev F.LK_WD_CTL_EN : Fld := ⟨R.LK_WD_CTL, 31, 31⟩
abbrev F.LK_WD_CTL_RECOVERY_S : Fld := ⟨R.LK_WD_CTL, 23, 16⟩
abbrev F.LK_WD_CTL_PERIOD_MS : Fld := ⟨R.LK_WD_CTL, 15, 0⟩
abbrev F.LK_WD_STATUS_HANG : Fld := ⟨R.LK_WD_STATUS, 31, 31⟩
abbrev F.LK_WD_STATUS_CONDITION : Fld := ⟨R.LK_WD_STATUS, 30, 28⟩
abbrev F.LK_WD_STATUS_QUEUES : Fld := ⟨R.LK_WD_STATUS, 20, 16⟩
abbrev F.LK_WD_STATUS_SUSPECTS : Fld := ⟨R.LK_WD_STATUS, 15, 8⟩
abbrev F.LK_RESET_CMD_GO : Fld := ⟨R.LK_RESET_CMD, 31, 31⟩
abbrev F.LK_RESET_CMD_CONTEXT : Fld := ⟨R.LK_RESET_CMD, 10, 8⟩
abbrev F.LK_RESET_CMD_KIND : Fld := ⟨R.LK_RESET_CMD, 1, 0⟩
abbrev F.LK_RESET_STATUS_BUSY : Fld := ⟨R.LK_RESET_STATUS, 31, 31⟩
abbrev F.LK_RESET_STATUS_KIND : Fld := ⟨R.LK_RESET_STATUS, 30, 28⟩
abbrev F.LK_RESET_STATUS_RESULT : Fld := ⟨R.LK_RESET_STATUS, 27, 24⟩
abbrev F.LK_RESET_LAST_MS_MS : Fld := ⟨R.LK_RESET_LAST_MS, 31, 0⟩
abbrev F.LK_RESET_COUNT_RECOVERIES : Fld := ⟨R.LK_RESET_COUNT, 31, 16⟩
abbrev F.LK_RESET_COUNT_COMPUTE : Fld := ⟨R.LK_RESET_COUNT, 15, 0⟩
abbrev F.LK_TEARDOWN_US_US : Fld := ⟨R.LK_TEARDOWN_US, 31, 0⟩
abbrev F.LK_REPLAY_ACTIVE : Fld := ⟨R.LK_REPLAY, 31, 31⟩
abbrev F.LK_REPLAY_CONTEXT : Fld := ⟨R.LK_REPLAY, 26, 24⟩
abbrev F.LK_REPLAY_PENDING : Fld := ⟨R.LK_REPLAY, 15, 8⟩
abbrev F.LK_REPLAY_CLEARED : Fld := ⟨R.LK_REPLAY, 7, 0⟩
abbrev F.LK_QUAR_VALID_MAP : Fld := ⟨R.LK_QUAR_VALID, 15, 0⟩
abbrev F.LK_LAST_STATE_VALID (c : Nat) : Fld := ⟨(R.LK_LAST_STATE c), 31, 31⟩
abbrev F.LK_LAST_STATE_FLIPPED (c : Nat) : Fld := ⟨(R.LK_LAST_STATE c), 1, 1⟩
abbrev F.LK_LAST_STATE_IN_FORCE (c : Nat) : Fld := ⟨(R.LK_LAST_STATE c), 0, 0⟩
abbrev F.LK_SNAP_CFG_EN (c : Nat) : Fld := ⟨(R.LK_SNAP_CFG c), 31, 31⟩
abbrev F.LK_SNAP_CFG_RISK_MIN (c : Nat) : Fld := ⟨(R.LK_SNAP_CFG c), 29, 28⟩
abbrev F.LK_SNAP_CFG_PERIOD (c : Nat) : Fld := ⟨(R.LK_SNAP_CFG c), 23, 0⟩
abbrev F.LK_SNAP_BUDDY_VALID (c : Nat) : Fld := ⟨(R.LK_SNAP_BUDDY c), 31, 31⟩
abbrev F.LK_SNAP_BUDDY_MODULE (c : Nat) : Fld := ⟨(R.LK_SNAP_BUDDY c), 12, 0⟩
abbrev F.LK_SNAP_WARD_VALID (c : Nat) : Fld := ⟨(R.LK_SNAP_WARD c), 31, 31⟩
abbrev F.LK_SNAP_WARD_MODULE (c : Nat) : Fld := ⟨(R.LK_SNAP_WARD c), 12, 0⟩
abbrev F.LK_SNAP_CMD_GO : Fld := ⟨R.LK_SNAP_CMD, 31, 31⟩
abbrev F.LK_SNAP_CMD_CONTEXT : Fld := ⟨R.LK_SNAP_CMD, 10, 8⟩
abbrev F.LK_SNAP_CMD_CMD : Fld := ⟨R.LK_SNAP_CMD, 3, 0⟩
abbrev F.LK_SNAP_RESULT_BUSY : Fld := ⟨R.LK_SNAP_RESULT, 31, 31⟩
abbrev F.LK_SNAP_RESULT_CODE : Fld := ⟨R.LK_SNAP_RESULT, 7, 0⟩
abbrev F.LK_SNAP_RESTORE_SRC_REMOTE : Fld := ⟨R.LK_SNAP_RESTORE_SRC, 31, 31⟩
abbrev F.LK_SNAP_RESTORE_SRC_OVERRIDE : Fld := ⟨R.LK_SNAP_RESTORE_SRC, 30, 30⟩
abbrev F.LK_SNAP_RESTORE_SRC_SLOT : Fld := ⟨R.LK_SNAP_RESTORE_SRC, 24, 24⟩
abbrev F.LK_SNAP_RESTORE_SRC_MODULE : Fld := ⟨R.LK_SNAP_RESTORE_SRC, 12, 0⟩
abbrev F.LK_SNAP_SLOT_STATE (c j : Nat) : Fld := ⟨(R.LK_SNAP_SLOT c j), 31, 29⟩
abbrev F.LK_SNAP_SLOT_LOCK (c j : Nat) : Fld := ⟨(R.LK_SNAP_SLOT c j), 28, 28⟩
abbrev F.LK_SNAP_SLOT_STEP (c j : Nat) : Fld := ⟨(R.LK_SNAP_SLOT c j), 23, 0⟩
abbrev F.LK_SNAP_WSLOT_STATE (c j : Nat) : Fld := ⟨(R.LK_SNAP_WSLOT c j), 31, 29⟩
abbrev F.LK_SNAP_WSLOT_STEP (c j : Nat) : Fld := ⟨(R.LK_SNAP_WSLOT c j), 23, 0⟩
abbrev F.LK_SNAP_VERIFY_ARMED (c : Nat) : Fld := ⟨(R.LK_SNAP_VERIFY c), 31, 31⟩
abbrev F.LK_SNAP_VERIFY_VERIFIED (c : Nat) : Fld := ⟨(R.LK_SNAP_VERIFY c), 30, 30⟩
abbrev F.LK_SNAP_VERIFY_MISMATCH (c : Nat) : Fld := ⟨(R.LK_SNAP_VERIFY c), 29, 29⟩
abbrev F.LK_SNAP_VERIFY_RESTORED (c : Nat) : Fld := ⟨(R.LK_SNAP_VERIFY c), 28, 28⟩
abbrev F.LK_SNAP_GAP_G (c : Nat) : Fld := ⟨(R.LK_SNAP_GAP c), 31, 16⟩
abbrev F.LK_SNAP_GAP_SLOT_MIB (c : Nat) : Fld := ⟨(R.LK_SNAP_GAP c), 15, 0⟩
abbrev F.BOOT_STATUS_STATE : Fld := ⟨R.BOOT_STATUS, 31, 29⟩
abbrev F.BOOT_STATUS_FW_SLOT : Fld := ⟨R.BOOT_STATUS, 28, 28⟩
abbrev F.BOOT_STATUS_TRIAL : Fld := ⟨R.BOOT_STATUS, 27, 27⟩
abbrev F.BOOT_STATUS_OWNED : Fld := ⟨R.BOOT_STATUS, 26, 26⟩
abbrev F.BOOT_STATUS_SITE_COPY : Fld := ⟨R.BOOT_STATUS, 25, 25⟩
abbrev F.BOOT_STATUS_STEP : Fld := ⟨R.BOOT_STATUS, 23, 16⟩
abbrev F.BOOT_STATUS_CAUSE : Fld := ⟨R.BOOT_STATUS, 7, 0⟩
abbrev F.BOOT_CMD_GO : Fld := ⟨R.BOOT_CMD, 31, 31⟩
abbrev F.BOOT_CMD_CMD : Fld := ⟨R.BOOT_CMD, 3, 0⟩
abbrev F.BOOT_CMD_RESULT_BUSY : Fld := ⟨R.BOOT_CMD_RESULT, 31, 31⟩
abbrev F.BOOT_CMD_RESULT_CODE : Fld := ⟨R.BOOT_CMD_RESULT, 7, 0⟩
abbrev F.BOOT_PWR_REQ : Fld := ⟨R.BOOT_PWR, 1, 0⟩
abbrev F.BOOT_PWR_STATE : Fld := ⟨R.BOOT_PWR, 5, 4⟩
abbrev F.BOOT_PWR_RESULT : Fld := ⟨R.BOOT_PWR, 11, 8⟩
abbrev F.LK_STATUS_DEGRADED : Fld := ⟨R.LK_STATUS, 31, 31⟩
abbrev F.LK_STATUS_SEC_OUT : Fld := ⟨R.LK_STATUS, 30, 30⟩
abbrev F.LK_STATUS_RUNTIME_PAIRS : Fld := ⟨R.LK_STATUS, 4, 0⟩
abbrev F.LK_CTX_STATE_STATE (c : Nat) : Fld := ⟨(R.LK_CTX_STATE c), 31, 29⟩
abbrev F.LK_LOAD_RESULT_CODE (c : Nat) : Fld := ⟨(R.LK_LOAD_RESULT c), 7, 0⟩
abbrev F.LK_LOAD_DETAIL_DETAIL (c : Nat) : Fld := ⟨(R.LK_LOAD_DETAIL c), 31, 0⟩
abbrev F.LK_SQ_SIZE_ENTRIES (c : Nat) : Fld := ⟨(R.LK_SQ_SIZE c), 15, 0⟩
abbrev F.LK_SQ_TAIL_TAIL (c : Nat) : Fld := ⟨(R.LK_SQ_TAIL c), 15, 0⟩
abbrev F.LK_SQ_HEAD_HEAD (c : Nat) : Fld := ⟨(R.LK_SQ_HEAD c), 15, 0⟩
abbrev F.LK_CQ_SIZE_ENTRIES (c : Nat) : Fld := ⟨(R.LK_CQ_SIZE c), 15, 0⟩
abbrev F.LK_CQ_HEAD_HEAD (c : Nat) : Fld := ⟨(R.LK_CQ_HEAD c), 15, 0⟩
abbrev F.LK_CQ_TAIL_TAIL (c : Nat) : Fld := ⟨(R.LK_CQ_TAIL c), 15, 0⟩
abbrev F.MODULE_STATUS_PSTEP : Fld := ⟨R.MODULE_STATUS, 15, 14⟩
abbrev F.MODULE_STATUS_PWR_GOOD : Fld := ⟨R.MODULE_STATUS, 7, 7⟩
abbrev F.MODULE_STATUS_TRIPPED : Fld := ⟨R.MODULE_STATUS, 4, 4⟩
abbrev F.MODULE_STATUS_LEAK : Fld := ⟨R.MODULE_STATUS, 3, 3⟩
abbrev F.MODULE_STATUS_THERMAL : Fld := ⟨R.MODULE_STATUS, 2, 2⟩
abbrev F.MODULE_STATUS_SUPPLY : Fld := ⟨R.MODULE_STATUS, 1, 1⟩
abbrev F.MODULE_STATUS_ALERT : Fld := ⟨R.MODULE_STATUS, 0, 0⟩
abbrev F.MODULE_CTL_WAKE : Fld := ⟨R.MODULE_CTL, 0, 0⟩
abbrev F.MODULE_PWR_LIMIT_WATTS : Fld := ⟨R.MODULE_PWR_LIMIT, 11, 0⟩
abbrev F.MODULE_SENSE_VALUE (i : Nat) : Fld := ⟨(R.MODULE_SENSE i), 15, 0⟩
abbrev F.BOOT_STAGE_WORD (i : Nat) : Fld := ⟨(R.BOOT_STAGE i), 31, 0⟩
abbrev F.MSIX_ADDR_LO_ADDR (i : Nat) : Fld := ⟨(R.MSIX_ADDR_LO i), 31, 0⟩
abbrev F.MSIX_ADDR_HI_ADDR (i : Nat) : Fld := ⟨(R.MSIX_ADDR_HI i), 31, 0⟩
abbrev F.MSIX_DATA_DATA (i : Nat) : Fld := ⟨(R.MSIX_DATA i), 31, 0⟩
abbrev F.MSIX_CTL_MASK (i : Nat) : Fld := ⟨(R.MSIX_CTL i), 0, 0⟩

end Sys2Proof.Machine
end

