-- ==== Sys2Proof/Machine/Table.lean ====
section
/-! DEFINITION. Sparse tables: the one form in which State holds anything indexed (registers, memory, contexts, engines,
ports). A table lists (key, value) pairs in rising key order and never lists a value equal to its default. -/

namespace Sys2Proof.Machine

/-- The value at key `k`; a key that is not listed holds the default `d k`. -/
def tblGet {α : Type} (d : Nat → α) (t : List (Nat × α)) (k : Nat) : α :=
  match t.lookup k with
  | some v => v
  | none => d k

/-- `t` with every entry of key `k` taken out. -/
def tblErase {α : Type} (t : List (Nat × α)) (k : Nat) : List (Nat × α) :=
  t.filter (fun e => e.1 != k)

/-- `t` with `(k, v)` put before the first larger key. -/
def tblIns {α : Type} (k : Nat) (v : α) : List (Nat × α) → List (Nat × α)
  | [] => [(k, v)]
  | (j, w) :: t => if k < j then (k, v) :: (j, w) :: t else (j, w) :: tblIns k v t

/-- `t` with the value at key `k` replaced; writing the default removes the entry. -/
def tblSet {α : Type} [DecidableEq α] (d : Nat → α) (t : List (Nat × α)) (k : Nat) (v : α) : List (Nat × α) :=
  if v = d k then tblErase t k else tblIns k v (tblErase t k)

/-- `t` with `f` applied to the value at key `k`. -/
def tblUpd {α : Type} [DecidableEq α] (d : Nat → α) (t : List (Nat × α)) (k : Nat) (f : α → α) : List (Nat × α) :=
  tblSet d t k (f (tblGet d t k))

/-- The keys rise strictly. -/
def tblSorted {α : Type} : List (Nat × α) → Bool
  | [] => true
  | [_] => true
  | a :: b :: t => decide (a.1 < b.1) && tblSorted (b :: t)

/-- The canonical form: rising keys, no entry equal to the default. -/
def tblWf {α : Type} [DecidableEq α] (d : Nat → α) (t : List (Nat × α)) : Bool :=
  tblSorted t && t.all (fun e => decide (e.2 ≠ d e.1))

end Sys2Proof.Machine
end

