-- ==== Sys2Proof/Machine/RegAccess.lean ====
section
/-! DEFINITION. What the register map says of one BAR0 offset: its reset word, its value after a reset of one domain
(R8), and its value after a host write (R6, R7, Table 00-3). -/

namespace Sys2Proof.Machine

/-- The indices of offset `o` in an array of registers; none when `o` falls between its members. -/
def dimIndices : List (Nat × Nat) → Nat → Option (List Nat × Nat)
  | [], o => some ([], o)
  | (count, stride) :: ds, o =>
    if o / stride < count then
      match dimIndices ds (o % stride) with
      | some (is, rest) => some (o / stride :: is, rest)
      | none => none
    else none

/-- Where BAR0 offset `a` falls in row `r`: its indices and 0 for the low word, 1 for the high word. -/
def rowAt (r : RegRow) (a : Nat) : Option (List Nat × Nat) :=
  if r.base ≤ a then
    match dimIndices r.dims (a - r.base) with
    | some (is, rest) => if rest = 0 then some (is, 0) else if r.wide ∧ rest = 4 then some (is, 1) else none
    | none => none
  else none

/-- The first row of `rs` that holds offset `a`. -/
def findRow : List RegRow → Nat → Option (RegRow × List Nat × Nat)
  | [], _ => none
  | r :: rs, a =>
    match rowAt r a with
    | some (is, h) => some (r, is, h)
    | none => findRow rs a

/-- The register row of BAR0 offset `a`, its indices and its half; none at a reserved offset. -/
def regRow (a : Nat) : Option (RegRow × List Nat × Nat) :=
  if a % 4 = 0 then findRow (blockRows a) a else none

/-- Mask of bits hi:lo of a register of up to 64 bits, as a number. -/
def fieldMask (hi lo : Nat) : Nat := (2 ^ (hi + 1 - lo) - 1) * 2 ^ lo

/-- The 32-bit half `h` of a 64-bit pattern. -/
def halfOf (h v : Nat) : BitVec 32 := BitVec.ofNat 32 (v / 2 ^ (32 * h))

/-- Every field of a row at its reset value, as one number. -/
def resetBits (fs : List RegField) : Nat :=
  fs.foldl (fun acc f => acc + f.reset % 2 ^ (f.hi + 1 - f.lo) * 2 ^ f.lo) 0

/-- The bits of those fields of `fs` for which `p` holds, as a mask. -/
def maskWhere (p : RegField → Bool) (fs : List RegField) : Nat :=
  fs.foldl (fun acc f => if p f then acc + fieldMask f.hi f.lo else acc) 0

/-- The value every register holds at reset: its table's Reset column; 0 at a reserved offset (R3, R6). -/
def regDefault (a : Nat) : BitVec 32 :=
  match regRow a with
  | some (r, _, h) => halfOf h (resetBits r.fields)
  | none => 0

/-- The reset domains of Table 00-4, by their letter's weight in `RegField.surv`; K carries the context torn down. -/
inductive Domain where
  | cold | moduleReset | recovery | compute | teardown (c : CtxId)
  deriving DecidableEq, Repr

/-- The weight of a domain's letter. -/
def domainWeight : Domain → Nat
  | .cold => 1 | .moduleReset => 2 | .recovery => 4 | .compute => 8 | .teardown _ => 16

/-- R8: whether a reset in `d` resets field `f` of row `r` at the indices `is`. A teardown resets only what belongs to
its context: a field indexed by another context, or with an owner of its own, is left alone. -/
def fieldReset (d : Domain) (r : RegRow) (is : List Nat) (f : RegField) : Bool :=
  if f.surv / domainWeight d % 2 = 1 then false
  else match d with
    | .teardown c => if r.byCtx then is.head? == some c.val else !r.owned
    | _ => true

/-- R8: the word at offset `a` after a reset in domain `d`. -/
def regAfterReset (d : Domain) (a : Nat) (v : BitVec 32) : BitVec 32 :=
  match regRow a with
  | some (r, is, h) =>
    let m := halfOf h (maskWhere (fieldReset d r is) r.fields)
    (v &&& ~~~m) ||| (regDefault a &&& m)
  | none => if 0x4000000 ≤ a then 0 else v

/-- R8 over the whole register file. -/
def regsAfterReset (d : Domain) : List (Nat × BitVec 32) → List (Nat × BitVec 32)
  | [] => []
  | (a, v) :: t =>
    let v' := regAfterReset d a v
    if v' = regDefault a then regsAfterReset d t else (a, v') :: regsAfterReset d t

/-- Table 00-3: the word held at offset `a` after a host write of `w` over `v`. RW fields take the bits written, RW1C
bits are cleared by a 1, and every other field and every reserved bit is left as it is: RWL takes writes from boot
firmware only (R7). -/
def regAfterWrite (a : Nat) (v w : BitVec 32) : BitVec 32 :=
  match regRow a with
  | some (r, _, h) =>
    let rw := halfOf h (maskWhere (fun f => f.acc == .rw) r.fields)
    let c := halfOf h (maskWhere (fun f => f.acc == .w1c) r.fields)
    ((v &&& ~~~rw) ||| (w &&& rw)) &&& ~~~(w &&& c)
  | none => v

/-- Table 00-3: what a host read of the word `v` at offset `a` returns: WO and reserved bits read 0. -/
def regReadValue (a : Nat) (v : BitVec 32) : BitVec 32 :=
  match regRow a with
  | some (r, _, h) => v &&& halfOf h (maskWhere (fun f => f.acc != .wo) r.fields)
  | none => 0

/-- Table 00-3: the word held at offset `a` after a host read of the word `v`: the read clears RC fields. -/
def regAfterRead (a : Nat) (v : BitVec 32) : BitVec 32 :=
  match regRow a with
  | some (r, _, h) => v &&& ~~~(halfOf h (maskWhere (fun f => f.acc == .rc) r.fields))
  | none => v

/-- Whether offset `a` is the low half (0) or the high half (1) of a 64-bit register. -/
def wideHalf (a : Nat) : Option Nat :=
  match regRow a with
  | some (r, _, h) => if r.wide then some h else none
  | none => none

end Sys2Proof.Machine
end

