-- ==== Sys2Proof/Machine/Transc.lean ====
section
/-! DEFINITION. The correctly rounded functions of Table 08-3 (R197, Table 08-4). A function is evaluated in fixed point
with `fxBits` fraction bits; every step truncates by at most one unit and the evaluation takes a few hundred steps, so the
exact value lies within `fxErr` units. Where both ends of that interval round to one FP32 value, that is the result. -/

namespace Sys2Proof.Machine

def fxBits : Nat := 400
def fxOne : Int := 2 ^ fxBits
def fxErr : Int := 2 ^ 40

def fxMul (a b : Int) : Int := a * b / fxOne
def fxDiv (a b : Int) : Int := a * fxOne / b

/-- A finite value in fixed point (|value| below 2^200 and no bit below 2^-400 in every use). -/
def fxOf (neg : Bool) (m : Nat) (e : Int) : Int :=
  let x := e + fxBits
  signedOf neg (if 0 ≤ x then m * 2 ^ x.toNat else m / 2 ^ (-x).toNat)

/-- The FP32 of a value known to lie within `fxErr` units of a × 2^k; none when the two ends round apart. -/
def fxRound (a : Int) (k : Int) : Option (BitVec 32) :=
  let f := fun (x : Int) => to32 (.fin (decide (x < 0)) x.natAbs (k - fxBits))
  let lo := f (a - fxErr)
  let hi := f (a + fxErr)
  if lo = hi then some lo else none

/-- Σ z^(2i+1) / (2i+1), from term `t` at odd index `i`. -/
def atanhLoop (z2 : Int) : Nat → Int → Int → Int
  | 0, _, _ => 0
  | n + 1, t, i => t / i + atanhLoop z2 n (fxMul t z2) (i + 2)

def fxAtanh (z : Int) : Int := atanhLoop (fxMul z z) 140 z 1

/-- Σ (−1)^i / ((2i+1) q^(2i+1)): the arc tangent of 1 / q. -/
def atanLoop (q2 : Int) : Nat → Int → Int → Int
  | 0, _, _ => 0
  | n + 1, t, i => t / i - atanLoop q2 n (t / q2) (i + 2)

def fxAtanInv (q : Int) : Int := atanLoop (q * q) 100 (fxOne / q) 1

def fxLn2 : Int := 2 * fxAtanh (fxOne / 3)
def fxPi : Int := 16 * fxAtanInv 5 - 4 * fxAtanInv 239

/-- Σ r^i / i!, from term `t` of index `i`. -/
def expLoop (r : Int) : Nat → Int → Int → Int
  | 0, _, _ => 0
  | n + 1, t, i => t + expLoop r n (fxMul t r / i) (i + 1)

/-- e^r for |r| ≤ 1. -/
def fxExp (r : Int) : Int := expLoop r 110 fxOne 1

/-- e^x as (mantissa, power of two). -/
def fxExpWide (x : Int) : Int × Int :=
  let k := x / fxLn2
  (fxExp (x - k * fxLn2), k)

/-- ln (m × 2^e), with the mantissa brought into [2/3, 4/3). -/
def fxLn (m : Nat) (e : Int) : Int :=
  let l : Int := Nat.log2 m
  let y := fxOf false m (-l)
  let (y, k) := if 3 * y < 4 * fxOne then (y, e + l) else (y / 2, e + l + 1)
  k * fxLn2 + 2 * fxAtanh (fxDiv (y - fxOne) (y + fxOne))

/-- Σ of the alternating series of sin or cos of r, from term `t` of index `i`. -/
def sinLoop (r2 : Int) : Nat → Int → Int → Int
  | 0, _, _ => 0
  | n + 1, t, i => t - sinLoop r2 n (fxMul t r2 / ((i + 1) * (i + 2))) (i + 2)

def fxSin (r : Int) : Int := sinLoop (fxMul r r) 60 r 1
def fxCos (r : Int) : Int := sinLoop (fxMul r r) 60 fxOne 0

/-- Σ (−1)^n x^(2n+1) / (n! (2n+1)), `t` being x^(2n+1) / n!. -/
def erfLoop (x2 : Int) : Nat → Int → Int → Int
  | 0, _, _ => 0
  | k + 1, t, n => t / (2 * n + 1) - erfLoop x2 k (fxMul t x2 / (n + 1)) (n + 1)

/-- Fixed-point square root. -/
def fxSqrt (a : Int) : Int := (isqrt (a.natAbs * 2 ^ fxBits) : Nat)

def fxErf (x : Int) : Int := fxDiv (2 * erfLoop (fxMul x x) 220 x 0) (fxSqrt fxPi)

def one32 : BitVec 32 := 0x3F800000#32
def posInf32 : BitVec 32 := 0x7F800000#32
def negInf32 : BitVec 32 := 0xFF800000#32

/-- The rounded value, or the free value of log 12. -/
def decided (op : Nat) (a : BitVec 32) (r : Option (BitVec 32)) : BitVec 32 := r.getD (Config.hardRounding op a)

/-- e^(x) for a fixed-point x, rounded. -/
def expOf (x : Int) : Option (BitVec 32) := let (m, k) := fxExpWide x; fxRound m k

def fExp (a : BitVec 32) : BitVec 32 :=
  match fv32 a with
  | .nan => nan32
  | .inf s => if s then 0 else posInf32
  | .fin s m e =>
    if fvBig s m e then (if s then 0 else posInf32) else decided 0x1A a (expOf (fxOf s m e))
where
  /-- Whether |a| is at least 256, where the result is +0 or +inf. -/
  fvBig (_ : Bool) (m : Nat) (e : Int) : Bool := (Fv.fin false m e).cmp (.fin false 256 0) != some .lt

def fExp2 (a : BitVec 32) : BitVec 32 :=
  match fv32 a with
  | .nan => nan32
  | .inf s => if s then 0 else posInf32
  | .fin s m e =>
    if fExp.fvBig s m e then (if s then 0 else posInf32)
    else
      let x := fxOf s m e
      if x % fxOne = 0 then to32 (.fin false 1 (x / fxOne))
      else decided 0x18 a (fxRound (fxExp (fxMul (x % fxOne) fxLn2)) (x / fxOne))

def fLog (a : BitVec 32) : BitVec 32 :=
  match fv32 a with
  | .nan => nan32
  | .inf s => if s then nan32 else posInf32
  | .fin s m e =>
    if m = 0 then negInf32 else if s then nan32 else if a = one32 then 0 else decided 0x1B a (fxRound (fxLn m e) 0)

def fLog2 (a : BitVec 32) : BitVec 32 :=
  match fv32 a with
  | .nan => nan32
  | .inf s => if s then nan32 else posInf32
  | .fin s m e =>
    if m = 0 then negInf32 else if s then nan32 else if a = one32 then 0
    else decided 0x19 a (fxRound (fxDiv (fxLn m e) fxLn2) 0)

/-- tanh x: (E − 1) / (E + 1) with E = e^(2x). From |x| = 16 on, the result rounds to ±1. -/
def fTanh (a : BitVec 32) : BitVec 32 :=
  match fv32 a with
  | .nan => nan32
  | .inf s => if s then 0xBF800000#32 else one32
  | .fin s m e =>
    if m = 0 then a
    else if (Fv.fin false m e).cmp (.fin false 16 0) != some .lt then (if s then 0xBF800000#32 else one32)
    else
      let (x, k) := fxExpWide (2 * fxOf s m e)
      let y := if 0 ≤ k then x * 2 ^ k.toNat else x / 2 ^ (-k).toNat
      decided 0x1C a (fxRound (fxDiv (y - fxOne) (y + fxOne)) 0)

/-- 1 / (1 + e^−x); below −64 as e^x, which it equals to within 2^-92 of itself. -/
def fSigmoid (a : BitVec 32) : BitVec 32 :=
  match fv32 a with
  | .nan => nan32
  | .inf s => if s then 0 else one32
  | .fin s m e =>
    if fExp.fvBig s m e then (if s then 0 else one32)
    else
      let (x, k) := fxExpWide (fxOf s m e)
      if 0 ≤ k then
        decided 0x1D a (fxRound (fxDiv (x * 2 ^ k.toNat) (x * 2 ^ k.toNat + fxOne)) 0)
      else
        decided 0x1D a (fxRound (fxDiv x (fxOne + x / 2 ^ (-k).toNat)) k)

/-- erf x; from |x| = 5 on, the result rounds to ±1. -/
def fErf (a : BitVec 32) : BitVec 32 :=
  match fv32 a with
  | .nan => nan32
  | .inf s => if s then 0xBF800000#32 else one32
  | .fin s m e =>
    if m = 0 then a
    else if (Fv.fin false m e).cmp (.fin false 5 0) != some .lt then (if s then 0xBF800000#32 else one32)
    else decided 0x1E a (fxRound (fxErf (fxOf s m e)) 0)

/-- The fraction of |x| below 2, in fixed point. -/
def fxMod2 (m : Nat) (e : Int) : Int :=
  if 1 ≤ e then 0 else fxOf false (m % 2 ^ (1 - e).toNat) e

/-- sin(π t) for t in [0, 2), in fixed point: brought into the first octant. -/
def fxSinPi (t : Int) : Int :=
  let u := t % fxOne
  let v := if 2 * u ≤ fxOne then u else fxOne - u
  let r := if 4 * v ≤ fxOne then fxSin (fxMul v fxPi) else fxCos (fxMul (fxOne / 2 - v) fxPi)
  if t < fxOne then r else -r

def fSinPi (a : BitVec 32) : BitVec 32 :=
  match fv32 a with
  | .nan => nan32
  | .inf _ => nan32
  | .fin s m e =>
    let t := fxMod2 m e
    if t % fxOne = 0 then a &&& 0x80000000#32
    else let r := fxSinPi t; decided 0x1F a (fxRound (if s then -r else r) 0)

def fCosPi (a : BitVec 32) : BitVec 32 :=
  match fv32 a with
  | .nan => nan32
  | .inf _ => nan32
  | .fin _ m e =>
    let t := (fxMod2 m e + fxOne / 2) % (2 * fxOne)
    if t % fxOne = 0 then 0 else decided 0x20 a (fxRound (fxSinPi t) 0)

/-- 1 / √a, correctly rounded: the sticky bit stands for the discarded part. -/
def fRsqrt (a : BitVec 32) : BitVec 32 :=
  match fv32 a with
  | .nan => nan32
  | .inf s => if s then nan32 else 0
  | .fin s m e =>
    if m = 0 then (if s then negInf32 else posInf32) else if s then nan32
    else
      let odd := e % 2
      let d := m * 2 ^ odd.toNat
      let r := isqrt (2 ^ 200 / d)
      let x := 2 * r + (if r * r * d = 2 ^ 200 then 0 else 1)
      to32 (.fin false x (-((e - odd) / 2) - 101))

end Sys2Proof.Machine
end

