-- ==== Sys2Proof/Machine/VectorOps.lean ====
section
/-! DEFINITION. The vector instructions of one lane, kernels, and the reduction trees (spec/08 R192 to R214). -/

namespace Sys2Proof.Machine

/-- The vector operations of Table 08-3. -/
inductive VOp where
  | add | sub | mul | fma | min | max | abs | neg | copysign | mov
  | div | sqrt | rcp | rsqrt
  | exp2 | log2 | exp | log | tanh | sigmoid | erf | sinpi | cospi
  | cmpeq | cmpne | cmplt | cmple | cmpun | sel
  | iadd | isub | imul | and | or | xor | shl | shr | icmplt | icmpeq
  | cvtif | cvtfi | rndbf16 | rndf16 | rand
  deriving DecidableEq, Repr

/-- OP code, operation, cost in vector issues and sources used, as Table 08-3 lists them. -/
def vopTable : List (Nat × VOp × Nat × Nat) := [
  (0x00, .add, 1, 2), (0x01, .sub, 1, 2), (0x02, .mul, 1, 2), (0x03, .fma, 1, 3), (0x04, .min, 1, 2),
  (0x05, .max, 1, 2), (0x06, .abs, 1, 1), (0x07, .neg, 1, 1), (0x08, .copysign, 1, 2), (0x09, .mov, 1, 1),
  (0x10, .div, 2, 2), (0x11, .sqrt, 2, 1), (0x12, .rcp, 2, 1), (0x13, .rsqrt, 2, 1),
  (0x18, .exp2, 4, 1), (0x19, .log2, 4, 1), (0x1A, .exp, 4, 1), (0x1B, .log, 4, 1), (0x1C, .tanh, 4, 1),
  (0x1D, .sigmoid, 4, 1), (0x1E, .erf, 4, 1), (0x1F, .sinpi, 4, 1), (0x20, .cospi, 4, 1),
  (0x28, .cmpeq, 1, 2), (0x29, .cmpne, 1, 2), (0x2A, .cmplt, 1, 2), (0x2B, .cmple, 1, 2), (0x2C, .cmpun, 1, 2),
  (0x2D, .sel, 1, 2), (0x30, .iadd, 1, 2), (0x31, .isub, 1, 2), (0x32, .imul, 1, 2), (0x33, .and, 1, 2),
  (0x34, .or, 1, 2), (0x35, .xor, 1, 2), (0x36, .shl, 1, 2), (0x37, .shr, 1, 2), (0x38, .icmplt, 1, 2),
  (0x39, .icmpeq, 1, 2), (0x40, .cvtif, 1, 1), (0x41, .cvtfi, 1, 1), (0x42, .rndbf16, 1, 1), (0x43, .rndf16, 1, 1),
  (0x48, .rand, 2, 0)]

/-- The row of an OP code; none when the OP is invalid. -/
def vopOf (code : Nat) : Option (VOp × Nat × Nat) := vopTable.lookup code

/-- A source (Table 08-2). -/
inductive VSrc where
  | reg (n : Fin 32)
  | const
  deriving DecidableEq, Repr

/-- A decoded instruction (Table 08-1). -/
structure VIns where
  op : VOp
  dst : Fin 32
  a : VSrc
  b : VSrc
  c : VSrc
  maskEn : Bool
  maskSel : Fin 8
  imm : Nat
  deriving DecidableEq, Repr

/-- Table 08-2: a source code; none when invalid. -/
def vsrcOf (n : Nat) : Option VSrc := if h : n < 32 then some (.reg ⟨n, h⟩) else if n = 32 then some .const else none

/-- Whether an operation writes a lane mask. -/
def isCompare (o : VOp) : Bool := [VOp.cmpeq, .cmpne, .cmplt, .cmple, .cmpun, .icmplt, .icmpeq].contains o

/-- R194 to R196: an instruction word decoded; none when R201 refuses it. -/
def decodeVector (w : BitVec 64) : Option VIns :=
  let n := w.toNat
  match vopOf (bitsAt n 0 8), vsrcOf (bitsAt n 17 6), vsrcOf (bitsAt n 23 6), vsrcOf (bitsAt n 29 6) with
  | some (op, _, used), some a, some b, some c =>
    let unusedOk := (decide (1 ≤ used) || bitsAt n 17 6 == 0) && (decide (2 ≤ used) || bitsAt n 23 6 == 0) &&
      (decide (3 ≤ used) || bitsAt n 29 6 == 0)
    if bitsAt n 47 17 = 0 ∧ unusedOk ∧ (isCompare op → bitsAt n 11 2 = 0) ∧ (op = .sel → bitsAt n 16 1 = 0) then
      some ⟨op, ⟨bitsAt n 8 5, Nat.mod_lt _ (by decide)⟩, a, b, c, bitsAt n 16 1 == 1,
        ⟨bitsAt n 13 3, Nat.mod_lt _ (by decide)⟩, bitsAt n 35 12⟩
    else none
  | _, _, _, _ => none

/-- R192: one lane: its vector registers (unlisted: 0), its bit of LM0 to LM7, and the linear index of its element. -/
structure Lane where
  v : List (Nat × BitVec 32) := []
  lm : BitVec 8 := 0xFF
  elem : Nat := 0
  deriving DecidableEq, Repr

/-- The default of a vector register. -/
def vDefault (_ : Nat) : BitVec 32 := 0

def Lane.get (l : Lane) (n : Nat) : BitVec 32 := tblGet vDefault l.v n
def Lane.set (l : Lane) (n : Nat) (w : BitVec 32) : Lane := { l with v := tblSet vDefault l.v n w }

/-- What a kernel sees beside its registers: its constant pool, and the generator of R199 by stream number and element. -/
structure VEnv where
  consts : List (BitVec 32)
  seed : Nat
  step : Nat
  streams : List (Nat × Nat)
  deriving DecidableEq, Repr

/-- A source's value in a lane. -/
def vsrcValue (env : VEnv) (i : VIns) (l : Lane) : VSrc → BitVec 32
  | .reg n => l.get n.val
  | .const => env.consts.getD i.imm 0

/-- R199: the draw of stream number `k` at element `e`. -/
def vrand (env : VEnv) (k e : Nat) : BitVec 32 := crng env.seed ((env.streams.lookup k).getD 0) env.step e

def fRcp (a : BitVec 32) : BitVec 32 := fDiv one32 a

/-- COPYSIGN (Table 08-3). -/
def fCopysign (a b : BitVec 32) : BitVec 32 :=
  if isNan32 a then nan32 else (a &&& 0x7FFFFFFF#32) ||| (b &&& 0x80000000#32)

/-- CVTFI (Table 08-3). -/
def fToU32 (a : BitVec 32) : BitVec 32 :=
  match fv32 a with
  | .nan => 0
  | .inf s => if s then 0 else 0xFFFFFFFF#32
  | .fin s m e =>
    let t := if 0 ≤ e then m * 2 ^ e.toNat else m / 2 ^ (-e).toNat
    if s then 0 else if 2 ^ 32 ≤ t then 0xFFFFFFFF#32 else BitVec.ofNat 32 t

/-- CVTIF (Table 08-3). -/
def fOfU32 (a : BitVec 32) : BitVec 32 := to32 (.fin false a.toNat 0)

/-- R197, R198: the 32-bit result of an operation; compares answer in bit 0. -/
def vopResult (o : VOp) (a b c : BitVec 32) (sel : Bool) (draw : BitVec 32) : BitVec 32 :=
  match o with
  | .add => fAdd a b
  | .sub => fSub a b
  | .mul => fMul a b
  | .fma => fFma a b c
  | .min => fMin a b
  | .max => fMax a b
  | .abs => fAbs a
  | .neg => fNeg a
  | .copysign => fCopysign a b
  | .mov => a
  | .div => fDiv a b
  | .sqrt => fSqrt a
  | .rcp => fRcp a
  | .rsqrt => fRsqrt a
  | .exp2 => fExp2 a
  | .log2 => fLog2 a
  | .exp => fExp a
  | .log => fLog a
  | .tanh => fTanh a
  | .sigmoid => fSigmoid a
  | .erf => fErf a
  | .sinpi => fSinPi a
  | .cospi => fCosPi a
  | .cmpeq => if fEq a b then 1 else 0
  | .cmpne => if fNe a b then 1 else 0
  | .cmplt => if fLt a b then 1 else 0
  | .cmple => if fLe a b then 1 else 0
  | .cmpun => if fUn a b then 1 else 0
  | .sel => if sel then a else b
  | .iadd => a + b
  | .isub => a - b
  | .imul => a * b
  | .and => a &&& b
  | .or => a ||| b
  | .xor => a ^^^ b
  | .shl => a <<< (b.toNat % 32)
  | .shr => a >>> (b.toNat % 32)
  | .icmplt => if a.toNat < b.toNat then 1 else 0
  | .icmpeq => if a = b then 1 else 0
  | .cvtif => fOfU32 a
  | .cvtfi => fToU32 a
  | .rndbf16 => ofBf16 (toBf16 a)
  | .rndf16 => ofF16 (toF16 a)
  | .rand => draw

/-- Bit `n` of a mask byte set to `x`. -/
def setMask (m : BitVec 8) (n : Nat) (x : Bool) : BitVec 8 :=
  if x then m ||| BitVec.twoPow 8 n else m &&& ~~~(BitVec.twoPow 8 n)

/-- R196, R197: one instruction in one lane. -/
def laneStep (env : VEnv) (i : VIns) (l : Lane) : Lane :=
  if i.maskEn && !l.lm.getLsbD i.maskSel.val then l
  else
    let r := vopResult i.op (vsrcValue env i l i.a) (vsrcValue env i l i.b) (vsrcValue env i l i.c)
      (l.lm.getLsbD i.maskSel.val) (vrand env i.imm l.elem)
    if isCompare i.op then { l with lm := setMask l.lm (i.dst.val % 8) (r.getLsbD 0) } else l.set i.dst.val r

/-- A kernel: its instructions and its constants (R200). -/
structure Kernel where
  code : List VIns
  consts : List (BitVec 32)
  deriving DecidableEq, Repr

/-- R200: the issue count of an operation. -/
def vopCost (o : VOp) : Nat := ((vopTable.find? (fun r => r.2.1 == o)).map (fun r => r.2.2.1)).getD 1

def kernelIssue (k : Kernel) : Nat := (k.code.map (fun i => vopCost i.op)).sum

/-- R203: a lane at the start of a vector. -/
def laneInit (v0 v1 v2 i0 i1 i2 v6 v7 v8 v9 : BitVec 32) (e : Nat) : Lane :=
  (((((((((({ elem := e } : Lane).set 0 v0).set 1 v1).set 2 v2).set 3 i0).set 4 i1).set 5 i2).set 6 v6).set 7 v7).set 8
    v8).set 9 v9

/-- A kernel run in one lane. -/
def runKernel (env : VEnv) (k : Kernel) (l : Lane) : Lane :=
  k.code.foldl (fun l i => laneStep { env with consts := k.consts } i l) l

/-- The fixed tree of R128 and R210 over a list, with operation `f`. -/
def treeLevel {α : Type} (f : α → α → α) : List α → List α
  | x :: y :: rest => f x y :: treeLevel f rest
  | xs => xs

def treeFold {α : Type} (f : α → α → α) (d : α) : Nat → List α → α
  | 0, xs => xs.headD d
  | n + 1, xs =>
    match xs with
    | [] => d
    | [x] => x
    | xs => treeFold f d n (treeLevel f xs)

/-- A list cut into chunks of `k`, at most `n` of them. -/
def chunks {α : Type} (k : Nat) : Nat → List α → List (List α)
  | 0, _ => []
  | n + 1, xs => if xs.isEmpty then [] else xs.take k :: chunks k n (xs.drop k)

/-- R210: a row reduced: chunks of 64 first, then the chunk values. -/
def rowTree {α : Type} (f : α → α → α) (d : α) (xs : List α) : α :=
  treeFold f d 32 ((chunks 64 (xs.length / 64 + 1) xs).map (treeFold f d 7))

/-- One element of a reduction: its value, whether it takes part, its index. -/
structure RedElem where
  val : BitVec 32
  incl : Bool
  idx : Nat
  deriving DecidableEq, Repr

/-- The result of a row reduction: the value word, the index or flag word, and whether it is flagged non-finite (R213,
R214). -/
structure RedResult where
  val : BitVec 32
  aux : BitVec 32
  empty : Bool
  flagged : Bool
  deriving DecidableEq, Repr

/-- The better of two (value, index) candidates under Table 02-9: a NaN first, then by `lt`, ties to the lower index. -/
def better (max : Bool) (a b : BitVec 32 × Nat) : Bool :=
  if isNan32 a.1 then true
  else if isNan32 b.1 then false
  else
    match (fv32 a.1).cmp (fv32 b.1) with
    | some .lt => !max
    | some .gt => max
    | _ => if a.1 = b.1 then true else if max then b.1.msb else a.1.msb

/-- The order of R212: `a` ranks before `b`; candidates come in ascending index. -/
def insertRank (max : Bool) (a : BitVec 32 × Nat) : List (BitVec 32 × Nat) → List (BitVec 32 × Nat)
  | [] => [a]
  | b :: t => if better max b a then b :: insertRank max a t else a :: b :: t

/-- The included elements ranked (R212). -/
def ranked (max : Bool) (xs : List RedElem) : List (BitVec 32 × Nat) :=
  ((xs.filter (·.incl)).map (fun x => (x.val, x.idx))).foldl (fun acc a => insertRank max a acc) []

/-- The canonical form of a reported maximum: a NaN is canonical (R57). -/
def canon (w : BitVec 32) : BitVec 32 := if isNan32 w then nan32 else w

/-- R210 to R212, Table 08-9: the reduction of one row by a code other than the top-k ones. -/
def reduceRow (code : Nat) (xs : List RedElem) : RedResult :=
  let inc := xs.filter (·.incl)
  let n := inc.length
  let empty := inc.isEmpty
  let count := (inc.filter (fun x => !(fv32 x.val).isZero)).length
  let sum := rowTree fAdd 0x80000000#32 (xs.map (fun x => if x.incl then x.val else 0x80000000#32))
  let prod := rowTree fMul one32 (xs.map (fun x => if x.incl then x.val else one32))
  if code = 0 then (if empty then ⟨0, 0, true, false⟩ else ⟨canon sum, 0, false, isNonfinite32 sum⟩)
  else if code = 1 then
    if empty then ⟨0, 1, true, false⟩
    else
      let m := match fv32 sum with
        | .fin s p e => if p = 0 then sum else let (x, y) := scale2 p e; BitVec.ofNat 32 (packRatio fmt32 s x (y * n))
        | _ => canon sum
      ⟨m, 0, false, isNonfinite32 m⟩
  else if code = 2 then (if empty then ⟨one32, 0, true, false⟩ else ⟨canon prod, 0, false, isNonfinite32 prod⟩)
  else if code = 3 then ⟨BitVec.ofNat 32 count, 0, empty, false⟩
  else if code = 4 then ⟨if 0 < count then 1 else 0, 0, empty, false⟩
  else if code = 5 then ⟨if count = n then 1 else 0, 0, empty, false⟩
  else
    let mx := code == 6
    match ranked mx xs with
    | [] => ⟨if mx then negInf32 else posInf32, 0xFFFFFFFF#32, true, false⟩
    | (v, i) :: _ => ⟨canon v, BitVec.ofNat 32 i, false, isNan32 v⟩

/-- R212: the k slots of a top-k reduction. -/
def topK (max : Bool) (k : Nat) (xs : List RedElem) : List (BitVec 32 × BitVec 32) :=
  let r := (ranked max xs).take k
  (r.map (fun p => (canon p.1, BitVec.ofNat 32 p.2))) ++
    List.replicate (k - r.length) (if max then negInf32 else posInf32, 0xFFFFFFFF#32)

/-- R213: a reduction value as the next stage's V6 or V7 receives it. -/
def redAsF32 (code : Nat) (r : RedResult) : BitVec 32 :=
  if code = 3 ∨ code = 4 ∨ code = 5 then fOfU32 r.val else r.val

/-- Whether popcount(i AND j) is odd. -/
def oddAnd : Nat → Nat → Nat → Bool
  | 0, _, _ => false
  | n + 1, i, j => (decide (i % 2 = 1) && decide (j % 2 = 1)) != oddAnd n (i / 2) (j / 2)

/-- R148: y_i over a segment of n = 2^(2p) exact values, with sign bits `d`. -/
def rotateAt (p : Nat) (d : List Bool) (xs : List Fv) (i : Nat) : Fv :=
  let s := (((List.range xs.length).zip (xs.zip d)).map (fun (j, x, dj) =>
    if oddAnd 8 i j != dj then x.neg else x)).foldl Fv.add (.fin true 0 0)
  s.mul (.fin false 1 (-(p : Int)))

/-- R152: x_j of the inverse rotation. -/
def unrotateAt (p : Nat) (d : List Bool) (ys : List Fv) (j : Nat) : Fv :=
  let s := (((List.range ys.length).zip ys).map (fun (i, y) => if oddAnd 8 i j then y.neg else y)).foldl Fv.add
    (.fin true 0 0)
  let r := s.mul (.fin false 1 (-(p : Int)))
  if d.getD j false then r.neg else r

/-- Segment length of a rotation's size code (R147), and p with n = 2^(2p). -/
def rotLen (size : Nat) : Nat := if size = 1 then 16 else if size = 2 then 64 else if size = 3 then 256 else 1
def rotP (size : Nat) : Nat := if size = 1 then 2 else if size = 2 then 3 else if size = 3 then 4 else 0

end Sys2Proof.Machine
end

