-- ==== Sys2Proof/Machine/State.lean ====
section
/-! DEFINITION. The state of the DRX-416: every register, table, queue, buffer and pin the spec gives it, as plain data,
the queue of waiting commands, and the state right after reset. -/

namespace Sys2Proof.Machine

/-- Reasons for a fault. No command of the spec ends one: every command has an effect, so there is none. -/
inductive Fault where
  deriving DecidableEq, Repr

/-- Reasons for a refusal. -/
inductive Refusal where
  /-- Raised by `exec` for a command whose meaning is not written; safe, since nothing is claimed of it. -/
  | notModelled (mnemonic : String)
  deriving DecidableEq, Repr

/-! ## Work: barges, tasks, contexts -/

/-- Where a barge stands in its interval. -/
inductive BargeState where
  | waiting
  | running (start : Nat)
  | done
  | removed
  deriving DecidableEq, Repr

/-- A barge of the composed manifest (R469): its descriptor as composed, the BARGE_INDEX and PLAN_POS of its own plan,
whether that plan is an evaluation plan or a bootstrap plan, and where it stands. -/
structure Barge where
  desc : BitVec 1024
  ownIndex : Nat
  planPos : Nat
  evalPlan : Bool
  bootstrap : Bool
  state : BargeState
  deriving DecidableEq, Repr

/-- Which of an image's plans runs. -/
inductive PlanKind where
  | normal | bootstrap
  | eval (n : Nat)
  deriving DecidableEq, Repr

/-- A plan under way: the manifest to stage next, and the lock index of the tick it is staged for. -/
structure Run where
  kind : PlanKind
  pos : Nat
  index : Nat
  deriving DecidableEq, Repr

/-- A LOAD in progress: TAG, address, length, and whether the image lies in HBM. -/
structure LoadReq where
  tag : Nat
  addr : Nat
  len : Nat
  hbm : Bool
  deriving DecidableEq, Repr

/-- A capture in progress (R410 to R412): slot, lock index by which it must be done, FTC at its start. -/
structure Capture where
  slot : Nat
  deadline : Nat
  ftc : Nat
  deriving DecidableEq, Repr

/-- An entry of the Scale History and Coarse Scale Tables (R69). -/
structure ScaleEntry where
  hist : List (Nat × BitVec 32) := []
  h : BitVec 32 := 0xFFFFFFFF#32
  c0 : BitVec 32 := 0x3F800000#32
  c1 : BitVec 32 := 0x3F800000#32
  amax : BitVec 32 := 0
  deriving DecidableEq, Repr

/-- A Channel Statistics entry (Table 07-1). -/
structure CStat where
  amax : BitVec 32 := 0
  lead : BitVec 32 := 0
  rows : BitVec 32 := 0
  step : BitVec 32 := 0
  deriving DecidableEq, Repr

/-- Quality counts (R161): blocks, zero, saturated and non-finite. -/
structure Quality where
  blocks : Nat := 0
  zero : Nat := 0
  sat : Nat := 0
  nonfinite : Nat := 0
  deriving DecidableEq, Repr

/-- One context (R464): its image and plans, its step, its votes, its quality counts by tensor index (R161), its widening (with
the requests of the last rebuild and whether a vote has carried them, and the request maps of the last boundary), the seed of
an aborted step to be run again, its snapshots, its queues. Registers that belong to it stand in the register file. -/
structure Ctx where
  image : Option Image := none
  plan : List Manifest := []
  load : Option LoadReq := none
  run : Option Run := none
  evalNext : List Nat := []
  pauseNext : Bool := false
  stepAborted : Bool := false
  evalNonfinite : Bool := false
  seed : BitVec 64 := 0
  verdict : BitVec 2048 := 0
  cverdict : BitVec 256 := 0
  voteSent : Bool := false
  verdictIn : Bool := false
  commitIn : Bool := false
  ownVote : BitVec 2048 := 0
  ownCommit : BitVec 256 := 0
  commitSent : Bool := false
  counts : List (Nat × Quality) := []
  flagged : List Nat := []
  levels : List (Nat × Nat) := []
  holds : List (Nat × Nat) := []
  overflowReq : List Nat := []
  overflowSent : Bool := false
  overflow : Nat := 0
  bootStep : Bool := false
  lastMap : BitVec 1024 := 0
  ownMap : BitVec 1024 := 0
  rerun : Option (BitVec 64) := none
  rebuilding : Bool := false
  boundary : Option Bool := none
  blocksHeld : Bool := false
  retiming : Bool := false
  listBank : Bool := false
  feedBank : Bool := false
  captureNext : Bool := false
  captureDue : Bool := false
  lastRisk : Nat := 0
  boundaryIndex : Nat := 0
  capture : Option Capture := none
  buddyOk : Bool := false
  exporting : Option Nat := none
  sealing : Option Nat := none
  verify : BitVec 512 := 0
  sq : List (BitVec 512) := []
  sqWaiting : List (BitVec 512) := []
  cqHeld : List (BitVec 256) := []
  cqDropping : Bool := false
  cqPhase : Bool := true
  unbound : List Nat := []
  epochDrops : Nat := 0
  earliest : Nat := 0
  started : Bool := false
  deriving DecidableEq, Repr

/-- The total of one output element of a tile or segment. -/
abbrev Totals := List Total

/-- A tile slot of an engine (R98, R135, R136): the task it holds, its retire counter, the expected count, and the running
totals and special states of its tile, in the order of `tileElems` (none listed: every total +0). The window of a group lies
in the group registers only until the group's promotion, or until a forced drain discards it: no command reads it there. How
far the counter has come in the middle of a task is timing, drawn where a command shows it (log 30). -/
structure TileSlot where
  task : Nat
  retired : Nat := 0
  expected : Nat := 0
  totals : Totals := []
  deriving DecidableEq, Repr

/-- R99: an operand storage tile, or its scale plane area, that a cluster buffer keeps for the barge: where it lies and its
bytes, those listed that differ from what an unlisted byte reads as. -/
structure CachedTile where
  base : Nat
  len : Nat
  cells : List (Nat × Byte)
  deriving DecidableEq, Repr

/-- The kernel store (R200, R201): the kernels as it was last laid out, in order, by context and kernel id with the counts of
their instructions and constants; and whether a layout waits for the array barge in flight. -/
structure KernelStore where
  laid : List (Nat × Nat × Nat × Nat) := []
  due : Bool := false
  deriving DecidableEq, Repr

/-- The engine array (R104 to R112): the array barge in flight, its cluster queues, the tasks held by tile slot, the tiles
whose split-K slots are reserved, the results of split-K segments kept (totals of a MATRIX barge, row states of an ATTENTION
barge), the tasks finished, the stage of a barge that has stages, the counts of a COUNTED or COMPRESS barge, the bucket
counts of each first-pass task of a COMPRESS barge, the row results of the stages of a reduction so far by row, the document
starts of an ATTENTION barge (R224), its inf and nan rows so far, and what each cluster buffer keeps (R99). -/
structure ArrayState where
  barge : Option Nat := none
  queues : List (Nat × List Nat) := []
  slots : List (Nat × TileSlot) := []
  reserved : List Nat := []
  segments : List (Nat × Totals) := []
  partials : List (Nat × List RowState) := []
  finished : List Nat := []
  splitWait : List Nat := []
  retiredBy : List (Nat × Nat) := []
  stage : Nat := 0
  counts : List Nat := []
  passCounts : List (Nat × List Nat) := []
  rows : List (Nat × List RedResult) := []
  docs : List Nat := []
  badRows : Nat := 0
  buffers : List (Nat × List CachedTile) := []
  deriving DecidableEq, Repr

/-- The lock tick and the interval (R12 to R38): the active manifest, the tick that opened it and the one before, the slots
that are open, the stretch applied and the one that the schedule of the next tick granted, the need of the last evaluation,
whether an overrun was declared or an abort received (`ended`), the stretch needs gathered, what the next tick waits for,
how far each COLLECTIVE barge in flight is (1 its own shard sent, 2 its outputs written), whether no schedule message announced
the tick that opened the interval (R37), and the lock index that a restart after a recovery gives the next tick (R394). -/
structure LockState where
  active : List Barge := []
  header : BitVec 512 := 0
  tick : Nat := 0
  prevTick : Nat := 0
  windowOpen : Bool := false
  schedArrived : Bool := false
  stretched : Nat := 0
  granted : Nat := 0
  lastNeed : Nat := 0
  aborted : Bool := false
  ended : Bool := false
  closed : Bool := false
  lastEnd : Option Nat := none
  needHeld : Nat := 0
  tickInDue : Option Nat := none
  fired : Bool := false
  resetHold : Bool := false
  collective : List (Nat × Nat) := []
  inFlight : List Barge := []
  unannounced : Bool := false
  indexNext : Option (BitVec 64) := none
  deriving DecidableEq, Repr

/-! ## Memory -/

/-- What is wrong with a stored sector (R289, R290, R292): what differs, symbol by symbol (0 to 255 data, 256 to 263 check),
from the codeword of the data that memory holds, and whether its check symbols carry the poison pattern. -/
structure Sector where
  errors : List (Nat × BitVec 16) := []
  poisoned : Bool := false
  deriving DecidableEq, Repr

/-- A BAR2 access to the channel under retraining, held until the phase ends (R295): a read of so many bytes, or a write. -/
inductive HeldAccess where
  | read (addr len : Nat)
  | write (addr : Nat) (bytes : List Byte)
  deriving DecidableEq, Repr

/-- The stacked memory beside its registers, which a reset of R8 clears: bytes and bad sectors, whether HBM has lost its
contents since they were written (R301; log 33), channels set for map-out, the runs of corrections confined to one lane,
which retraining phase is next and on which channel, the channel and phase (whether B) being retrained, the accesses held
meanwhile, the KIND and ALL_LANES of the margining sweep in progress, and the stacks shut down. -/
structure MemState where
  cells : List (Nat × Byte) := []
  lost : Nat := 0
  sectors : List (Nat × Sector) := []
  forMapOut : List Nat := []
  laneRuns : List (Nat × (Nat × Nat)) := []
  phaseB : Bool := false
  nextChannel : Nat := 0
  retraining : Option (Nat × Bool) := none
  held : List HeldAccess := []
  sweep : Option (Nat × Bool) := none
  shut : List Nat := []
  deriving DecidableEq, Repr

/-! ## Fabric -/

/-- A DATA flit that no ACK covers yet (R316): its SEQ, the flit, and how often it has been replayed. -/
structure Unacked where
  seq : Nat
  flit : BitVec 2048
  times : Nat := 0
  deriving DecidableEq, Repr

/-- One port (R311 to R325): its STATE (Table 12-18; the register shows it until a reset of R8), training, sequence numbers,
replay buffer, waiting flits by lane, credits by lane, packets being put together, the last TIME exchange, a partner that
waits for ACCEPT, an equalisation step and what the partner's last EQ flit said, the transcoded blocks of the FEC codeword
being filled, and of the codeword being received how many blocks are in and how many of its symbols are wrong (R312). -/
structure Port where
  phase : Nat := 0
  training : Bool := false
  helloSent : Bool := false
  txSeq : Nat := 0
  replay : List Unacked := []
  waiting : List (Nat × BitVec 2048) := []
  credits : List (Nat × Nat) := []
  owed : List (Nat × Nat) := []
  rxSeq : Nat := 0
  nakSent : Bool := false
  parts : List (Nat × List Byte) := []
  arb : Nat := 0
  timeSent : Option Nat := none
  timeIn : Nat := 0
  newPartner : Option (BitVec 32) := none
  equalising : Bool := false
  eqIn : BitVec 64 := 0
  txFill : List (BitVec 257) := []
  rxBlock : Nat := 0
  rxErrors : Nat := 0
  deriving DecidableEq, Repr

/-- A stream (R337): source, context, group, BARGE_INDEX, PLAN_POS, STEP and PHASE; its epoch is checked on arrival. -/
structure StreamKey where
  src : Nat
  ctx : Nat
  group : Nat
  barge : Nat
  planPos : Nat
  step : Nat
  phase : Nat
  deriving DecidableEq, Repr

/-- Packets of a stream by number, and whether they stand in the staging area. -/
structure Stream where
  key : StreamKey
  staged : Bool
  packets : List (Nat × List Byte)
  deriving DecidableEq, Repr

/-- A PUT sent and not yet acknowledged, with its number in the module's own count and its virtual lane. -/
structure Outgoing where
  id : Nat
  lane : Nat
  packet : Packet
  deriving DecidableEq, Repr

/-- An agreement in progress (R346): its group, whether it is for the minimum, and the values by rank. -/
structure Agreement where
  group : Nat
  minimum : Bool
  values : List (Nat × BitVec 64)
  deriving DecidableEq, Repr

/-- An ABORT seen (R333): sender, lock index, job group and epoch. -/
structure AbortId where
  src : Nat
  index : BitVec 64
  group : Nat
  epoch : Nat
  deriving DecidableEq, Repr

/-- The link dies beside their registers. -/
structure LinkState where
  ports : List (Nat × Port) := []
  members : List (Nat × BitVec 16) := []
  streams : List Stream := []
  outgoing : List Outgoing := []
  nextId : Nat := 0
  abortsSeen : List AbortId := []
  agreement : Option Agreement := none
  early : List (Nat × Nat × BitVec 64) := []
  noRoute : List Nat := []
  goodEstimates : Nat := 0
  worstOffset : Nat := 0
  eqPort : Option Nat := none
  eqNext : Nat := 0
  deriving DecidableEq, Repr

/-! ## Health -/

/-- The self-test record of one engine (R359, R360): slices passed in a row since its last full pass. -/
structure EngineTest where
  failed : Bool := false
  failSlice : Nat := 0
  nextSlice : Nat := 0
  pass : BitVec 64 := 0xFFFFFFFFFFFFFFFF#64
  run : Nat := 0
  deriving DecidableEq, Repr

/-- A record of the event recorder (R374), whether it was stored since the last module reset, and whether its SRAM word
has become unreadable (R379). -/
structure Rec where
  bits : BitVec 256
  fresh : Bool
  unreadable : Bool
  deriving DecidableEq, Repr

/-- An event as its source gives it: code, source field, payload. -/
structure Event where
  code : BitVec 16
  source : BitVec 16
  payload : BitVec 64
  deriving DecidableEq, Repr

/-- Counts of a "per 10 s" measure (R371): this second's, and those of the last nine seconds. -/
structure Window where
  now : Nat := 0
  past : List Nat := []
  deriving DecidableEq, Repr

/-- Health beside its registers: engine tests, the engines withheld and visited this interval, the Watchtower's windows,
how much longer each input holds each level (input × 4 + level) and how long level 3 has held, in ms, the engines marked
offline since module reset, the counts since device recovery, the recorder, the words of on-chip memory that hold an error
(R356), and the Basin words, by device address, that the end of the drain clears (R357). -/
structure HealthState where
  tests : List (Nat × EngineTest) := []
  withheld : List Nat := []
  stopped : List Nat := []
  slicesRun : List (Nat × Nat) := []
  windows : List (Nat × Window) := []
  holds : List (Nat × Nat) := []
  level3Ms : Nat := 0
  marked : Nat := 0
  uncorrReads : Nat := 0
  uncorrWords : Nat := 0
  records : List Rec := []
  sram : List SramWord := []
  lostWords : List Nat := []
  deriving DecidableEq, Repr

/-! ## Lockkeeper -/

/-- A reset in progress (R392, R393): whether it is a device recovery, whether a hang outside a replay ordered it (R386),
and whether its drain has ended. -/
structure ResetRun where
  recovery : Bool
  afterHang : Bool
  drained : Bool
  deriving DecidableEq, Repr

/-- A flash command in progress (R441): the command, the code its checks gave, and the values it was given. -/
structure FlashRun where
  cmd : Nat
  code : Nat
  offset : Nat
  bytes : List Byte
  nonce : BitVec 64
  deriving DecidableEq, Repr

/-- A snapshot command in progress (R426). -/
structure SnapRun where
  cmd : Nat
  ctx : CtxId
  deriving DecidableEq, Repr

/-- The watchdog (R384, R385): what the last sample read, how long each condition of Table 15-1 has held plus 1, in ms, the
lock index of the last sample at which none held, and the contexts with a barge in a manifest since then. -/
structure Watchdog where
  lastIndex : Option (BitVec 64) := none
  lastProgress : Option (BitVec 32) := none
  held : List (Nat × Nat) := []
  okIndex : BitVec 64 := 0
  seen : List Nat := []
  deriving DecidableEq, Repr

/-- The Lockkeeper beside its registers: the low-power state (R446), the reset and teardowns in progress, the watchdog, the
boot, MSI-X causes waiting, the commands in progress, and the flash: its bytes, the partitions erased since the module left the factory,
by their place in Table 17-1 (an unowned module leaves it with the log, the site copies, the owner record and the reserved
area erased, R428, R433), and what a boot read from it. -/
structure LkState where
  lowPower : Nat := 0
  reset : Option ResetRun := none
  replayNext : Option Nat := none
  sinceRecoveryMs : Option Nat := none
  sinceComputeMs : Option Nat := none
  watchdog : Watchdog := {}
  heartbeatStopped : Bool := false
  replayQuarantined : Bool := false
  suspects : Nat := 0
  quarantineFull : Bool := false
  flash : List (Nat × Byte) := []
  flashErased : List Nat := [1, 2, 3, 4, 5]
  flashRun : Option FlashRun := none
  snapRun : Option SnapRun := none
  scaleRead : Option Nat := none
  cstatRead : Option Nat := none
  recorderRead : Option Nat := none
  codebookLoad : Option Nat := none
  msixPending : List Nat := []
  fwRunning : Option Bool := none
  repairLog : List (Nat × Nat × Nat) := []
  measurements : List (Nat × List Byte) := []
  deriving DecidableEq, Repr

/-! ## Module -/

/-- Where the module's power stands (R477, R448, R476). -/
inductive Power where
  | none      -- no 48 V feed
  | standby   -- 48 V present, Lockkeeper unpowered
  | on
  | off       -- the low-power state Off
  | tripped
  deriving DecidableEq, Repr

/-- The module beside its registers (R474 to R487): power, the level of PERST_N, the power step and the samples since its
last change down, at or above 90 % of the limit and below full, the thermal step of each die, the alarms raised, the I3C
target, the TICK_OUT level, and the events held while the Lockkeeper is unpowered with the count of those beyond 64. -/
structure ModuleState where
  power : Power := .standby
  perstN : Bool := false
  powerStep : Nat := 0
  sinceDown : Nat := 10
  calm : Nat := 0
  belowFull : Nat := 0
  thermalSteps : List (Nat × Nat) := []
  raised : List Alarm := []
  dynamicAddress : Option (BitVec 7) := none
  ibiEnabled : Bool := true
  tickOut : Bool := false
  held : List Event := []
  heldLost : Nat := 0
  deriving DecidableEq, Repr

/-! ## What the device emits -/

/-- R444, R445: a reply through the DOE mailbox, as what it reports; the spec gives its bytes no layout (log 46). -/
inductive DoeReply where
  | protocols
  | version
  | capabilities
  | algorithms
  | digests (digest : List Byte)
  | certificate (bytes : List Byte) (remaining : Nat)
  | challengeAuth (digest signature : List Byte)
  | measurementCount (n : Nat)
  | measurements (blocks : List (Nat × List Byte)) (signature : Option (List Byte))
  | unspecified
  | unsupportedRequest
  deriving DecidableEq, Repr

/-- What leaves the device: writes and messages to the server, replies, flits and packets, pins. -/
inductive Output where
  | dmaWrite (addr : Nat) (bytes : List Byte)
  | dmaRead (addr : Nat) (len : Nat)
  | msix (vector : Nat)
  | busReply (w : BitVec 32)
  | bar2Reply (bytes : List Byte) (poisoned : Bool)
  | completerAbort
  | flit (port : Nat) (f : BitVec 2048)
  | tickOut
  | i3cReply (w : BitVec 32)
  | i3cInterrupt (b : Byte)
  | doeReply (r : DoeReply)
  | snapshotSend (module_ : Nat) (bytes : List Byte)
  | snapshotAck (slot : Nat)
  deriving DecidableEq, Repr

/-- The state of the block. -/
structure State where
  /-- Commands waiting, first in, first out. -/
  pending : List Instr := []
  /-- The model's own: how many free values have been drawn (log 3). -/
  free : Nat := 0
  /-- Every 32-bit word of the register space by BAR0 offset (R2 to R8). -/
  regs : List (Nat × BitVec 32) := []
  /-- R5: high halves latched by a low-half read, by offset of the low half. -/
  latches : List (Nat × BitVec 32) := []
  /-- R5: low halves held by a low-half write, by offset of the low half. -/
  heldLows : List (Nat × BitVec 32) := []
  lock : LockState := {}
  ctxs : List (Nat × Ctx) := []
  array : ArrayState := {}
  kernels : KernelStore := {}
  /-- Vector lanes in use, by engine × 64 + lane (R192). -/
  lanes : List (Nat × Lane) := []
  /-- Scale History and Coarse Scale Tables by coarse index (R69). -/
  scales : List (Nat × ScaleEntry) := []
  /-- Channel Statistics Table, by bank × 2²¹ + entry (R169). -/
  cstat : List (Nat × CStat) := []
  /-- Window lists, by bank × 2³⁰ + table × 2¹⁸ + window, as the channel offsets listed (R173). -/
  windows : List (Nat × List Nat) := []
  mem : MemState := {}
  link : LinkState := {}
  health : HealthState := {}
  lk : LkState := {}
  module : ModuleState := {}
  /-- What has left the device, newest first. -/
  out : List Output := []
  deriving DecidableEq, Repr

/-- The state right after reset: every register at its Reset column, memory with nothing listed, nothing resident. -/
def State.reset : State := {}

end Sys2Proof.Machine
end

