-- ==== Sys2Proof/Machine/Ops.lean ====
section
/-! DEFINITION. The named operations on State that every meaning uses: registers and fields, memory bytes, contexts,
free values, the event recorder (R374 to R377), MSI-X causes (R461) and completion records (R467). -/

namespace Sys2Proof.Machine

/-- What a meaning answers. -/
abbrev Result := Host.Outcome State Fault Refusal

/-! ## Registers -/

/-- The word at BAR0 offset `a`. -/
def State.reg (s : State) (a : Nat) : BitVec 32 := tblGet regDefault s.regs a

/-- The register file with the word at `a` replaced. -/
def State.setReg (s : State) (a : Nat) (w : BitVec 32) : State := { s with regs := tblSet regDefault s.regs a w }

/-- A 64-bit register by the offset of its low half. -/
def State.reg64 (s : State) (a : Nat) : BitVec 64 := s.reg (a + 4) ++ s.reg a

/-- Both halves of a 64-bit register written. -/
def State.setReg64 (s : State) (a : Nat) (v : BitVec 64) : State :=
  (s.setReg a (v.extractLsb' 0 32)).setReg (a + 4) (v.extractLsb' 32 32)

/-- A field's value. -/
def State.get (s : State) (f : Fld) : Nat := bitsAt (s.reg f.addr).toNat f.lo (f.hi + 1 - f.lo)

/-- Whether a one-bit field is 1. -/
def State.flag (s : State) (f : Fld) : Bool := s.get f == 1

/-- `w` with bits hi:lo replaced by the low bits of `v`. -/
def putBits (w : BitVec 32) (hi lo v : Nat) : BitVec 32 :=
  (w &&& ~~~(BitVec.ofNat 32 (fieldMask hi lo))) ||| BitVec.ofNat 32 (v % 2 ^ (hi + 1 - lo) * 2 ^ lo)

/-- A field written, the rest of its register kept. -/
def State.put (s : State) (f : Fld) (v : Nat) : State := s.setReg f.addr (putBits (s.reg f.addr) f.hi f.lo v)

/-- A one-bit field set to 1, or to 0. -/
def State.on (s : State) (f : Fld) : State := s.put f 1
def State.off (s : State) (f : Fld) : State := s.put f 0

/-- A field's value in a word that is being written to its register. -/
def Fld.of (f : Fld) (w : BitVec 32) : Nat := bitsAt w.toNat f.lo (f.hi + 1 - f.lo)

/-- A saturating counter register moved on by `n`. -/
def State.count (s : State) (a n : Nat) : State := s.setReg a (BitVec.ofNat 32 (min (2 ^ 32 - 1) ((s.reg a).toNat + n)))

/-- A wrapping counter register moved on by 1. -/
def State.tick (s : State) (a : Nat) : State := s.setReg a (s.reg a + 1)

/-- A saturating counter field moved on by 1. -/
def State.countField (s : State) (f : Fld) : State := s.put f (min (2 ^ (f.hi + 1 - f.lo) - 1) (s.get f + 1))

/-- Table 00-3: a host write of `w` to the register at `a`, by access code alone. -/
def State.hostWrite (s : State) (a : Nat) (w : BitVec 32) : State := s.setReg a (regAfterWrite a (s.reg a) w)

/-- Bit 31 of a command register's word, GO. -/
def goBit (w : BitVec 32) : Bool := w.getLsbD 31

/-! ## Free values -/

/-- A value that nothing constrains, and the state that has drawn it (log 3). -/
def State.draw (s : State) : BitVec 64 × State := (Config.freeValue s.free, { s with free := s.free + 1 })

/-! ## Measures of the Watchtower -/

def measureDefault (_ : Nat) : Window := {}

/-- R371: `n` more of the "per 10 s" measure of input `i`. -/
def State.measure (s : State) (i n : Nat) : State :=
  { s with health := { s.health with
    windows := tblUpd measureDefault s.health.windows i (fun w => { w with now := w.now + n }) } }

/-! ## Memory -/

/-- A byte that nothing has written reads 0: the boot writes every sector of program memory as zeros (R436). After HBM has
lost its contents (R301) an HBM byte that nothing has written since reads as a free value (log 33). -/
def memDefault (lost a : Nat) : Byte := if lost = 0 ∨ 0xFE0000000000 ≤ a then 0 else Config.lostByte lost a

/-- The byte at device address `a`. -/
def State.byte (s : State) (a : Nat) : Byte := tblGet (memDefault s.mem.lost) s.mem.cells a

/-- Memory with the byte at `a` replaced. -/
def State.setByte (s : State) (a : Nat) (b : Byte) : State :=
  { s with mem := { s.mem with cells := tblSet (memDefault s.mem.lost) s.mem.cells a b } }

/-- Bytes written one after another in list order. -/
def State.store (s : State) (ws : List (Nat × Byte)) : State := ws.foldl (fun s w => s.setByte w.1 w.2) s

/-- The `n` bytes from `a`. -/
def State.bytes (s : State) (a n : Nat) : List Byte := (List.range n).map (fun i => s.byte (a + i))

/-- The little-endian number of the `n` bytes from `a`. -/
def State.num (s : State) (a n : Nat) : Nat := ofLe (s.bytes a n)

/-- Bytes and their consecutive addresses from `a`. -/
def placed (a : Nat) (bs : List Byte) : List (Nat × Byte) := (List.range bs.length).zip bs |>.map (fun (i, b) => (a + i, b))

/-! ## Contexts -/

/-- A context that nothing has touched. -/
def ctxDefault (_ : Nat) : Ctx := {}

def State.ctx (s : State) (c : Nat) : Ctx := tblGet ctxDefault s.ctxs c
def State.setCtx (s : State) (c : Nat) (x : Ctx) : State := { s with ctxs := tblSet ctxDefault s.ctxs c x }
def State.updCtx (s : State) (c : Nat) (f : Ctx → Ctx) : State := s.setCtx c (f (s.ctx c))

/-- Table 18-5. -/
def ctxEmpty : Nat := 0
def ctxLoading : Nat := 1
def ctxLoaded : Nat := 2
def ctxRunning : Nat := 3
def ctxStopped : Nat := 4
def ctxTeardown : Nat := 5

def State.ctxState (s : State) (c : Nat) : Nat := s.get (F.LK_CTX_STATE_STATE c)
def State.setCtxState (s : State) (c v : Nat) : State := s.put (F.LK_CTX_STATE_STATE c) v

/-- The contexts in a state for which `p` holds. -/
def State.ctxsWhere (s : State) (p : Nat → Bool) : List Nat := (List.range 8).filter (fun c => p (s.ctxState c))

/-- The resident contexts: those whose image is accepted. -/
def State.resident (s : State) : List Nat := (List.range 8).filter (fun c => (s.ctx c).image.isSome)

/-- Work done for each context of a list, in order. -/
def State.forEach (s : State) (cs : List Nat) (f : Nat → State → State) : State := cs.foldl (fun s c => f c s) s

/-! ## Time -/

/-- LOCK_FTC in ns, and LOCK_INDEX. -/
def State.ftc (s : State) : Nat := (s.reg64 R.LOCK_FTC).toNat
def State.index (s : State) : Nat := (s.reg64 R.LOCK_INDEX).toNat

/-- The FTC moved forward to `now`; it never goes back. -/
def State.at_ (s : State) (now : Nat) : State :=
  if s.ftc < now then s.setReg64 R.LOCK_FTC (BitVec.ofNat 64 now) else s

/-- One nanosecond passes (log 4). -/
def State.passTime (s : State) : State := s.setReg64 R.LOCK_FTC (s.reg64 R.LOCK_FTC + 1)

/-- LOCK_PERIOD.PERIOD_US in ns. -/
def State.period (s : State) : Nat := 1000 * s.get F.LOCK_PERIOD_PERIOD_US

/-- Clk periods (of 10/11 ns) in `ns`. -/
def clkOf (ns : Nat) : Nat := 11 * ns / 10

/-- The work window's length in clk for a stretch of `st` µs (R15). -/
def State.windowClk (s : State) (st : Nat) : Nat :=
  1100 * (s.get F.LOCK_PERIOD_PERIOD_US + st - s.get F.LOCK_SLOTS_MAINT_US - 1)

/-! ## Events -/

/-- Fields packed from bit 0 upward: (width in bits, value). -/
def packFields : List (Nat × Nat) → Nat
  | [] => 0
  | (w, v) :: t => v % 2 ^ w + 2 ^ w * packFields t

/-- A source field (Table 14-5). -/
def source (kind inst : Nat) : BitVec 16 := BitVec.ofNat 16 (kind * 4096 + inst % 4096)

/-- A record of R374 with its CRC. -/
def recBitsOf (ftc : BitVec 64) (index : BitVec 32) (e : Event) (repeats seq : BitVec 16) : BitVec 256 :=
  let body : BitVec 224 := e.payload ++ seq ++ repeats ++ e.source ++ e.code ++ index ++ ftc
  crc32c (leBytes 28 body.toNat) ++ body

def Rec.ftc (r : Rec) : Nat := (r.bits.extractLsb' 0 64).toNat
def Rec.index (r : Rec) : BitVec 32 := r.bits.extractLsb' 64 32
def Rec.event (r : Rec) : Event :=
  ⟨r.bits.extractLsb' 96 16, r.bits.extractLsb' 112 16, r.bits.extractLsb' 160 64⟩
def Rec.repeats (r : Rec) : BitVec 16 := r.bits.extractLsb' 128 16

/-- R375: whether an event at time `now` repeats record `r`, the newest with its code and source. -/
def Rec.takes (r : Rec) (e : Event) (now : Nat) : Bool :=
  r.fresh && r.event.payload == e.payload && decide (r.ftc ≤ now) && decide (now ≤ r.ftc + 1000000000) &&
    decide (r.repeats.toNat < 0xFFFF)

/-- R375: the newest record of `e`'s code and source takes a repeat, if it may; none when it may not. -/
def repeatRec (e : Event) (now : Nat) (seq : BitVec 16) : List Rec → Option (List Rec)
  | [] => none
  | r :: rs =>
    if r.event.code = e.code ∧ r.event.source = e.source then
      if r.takes e now then
        some ({ r with bits := recBitsOf (r.bits.extractLsb' 0 64) r.index r.event (r.repeats + 1) seq } :: rs)
      else none
    else (repeatRec e now seq rs).map (r :: ·)

/-- R374: the lock index a record carries. -/
def State.recIndex (s : State) : BitVec 32 :=
  if s.flag F.LOCK_STATUS_TICKING then s.reg R.LOCK_INDEX else 0xFFFFFFFF#32

/-- A record stored in the next free position (R374, R376). Records stand newest first. -/
def State.storeRec (s : State) (e : Event) : State :=
  let s := (s.tick R.RECORDER_UPDATES).countField F.RECORDER_COUNT_COUNT
  let b := recBitsOf (s.reg64 R.LOCK_FTC) s.recIndex e 0 ((s.reg R.RECORDER_UPDATES).extractLsb' 0 16)
  { s with health := { s.health with records := ⟨b, true, false⟩ :: s.health.records } }

/-- R461: a cause of vector `v` arises. -/
def State.raise (s : State) (v : Nat) : State :=
  if s.flag (F.MSIX_CTL_MASK v) then s.setReg64 R.MSIX_PBA (s.reg64 R.MSIX_PBA ||| BitVec.twoPow 64 v)
  else if s.lk.msixPending.contains v then s
  else { s with lk := { s.lk with msixPending := s.lk.msixPending ++ [v] } }

/-- R375 to R377: an event reaches the recorder. -/
def State.recordEvent (s : State) (e : Event) : State :=
  let seq := (s.reg R.RECORDER_UPDATES + 1).extractLsb' 0 16
  match repeatRec e s.ftc seq s.health.records with
  | some rs => { s.tick R.RECORDER_UPDATES with health := { s.health with records := rs } }
  | none =>
    if s.flag F.RECORDER_STATUS_FULL then
      let s := if s.reg R.RECORDER_LOST = 0 then s.setReg64 R.RECORDER_FIRST_LOST (s.reg64 R.LOCK_FTC) else s
      s.count R.RECORDER_LOST 1
    else
      let s := s.storeRec e
      if s.get F.RECORDER_COUNT_COUNT = 16383 then
        let full : Event := ⟨0x0510#16, 0, ((s.reg R.RECORDER_UPDATES + 1).setWidth 64)⟩
        ((s.storeRec full).on F.RECORDER_STATUS_FULL).raise 4
      else s

/-- Whether the Lockkeeper die is powered (R476, R477). -/
def State.lkPowered (s : State) : Bool := s.module.power == .on || s.module.power == .tripped

/-- BAR0 is served: the Lockkeeper is powered and its boot has trained the endpoint (Table 17-4, step 2). -/
def State.lkServes (s : State) : Bool := s.lkPowered && s.get F.BOOT_STATUS_STATE != 0

/-- BAR0 serves every block: the device is in service and in no device recovery (R395), and its dies are powered (R437,
R447, R476). Otherwise blocks other than GLOBAL, LK, HEALTH, RECORDER, BOOT and MODULE read as reserved. -/
def State.diesServe (s : State) : Bool :=
  s.lkServes && s.module.power == .on && s.get F.BOOT_STATUS_STATE == 3 && !(s.lk.reset.any (fun (r : ResetRun) => r.recovery))

/-- A host access to a block that is served only with every block; otherwise it has no effect (R3). -/
def State.onDies (s : State) (f : State → State) : State := if s.diesServe then f s else s

/-- A host access to a block that the Lockkeeper serves alone. -/
def State.onLk (s : State) (f : State → State) : State := if s.lkServes then f s else s

/-- An event with its payload fields: stored, or held by the management controller while the Lockkeeper is unpowered
(R487). -/
def State.event (s : State) (code : BitVec 16) (src : BitVec 16) (fields : List (Nat × Nat)) : State :=
  let e : Event := ⟨code, src, BitVec.ofNat 64 (packFields fields)⟩
  if s.lkPowered then s.recordEvent e
  else if s.module.held.length < 64 then { s with module := { s.module with held := s.module.held ++ [e] } }
  else { s with module := { s.module with heldLost := s.module.heldLost + 1 } }

/-- Sources of Table 14-5 used often. -/
def srcPackage : BitVec 16 := 0
def srcCtx (c : Nat) : BitVec 16 := source 0xA c

/-- Something leaves the device. -/
def State.emit (s : State) (o : Output) : State := { s with out := o :: s.out }

/-! ## Completion records -/

/-- The CQ of context `c` is full (R467); a CQ of size 0 takes nothing. -/
def State.cqFull (s : State) (c : Nat) : Bool :=
  let size := s.get (F.LK_CQ_SIZE_ENTRIES c)
  size == 0 || (s.get (F.LK_CQ_TAIL_TAIL c) + 1) % size == s.get (F.LK_CQ_HEAD_HEAD c)

/-- R467: a record (without LOCK and PHASE) written at the tail, which advances; vector 8 + c is raised. -/
def State.cqWrite (s : State) (c : Nat) (r : BitVec 256) : State :=
  let tail := s.get (F.LK_CQ_TAIL_TAIL c)
  let size := s.get (F.LK_CQ_SIZE_ENTRIES c)
  let phase := (s.ctx c).cqPhase
  let v := r.toNat + s.index * 2 ^ 128 + (if phase then 2 ^ 248 else 0)
  let s := s.emit (.dmaWrite ((s.reg64 (R.LK_CQ_BASE c)).toNat + 32 * tail) (leBytes 32 v))
  let s := s.put (F.LK_CQ_TAIL_TAIL c) ((tail + 1) % size)
  let s := if tail + 1 = size then s.updCtx c (fun x => { x with cqPhase := !phase }) else s
  s.raise (8 + c)

/-- R467: a completion record posted: written, held behind a full CQ, or dropped. -/
def State.complete (s : State) (c tag kind status detail : Nat) : State :=
  let r : BitVec 256 := BitVec.ofNat 256
    (packFields [(16, tag), (8, kind), (8, status), (32, detail), (64, (s.reg64 (R.TRAIN_STEP c)).toNat)])
  let x := s.ctx c
  if !s.cqFull c && x.cqHeld.isEmpty then s.cqWrite c r
  else if x.cqHeld.length < 256 then s.setCtx c { x with cqHeld := x.cqHeld ++ [r] }
  else
    let s := s.count (R.LK_CQ_LOST c) 1
    if x.cqDropping then s
    else (s.setCtx c { x with cqDropping := true }).event 0x0632#16 (srcCtx c)
      [(8, c), (8, 1), (32, (s.reg (R.LK_CQ_LOST c)).toNat)]

/-- Held records written while there is room. -/
def State.cqFlush (s : State) (c : Nat) : Nat → State
  | 0 => s
  | n + 1 =>
    match (s.ctx c).cqHeld with
    | [] => s
    | r :: rs =>
      if s.cqFull c then s
      else ((s.updCtx c (fun x => { x with cqHeld := rs, cqDropping := false })).cqWrite c r).cqFlush c n

/-! ## Barges of the active manifest -/

/-- The barge at position `i` of the composed manifest. -/
def State.barge (s : State) (i : Nat) : Option Barge := s.lock.active[i]?

/-- The active manifest with barge `i` changed by `f`. -/
def State.updBarge (s : State) (i : Nat) (f : Barge → Barge) : State :=
  { s with lock := { s.lock with active := s.lock.active.modify i f } }

def Barge.cls (b : Barge) : Nat := bClass b.desc
def Barge.op (b : Barge) : Nat := bOp b.desc
def Barge.ctx (b : Barge) : Nat := bContext b.desc

/-- Table 01-4: the queue of a class: 0 array, 1 mover, 2 fabric, 3 optimiser, 4 control. -/
def queueOf (cls : Nat) : Nat :=
  if cls = 4 ∨ cls = 6 then 1 else if cls = 5 ∨ cls = 8 then 2 else if cls = 7 then 3
  else if cls = 9 ∨ cls = 0xA then 4 else 0

/-- Table 01-4: barges of a queue in flight at once. -/
def queueLimit (q : Nat) : Nat := if q = 1 then 16 else if q = 2 then 8 else 1

def Barge.queue (b : Barge) : Nat := queueOf b.cls

def Barge.isRunning (b : Barge) : Bool :=
  match b.state with | .running _ => true | _ => false

/-- Complete, or taken as complete because a teardown removed it (R397). -/
def Barge.over (b : Barge) : Bool := b.state == .done || b.state == .removed

/-- Not complete and not removed. -/
def Barge.open_ (b : Barge) : Bool := !b.over

/-- A barge named by an AFTER field has completed. -/
def afterDone (act : List Barge) : Option Nat → Bool
  | none => true
  | some j => match act[j]? with
    | some b => b.over
    | none => true

/-- R25: whether barge `i` may start, by the active manifest alone. -/
def mayStart (act : List Barge) (i : Nat) : Bool :=
  match act[i]? with
  | none => false
  | some b =>
    b.state == .waiting &&
    (act.take i).all (fun e => e.queue != b.queue || e.state != .waiting) &&
    decide ((act.filter (fun e => e.queue == b.queue && e.isRunning)).length < queueLimit b.queue) &&
    afterDone act (bAfterA b.desc) && afterDone act (bAfterB b.desc) &&
    (!bFence b.desc || (act.take i).all (fun e => e.ctx != b.ctx || e.over))

end Sys2Proof.Machine
end

