-- ==== Sys2Proof/Machine/Engines.lean ====
section
/-! DEFINITION. Engines as the array and the self-test see them (R95, R17, R103, R114): numbering, the disabled and offline
maps, the engine withheld on each die, and the set available in an interval. -/

namespace Sys2Proof.Machine

/-- Die, in-die number, in-die cluster, place in the cluster, and global cluster of a global engine number. -/
def dieOf (e : Nat) : Nat := e / 340
def inDie (e : Nat) : Nat := e % 340
def clusterOf (e : Nat) : Nat := dieOf e * 20 + inDie e / 17

/-- The engines of a global cluster, and of a die. -/
def clusterEngines (g : Nat) : List Nat := (List.range 17).map (fun i => g / 20 * 340 + g % 20 * 17 + i)
def dieEngines (d : Nat) : List Nat := (List.range 340).map (fun i => 340 * d + i)

def State.isEnabled (s : State) (e : Nat) : Bool :=
  !(s.get (F.COMPUTE_DISABLED_MAP (dieOf e) (inDie e / 17))).testBit (e % 340 % 17)
def State.isOffline (s : State) (e : Nat) : Bool :=
  (s.get (F.COMPUTE_OFFLINE_MAP (dieOf e) (inDie e / 17))).testBit (e % 340 % 17)

/-- R103: whether an engine is available in the current interval: the set changes only at a tick. -/
def State.isAvailable (s : State) (e : Nat) : Bool :=
  s.isEnabled e && !s.health.stopped.contains e && !s.health.withheld.contains e

/-- R17: the engine that die `d` withholds at lock index `n`, if it is enabled. -/
def State.withheldOf (s : State) (n d : Nat) : Option Nat :=
  let e := 340 * d + n % 340
  if s.flag F.LOCK_CTL_TEST_EN && s.isEnabled e then some e else none

def retiredDefault (_ : Nat) : Nat := 0

/-- COMPUTE_ENG_STATUS of the engine selected on die `d`: state, tile slots in use and tasks. The tasks of a VECTOR barge
take no tile slot (R193). -/
def State.showEngine (s : State) (d : Nat) : State :=
  let e := 340 * d + s.get (F.COMPUTE_ENG_SEL_ENGINE d)
  let used := (s.array.slots.filter (fun t => t.1 / 2 == e)).length
  let st := if !s.isEnabled e then 3 else if s.isOffline e then 4 else if s.health.withheld.contains e then 2
    else if s.array.splitWait.contains e then 5 else if 0 < used then 1 else 0
  ((s.put (F.COMPUTE_ENG_STATUS_STATE d) st).put (F.COMPUTE_ENG_STATUS_SLOTS d) (if s.flag F.VECTOR_STATUS_BUSY then 0 else used)).put (F.COMPUTE_ENG_STATUS_TASKS d)
    (min (2 ^ 24 - 1) (tblGet retiredDefault s.array.retiredBy e))

/-- R114: an enabled engine marked offline. -/
def State.markOffline (s : State) (e : Nat) : State :=
  let f := F.COMPUTE_OFFLINE_MAP (dieOf e) (inDie e / 17)
  if s.isOffline e then s
  else ({ s.put f (s.get f + 2 ^ (e % 340 % 17)) with health := { s.health with marked := s.health.marked + 1 } } : State).showEngine
    (dieOf e)

/-- R17, R103, R114: what a tick does on die `d`. -/
def State.tickDie (s : State) (n d : Nat) : State :=
  let w := s.withheldOf n d
  let s := { s with health := { s.health with
    withheld := s.health.withheld ++ w.toList
    stopped := s.health.stopped ++ (dieEngines d).filter s.isOffline } }
  let avail := ((dieEngines d).filter s.isAvailable).length
  let s := (s.put (F.COMPUTE_WITHHELD_VALID d) w.isSome.toNat).put (F.COMPUTE_WITHHELD_ENGINE d) ((w.map inDie).getD 0)
  let s := s.put (F.COMPUTE_DIE_STATUS_AVAILABLE d) avail
  let s := if avail < 319 then s.on (F.COMPUTE_DIE_STATUS_BELOW_GUARANTEE d) else s
  s.showEngine d

/-- R15: what a tick does to the engines. The interval of in-die engine 339 completes a sweep (Table 14-9; log 31). -/
def State.tickEngines (s : State) (n : Nat) : State :=
  let s := { s with health := { s.health with withheld := [], stopped := [], slicesRun := [] } }
  (List.range 4).foldl (fun s d =>
    let s := s.tickDie n d
    if s.flag F.LOCK_CTL_TEST_EN ∧ n % 340 = 339 then s.countField (F.HEALTH_BIST_DIE_SWEEPS d) else s) s

end Sys2Proof.Machine
end

