-- ==== Sys2Proof/Machine/Flags.lean ====
section
/-! DEFINITION. The training flags of a context (Table 10-2) that arithmetic raises. Lock events, interrupt causes and the
other latched flags are written where their own rules stand. -/

namespace Sys2Proof.Machine

/-- R60, R260, R279: a non-finite value of context `c`. In an evaluation step it counts once per step; after the vote is
sent it belongs to the update, before it to the step. -/
def State.nonfinite (s : State) (c : Nat) (eval : Bool) : State :=
  if eval then
    if (s.ctx c).evalNonfinite then s
    else (s.updCtx c (fun x => { x with evalNonfinite := true })).count R.TRAIN_EVAL_NONFINITE 1
  else if (s.ctx c).voteSent then s.on (F.TRAIN_CTX_STATUS_UPD_NONFINITE c)
  else s.on (F.TRAIN_CTX_STATUS_NONFINITE c)

end Sys2Proof.Machine
end

