-- ==== Sys2Proof/Machine/Memory.lean ====
section
/-! DEFINITION. The stacked memory as every reader and writer meets it: the address map (R284 to R286), the decoding of
each sector read (R290), lane marks (R291), poison (R292), and partial writes (R287). -/

namespace Sys2Proof.Machine

/-! ## The address map -/

/-- Whether global channel `c` is mapped out (MEM_MAP_s). -/
def State.mappedOut (s : State) (c : Nat) : Bool := (s.get (F.MEM_MAP_OUT (c / 32))).testBit (c % 32)

/-- R286: the channel list: enabled channels in ascending key (c mod 32) × 12 + c div 32. -/
def State.channels (s : State) : List Nat :=
  ((List.range 384).map (fun k => k % 12 * 32 + k / 12)).filter (fun c => !s.mappedOut c)

/-- Where an address lies (R285). -/
structure Place where
  channel : Nat
  pc : Nat
  sector : Nat
  byte : Nat
  deriving DecidableEq, Repr

/-- R285: `locate`, over a channel list. -/
def locate (l : List Nat) (a : Nat) : Place :=
  let e := l.length
  let u := a / 2048 / e
  let v := a / 2048 % e
  let b := (u ^^^ (u / 8192)) % 8192
  let o := (v + b * 89 % e) % e
  let q := a % 2048 / 512
  ⟨l.getD o 0, q % 2, 2 * u + q / 2, a % 512⟩

/-- E × 4 GB, the end of HBM (R284), and CAP, the end of program memory. -/
def State.hbmEnd (s : State) : Nat := s.get F.MEM_STATUS_ENABLED * 4000000000
def State.cap (s : State) : Nat := (s.reg64 R.MEM_CAP).toNat

/-- R11: the bytes from `a` to `a + n − 1` lie in program memory, or in the program region of the Basin window. -/
def basinProgram : Nat := 0xFE0010000000
def State.inHbm (s : State) (a n : Nat) : Bool := decide (a + n ≤ s.cap)
def inBasin (a n : Nat) : Bool := decide (basinProgram ≤ a) && decide (a + n ≤ basinProgram + 0x10000000)
def State.inProgram (s : State) (a n : Nat) : Bool := s.inHbm a n || inBasin a n

/-! ## The symbol code (R289) -/

/-- Multiplication by α in GF(2¹⁶), the field of x¹⁶ + x¹² + x³ + x + 1. -/
def gfDouble (a : BitVec 16) : BitVec 16 := (a <<< 1) ^^^ (if a.msb then 0x100B#16 else 0)

/-- The product of two elements. -/
def gfMul (a b : BitVec 16) : BitVec 16 :=
  (List.range 16).foldl (fun r i => if b.getMsbD i then gfDouble r ^^^ a else gfDouble r) 0

/-- The inverse of a nonzero element: its power 2¹⁶ − 2. -/
def gfInv (a : BitVec 16) : BitVec 16 :=
  ((List.range 15).foldl (fun (p : BitVec 16 × BitVec 16) _ => (gfMul p.1 p.1, gfMul p.2 (gfMul p.1 p.1))) (a, 1)).2

/-- α to the power `n`. -/
def alphaPow (n : Nat) : BitVec 16 := (List.range n).foldl (fun x _ => gfDouble x) 1

/-- A polynomial, lowest coefficient first, times x − `r`. -/
def timesRoot (p : List (BitVec 16)) (r : BitVec 16) : List (BitVec 16) :=
  List.zipWith (· ^^^ ·) (0 :: p) (p.map (gfMul r) ++ [0])

/-- The value of a polynomial. -/
def polyAt (p : List (BitVec 16)) (x : BitVec 16) : BitVec 16 := p.foldr (fun c r => c ^^^ gfMul x r) 0

/-- g(x) = (x − α⁰) … (x − α⁷). -/
def generator : List (BitVec 16) := (List.range 8).foldl (fun p j => timesRoot p (alphaPow j)) [1]

/-- The eight check symbols of the data symbols d_0 to d_255: the coefficients of d(x) × x⁸ mod g(x). -/
def checkSymbols (d : List (BitVec 16)) : List (BitVec 16) :=
  d.foldr (fun x rem =>
    let lead := x ^^^ rem.getLastD 0
    List.zipWith (· ^^^ ·) (0 :: rem.dropLast) ((generator.take 8).map (gfMul lead))) (List.replicate 8 0)

/-- The power of x at which symbol `e` of a sector stands in its codeword. -/
def symbolPower (e : Nat) : Nat := if e < 256 then e + 8 else e - 256

/-- Syndrome `j` of an error pattern. -/
def syndrome (es : List (Nat × BitVec 16)) (j : Nat) : BitVec 16 :=
  es.foldl (fun r e => r ^^^ gfMul e.2 (alphaPow (j * symbolPower e.1))) 0

/-- The symbols that travel on data lane `lane`. -/
def laneSymbols (lane : Nat) : List Nat := (List.range 8).map (fun k => lane + 32 * k)

def noError (_ : Nat) : BitVec 16 := 0

/-- R290: erasure decoding: the values that the eight symbols of `lane` must change by for the eight syndromes of a pattern to
vanish: the pattern that the device takes the stored word to hold. -/
def erasureDecode (lane : Nat) (es : List (Nat × BitVec 16)) : List (Nat × BitVec 16) :=
  (laneSymbols lane).foldl (fun t i =>
    let others := ((laneSymbols lane).filter (· != i)).map (fun m => alphaPow (symbolPower m))
    let p := others.foldl timesRoot [1]
    let v := ((List.range 8).map (fun j => gfMul (p.getD j 0) (syndrome es j))).foldl (· ^^^ ·) 0
    tblSet noError t i (gfMul v (gfInv (polyAt p (alphaPow (symbolPower i)))))) []

/-- An error pattern and further errors. -/
def mergeErrors (es : List (Nat × BitVec 16)) (more : List (Fin 264 × BitVec 16)) : List (Nat × BitVec 16) :=
  more.foldl (fun t e => tblSet noError t e.1.val (tblGet noError t e.1.val ^^^ e.2)) es

/-! ## Sectors -/

def sectorDefault (_ : Nat) : Sector := {}
def State.sector (s : State) (n : Nat) : Sector := tblGet sectorDefault s.mem.sectors n
def State.setSector (s : State) (n : Nat) (x : Sector) : State :=
  { s with mem := { s.mem with sectors := tblSet sectorDefault s.mem.sectors n x } }

/-- R289: data symbol `i` of sector `n`, and the codeword that the sector is stored as: data, then check symbols, with what
is wrong with it. -/
def State.dataSymbol (s : State) (n i : Nat) : BitVec 16 := s.byte (512 * n + 2 * i + 1) ++ s.byte (512 * n + 2 * i)
def State.codeword (s : State) (n : Nat) : List (BitVec 16) :=
  let d := (List.range 256).map (s.dataSymbol n)
  let es := (s.sector n).errors
  (d ++ checkSymbols d).mapIdx (fun i x => x ^^^ tblGet noError es i)

/-- The sectors that some regions (address, length) touch, each once, in ascending order within a region. -/
def sectorsOf (regions : List (Nat × Nat)) : List Nat :=
  (regions.flatMap (fun (a, n) =>
    if n = 0 then [] else (List.range ((a + n - 1) / 512 + 1 - a / 512)).map (· + a / 512))).eraseDups

/-- The sectors of HBM among them. -/
def State.hbmSectors (s : State) (regions : List (Nat × Nat)) : List Nat :=
  (sectorsOf regions).filter (fun n => decide (512 * n < s.hbmEnd))

/-- Where sector `n` of the device address space lies. -/
def State.placeOf (s : State) (n : Nat) : Place := locate s.channels (512 * n)

def Place.mark (p : Place) : Nat := 2 * (p.channel % 32) + p.pc
def Place.stack (p : Place) : Nat := p.channel / 32

/-- The marked lane of a place's pseudo-channel. -/
def State.laneMark (s : State) (p : Place) : Option Nat :=
  if s.flag (F.MEM_LANE_MARK_VALID p.stack p.mark) then some (s.get (F.MEM_LANE_MARK_LANE p.stack p.mark)) else none

/-- R290: the stored word of sector `n` under its pseudo-channel's mark: the mark leaves no check capacity, so the device
reads the data whose codeword agrees with every symbol outside the marked lane, right or wrong. -/
def State.settle (s : State) (n : Nat) : State :=
  let es := (s.sector n).errors
  match s.laneMark (s.placeOf n) with
  | none => s
  | some lane =>
    if es.all (fun e => (laneSymbols lane).contains e.1) then s
    else
      let v := erasureDecode lane es
      let sym := fun i => s.dataSymbol n i ^^^ tblGet noError es i ^^^ tblGet noError v i
      let bs := (List.range 256).flatMap (fun i => leBytes 2 (sym i).toNat)
      (s.setSector n { s.sector n with errors := v }).store (placed (512 * n) bs)

/-- R291: a lane is marked; a pseudo-channel holds at most one mark. What is stored there is read under the mark from now
on. -/
def State.markLane (s : State) (channel pc lane cause : Nat) : State :=
  let p : Place := ⟨channel, pc, 0, 0⟩
  if (s.laneMark p).isSome then s
  else
    let s := (s.on (F.MEM_LANE_MARK_VALID p.stack p.mark)).put (F.MEM_LANE_MARK_LANE p.stack p.mark) lane
    let s := (s.on F.MEM_STATUS_MARKED).event 0x0302#16 (source 5 channel) [(16, channel), (8, pc), (8, lane), (8, cause)]
    let here := (s.mem.sectors.map (·.1)).filter (fun n => (s.placeOf n).channel == channel && (s.placeOf n).pc == pc)
    here.foldl (fun s n => s.settle n) s

/-- The one lane that all symbols of an error pattern travel on, if there is one (R289); check symbols travel on none. -/
def oneLane (errors : List (Nat × BitVec 16)) : Option Nat :=
  match errors with
  | [] => none
  | e :: _ => if errors.all (fun x => decide (x.1 < 256) && x.1 % 32 == e.1 % 32) then some (e.1 % 32) else none

def runDefault (_ : Nat) : Nat × Nat := (0, 0)

/-- R291: a corrected sector of a pseudo-channel with all corrections on `lane`, or on no one lane; the sixteenth in a row
on one lane marks it. -/
def State.countRun (s : State) (p : Place) (lane : Option Nat) : State :=
  let k := 2 * p.channel + p.pc
  let (l, n) := tblGet runDefault s.mem.laneRuns k
  let run := match lane with
    | some x => (x, if x = l then n + 1 else 1)
    | none => (0, 0)
  let full := decide (16 ≤ run.2)
  let s := { s with mem := { s.mem with laneRuns := tblSet runDefault s.mem.laneRuns k (if full then (0, 0) else run) } }
  if full then s.markLane p.channel p.pc run.1 1 else s

/-- How one sector reads. -/
inductive SectorRead where
  | good | corrected | uncorrectable
  deriving DecidableEq, Repr

/-- R290, R292: the outcome of decoding a sector, under its pseudo-channel's mark. With a mark no error is detected. -/
def decodeSector (x : Sector) (mark : Option Nat) : SectorRead :=
  if x.poisoned then .uncorrectable
  else match mark with
    | some _ => .good
    | none => if x.errors.isEmpty then .good else if x.errors.length ≤ 4 then .corrected else .uncorrectable

/-- R290, R291: sector `n` is read: what it does to the counters and marks, and its outcome. -/
def State.readSector (s : State) (n : Nat) : State × SectorRead :=
  let p := s.placeOf n
  let x := s.sector n
  let mark := s.laneMark p
  let r := decodeSector x mark
  let s := if mark.isSome then s.count R.MEM_ERASURE 1 else s
  let s := if r = .corrected then
      (((s.count R.MEM_CORRECTED 1).measure 0 1).count (R.MEM_STACK_CORR p.stack) 1).countRun p (oneLane x.errors)
    else s
  (s, r)

/-- Whether a read of sector `n` can differ from that of a good sector under no mark. -/
def State.isNotable (s : State) (n : Nat) : Bool :=
  s.sector n != {} || (s.flag F.MEM_STATUS_MARKED && (s.laneMark (s.placeOf n)).isSome)

/-- R293: an uncorrectable read by the reader of Table 11-4's row `reader`. -/
def State.uncorrectable (s : State) (reader n : Nat) : State :=
  let p := s.placeOf n
  let s := (s.count R.MEM_UNCORR 1).setReg64 R.MEM_UNCORR_ADDR (BitVec.ofNat 64 (512 * n))
  let s := { s with health := { s.health with uncorrReads := s.health.uncorrReads + 1 } }
  s.event 0x0301#16 (source 5 p.channel) [(16, p.channel), (8, p.pc), (8, reader), (32, p.sector)]

/-- Sectors read one after another by a reader: the state after, and the sectors that were uncorrectable. -/
def State.readSectors (s : State) (reader : Nat) (ns : List Nat) : State × List Nat :=
  ns.foldl (fun (s, bad) n =>
    if s.isNotable n then
      let (s, r) := s.readSector n
      if r = .uncorrectable then (s.uncorrectable reader n, bad ++ [n]) else (s, bad)
    else (s, bad)) (s, [])

/-- Regions of HBM read by a reader of Table 11-4. -/
def State.touch (s : State) (reader : Nat) (regions : List (Nat × Nat)) : State × List Nat :=
  s.readSectors reader (s.hbmSectors regions)

/-! ## On-chip memory (R356, R357) -/

/-- Table 14-6: the number of a memory, and the source that an event of it names. -/
def memoryNumber : SramMemory → Nat
  | .operand _ => 0
  | .cluster _ => 1
  | .basin => 2
  | .lockkeeper => 3
def memorySource : SramMemory → BitVec 16
  | .operand e => Machine.source 1 e.val
  | .cluster g => Machine.source 2 g.val
  | .basin => Machine.source 8 0
  | .lockkeeper => srcPackage

/-- The device address of a word of the Basin die (Table 00-7). -/
def wordAddress (w : SramWord) : Nat := 0xFE0000000000 + 8 * w.offset.toNat

/-- A word of the Basin die lies in some regions (address, length). -/
def wordIn (rs : List (Nat × Nat)) (w : SramWord) : Bool :=
  w.memory == .basin && rs.any (fun r => decide (r.1 < wordAddress w + 8) && decide (wordAddress w < r.1 + r.2))

/-- R356, R357: a word with an error is read: one bit is corrected and counted; two are counted and recorded. -/
def State.readWord (s : State) (w : SramWord) : State :=
  if w.double then
    let s := s.count R.HEALTH_SRAM_UNCORR 1
    let s := { s with health := { s.health with uncorrWords := s.health.uncorrWords + 1 } }
    s.event 0x0521#16 (memorySource w.memory) [(8, memoryNumber w.memory), (32, w.offset.toNat)]
  else (s.count R.HEALTH_SRAM_CORR 1).measure 5 1

/-- A Basin word is lost: its entry is to be cleared at the end of the drain (R357). -/
def State.loseWord (s : State) (w : SramWord) : State :=
  if w.memory = .basin ∧ !s.health.lostWords.contains (wordAddress w) then
    { s with health := { s.health with lostWords := s.health.lostWords ++ [wordAddress w] } }
  else s

/-- The words with errors that `which` picks are read; whether one of them was uncorrectable. -/
def State.readWords (s : State) (which : SramWord → Bool) : State × Bool :=
  let ws := s.health.sram.filter which
  (ws.foldl (fun s w => if w.double then (s.readWord w).loseWord w else s.readWord w) s, ws.any (fun w => w.double))

/-- Readers of Table 11-4, by row. -/
def rdBarge : Nat := 0
def rdStashLoad : Nat := 1
def rdUpdate : Nat := 2
def rdEval : Nat := 3
def rdHost : Nat := 4
def rdFirmware : Nat := 5
def rdPartial : Nat := 6
def rdScrub : Nat := 7

/-! ## Writes -/

/-- R287, R292: what writing `covered` bytes of sector `n` does to the sector: a whole write stores a good codeword; a
partial one reads, merges and writes, and keeps a sector that read uncorrectable poisoned. -/
def State.writeSector (s : State) (n covered : Nat) : State :=
  if decide (512 ≤ covered) then s.setSector n {}
  else
    let s := s.count R.MEM_RMW 1
    let (s, bad) := s.readSectors rdPartial [n]
    s.setSector n { poisoned := !bad.isEmpty }

/-- R287: bytes written together: every HBM sector touched is written once. -/
def State.write (s : State) (ws : List (Nat × Byte)) : State :=
  let as := ws.map (·.1)
  let ns := (as.map (· / 512)).eraseDups.filter (fun n => decide (512 * n < s.hbmEnd))
  let s := ns.foldl (fun s n => s.writeSector n (as.filter (· / 512 == n)).eraseDups.length) s
  s.store ws

/-- R287: the bytes `bs` written from `a`. -/
def State.writeAt (s : State) (a : Nat) (bs : List Byte) : State :=
  let ns := s.hbmSectors [(a, bs.length)]
  let s := ns.foldl (fun s n => s.writeSector n (min (a + bs.length) (512 * n + 512) - max a (512 * n))) s
  s.store (placed a bs)

end Sys2Proof.Machine
end

