-- ==== Sys2Proof/Machine/OutPath.lean ====
section
/-! DEFINITION. The output path as a pure function of what a barge hands it: epilogue, rotation, quantiser, sluice lane
and statistics feeds (spec/06 R139 to R163). It answers the bytes written and everything it feeds. -/

namespace Sys2Proof.Machine

/-- A sluice table as one step sees it: descriptor fields, and by window the channels of the list in force. -/
structure Sluice where
  id : Nat
  laneBase : Nat
  windows : Nat
  lists : List (Nat × List Nat)
  deriving DecidableEq, Repr

/-- The channels listed in window `w`. -/
def Sluice.window (t : Sluice) (w : Nat) : List Nat := (t.lists.lookup w).getD []

/-- The slot of K index `k` in its window's list; none when it is not a sluice channel. -/
def Sluice.slot (t : Sluice) (k : Nat) : Option Nat := (t.window (k / 4096)).findIdx? (· == k % 4096)

/-- R175: the address of the lane value of row `r` and K index `k`. -/
def Sluice.laneAddr (t : Sluice) (r k : Nat) : Option Nat :=
  (t.slot k).map (fun i => t.laneBase + (r * t.windows + k / 4096) * 128 + 2 * i)

/-- Where and how one tensor is written in a step: its view, widening level, rotation, sluice and statistics. -/
structure Target where
  view : View
  td : Nat
  level : Nat
  rotSize : Nat
  signs : List Bool
  sluice : Option Sluice
  stats : Option Nat
  deriving DecidableEq, Repr

/-- One statistics feed: Channel Statistics entry, amax, lead count (Table 06-2). -/
structure StatFeed where
  entry : Nat
  amax : BitVec 32
  lead : Nat
  deriving DecidableEq, Repr

/-- All that the writing of some blocks does. -/
structure OutResult where
  writes : List (Nat × Byte) := []
  count : BlockCount := {}
  amaxes : List (BitVec 32) := []
  stats : List StatFeed := []
  sluiced : Nat := 0
  nonfinite : Bool := false
  deriving DecidableEq, Repr

def BlockCount.plus (a b : BlockCount) : BlockCount :=
  ⟨a.blocks + b.blocks, a.zero + b.zero, a.sat + b.sat, a.nonfinite + b.nonfinite⟩

def OutResult.append (a b : OutResult) : OutResult :=
  ⟨a.writes ++ b.writes, a.count.plus b.count, a.amaxes ++ b.amaxes, a.stats ++ b.stats, a.sluiced + b.sluiced,
    a.nonfinite || b.nonfinite⟩

/-- Bytes at consecutive addresses from `a`. -/
def bytesAt (a : Nat) : List Byte → List (Nat × Byte)
  | [] => []
  | b :: bs => (a, b) :: bytesAt (a + 1) bs

/-- R81: element codes packed in ascending order from bit 0. -/
def packCodes (bits : Nat) : List Nat → Nat
  | [] => 0
  | c :: cs => c % 2 ^ bits + 2 ^ bits * packCodes bits cs

/-- One position as it reaches the quantiser: whether the barge produces it, whether it is real, and its exact value. -/
structure OutPos where
  produced : Bool
  real : Bool
  y : Fv
  deriving DecidableEq, Repr

/-- R160, R61: the position of a block's largest |y| over its real positions, the lowest of equals; a NaN is the largest. -/
def leadOf (ps : List OutPos) : Option Nat :=
  let best := ps.foldl (fun acc p => if p.real && !fvGe acc p.y.abs then p.y.abs else acc) (Fv.fin false 0 0)
  if ps.any (fun p => p.real && p.y.isNan) then ps.findIdx? (fun p => p.real && p.y.isNan)
  else ps.findIdx? (fun p => p.real && fvGe p.y.abs best)

/-- R160: the statistics feeds of one block: every real position, the largest |y| marked as the lead. -/
def statFeeds (base i0 : Nat) (ps : List OutPos) : List StatFeed :=
  let lead := leadOf ps
  ((List.range ps.length).zip ps).filterMap (fun (j, p) =>
    if p.real then some ⟨base + i0 + j, roundUp32 p.y.abs, if lead = some j then 1 else 0⟩ else none)

/-- R158: the lane values of a block's sluiced real positions, divided by the coarse scale; and whether one rounds to an
infinity. -/
def laneWrites (t : Target) (s : Sluice) (i0 r : Nat) (ps : List OutPos) : List (Nat × Byte) × Nat × Bool :=
  let vals := ((List.range ps.length).zip ps).filterMap (fun (j, p) =>
    match s.laneAddr r (i0 + j), p.real with
    | some a, true =>
      let v := match p.y, fv32 t.view.coarse with
        | .fin n m e, .fin _ d f =>
          let (x, y) := scale2 m (e - f)
          BitVec.ofNat 16 (packRatio fmtBf16 n x (y * d))
        | v, _ => BitVec.ofNat 16 (packFv fmtBf16 v)
      some (a, v)
    | _, _ => none)
  (vals.flatMap (fun (a, v) => bytesAt a (leBytes 2 v.toNat)), vals.length,
    vals.any (fun (_, v) => v &&& 0x7FFF#16 = 0x7F80#16))

/-- R154 to R161: one block of a block format, at dimension-0 index `i0`. -/
def writeBlock (t : Target) (ix : Ix) (ps : List OutPos) : OutResult :=
  let sl := fun j => match t.sluice with | some s => (s.slot (ix.1 + j)).isSome | none => false
  let qs := ((List.range ps.length).zip ps).map (fun (j, p) => (⟨p.y, p.real, sl j⟩ : QPos))
  let q := if isMxFormat t.view.fmt then quantiseMx t.view.fmt qs else quantiseBlock t.view.fmt t.view.cb t.view.coarse qs
  let bits := fmtBits t.view.fmt
  let lane := match t.sluice with
    | some s => laneWrites t s ix.1 (ix.2.2.1 * t.view.dim 1 + ix.2.1) ps
    | none => ([], 0, false)
  { writes := bytesAt (elementAddress t.view ix) (leBytes (ps.length * bits / 8) (packCodes bits q.codes)) ++
      (scaleAddress t.view ix, BitVec.ofNat 8 q.scale) :: lane.1
    count := q.count
    amaxes := q.amax.toList
    stats := match t.stats with | some b => statFeeds b ix.1 ps | none => []
    sluiced := lane.2.1
    nonfinite := decide (0 < q.count.nonfinite) || lane.2.2 || q.amax.any isNonfinite32 }

/-- R59, R63, R70, R161: one run of 16 positions of BF16, FP16 or FP32. Only produced positions and padding are written. -/
def writeRun (t : Target) (ix : Ix) (ps : List OutPos) : OutResult :=
  let f := if t.view.fmt = 0x20 then fmtBf16 else if t.view.fmt = 0x21 then fmtF16 else fmt32
  let bits := fmtBits t.view.fmt
  let codes := ps.map (fun p => if p.real then packFv f p.y else 0)
  let bad := (ps.zip codes).any (fun (p, c) => p.real && !(unpackFv f c).isFin)
  let amax := if t.level = 2 ∧ ps.any (·.real) then some (blockAmax32 (ps.map (fun p => ⟨p.y, p.real, false⟩))) else none
  { writes := ((List.range ps.length).zip (ps.zip codes)).flatMap (fun (j, p, c) =>
      if p.produced then bytesAt (elementAddress t.view ix + j * bits / 8) (leBytes (bits / 8) c) else [])
    count := if t.level = 2 ∧ bad then { nonfinite := 1 } else {}
    amaxes := amax.toList
    stats := match t.stats with | some b => if t.level < 2 then statFeeds b ix.1 ps else [] | none => []
    nonfinite := bad || amax.any isNonfinite32 }

/-- R83, R163: the padding of a block or run that holds no produced position: code 0 in every byte that padding alone
fills (log 81), and scale 0x00 for a block that lies wholly in padding. -/
def writePadding (t : Target) (ix : Ix) (len : Nat) : OutResult :=
  let bits := fmtBits t.view.fmt
  let pad := fun j => isPadding t.view (ix.1 + j, ix.2)
  let bytes := (List.range (len * bits / 8)).filter (fun b =>
    (List.range len).all (fun j => pad j || decide (j * bits + bits ≤ 8 * b) || decide (8 * b + 8 ≤ j * bits)))
  { writes := bytes.map (fun b => (elementAddress t.view ix + b, 0)) ++
      (if isBlockFormat t.view.fmt ∧ (List.range len).all pad then [(scaleAddress t.view ix, 0)] else []) }

/-- A block or run, by format: written whole where the barge produces a position of it (R154), else its padding alone. -/
def writeOut (t : Target) (ix : Ix) (ps : List OutPos) : OutResult :=
  let qs := ((List.range ps.length).zip ps).map (fun (j, p) =>
    if isPadding t.view (ix.1 + j, ix.2) then { p with produced := true, real := false } else p)
  if !((List.range ps.length).zip ps).any (fun (j, p) => p.produced && !isPadding t.view (ix.1 + j, ix.2)) then
    writePadding t ix ps.length
  else if isBlockFormat t.view.fmt then writeBlock t ix qs else writeRun t ix qs

/-- R149, R150: a rotated position: the exact y over its segment, for the sizes the output path rotates. -/
def rotated (t : Target) (get : Nat → OutPos) (i0 : Nat) : OutPos :=
  let n := rotLen t.rotSize
  if n = 1 then get i0
  else
    let s := i0 / n * n
    let p := get i0
    { p with y := rotateAt (rotP t.rotSize) t.signs ((List.range n).map (fun j => (get (s + j)).y)) (i0 - s) }

/-- The blocks of one line of dimension 0, from index `lo`, `n` blocks, with `get` giving each position. -/
def writeLine (t : Target) (get : Nat → OutPos) (lo : Nat) (rest : Nat × Nat × Nat × Nat) (n : Nat) : OutResult :=
  let len := if isBlockFormat t.view.fmt then blockLen t.view.fmt else 16
  ((List.range n).map (fun b =>
    let i0 := lo + b * len
    writeOut t (i0, rest) ((List.range len).map (fun j => rotated t get (i0 + j))))).foldl OutResult.append {}

/-- The values an epilogue reads beside the total (R141 to R143). -/
structure EpiArgs where
  scale : Fv
  bias : Option (BitVec 32)
  clip : Option (BitVec 32 × BitVec 32)
  eltOp : Nat
  elt : BitVec 32
  kernel : Option Kernel
  env : VEnv
  deriving DecidableEq, Repr

/-- R141 from the bias step to the kernel, and whether a step made a finite x non-finite (R144). -/
def epilogueFrom (a : EpiArgs) (x0 : BitVec 32) (i0 i1 i2 e : Nat) : BitVec 32 × Bool :=
  let bad := fun (x o y : BitVec 32) => !isNonfinite32 x && !isNonfinite32 o && isNonfinite32 y
  let x1 := match a.bias with | some b => fAdd x0 b | none => x0
  let x2 := match a.clip with | some (lo, hi) => fMin (fMax x1 lo) hi | none => x1
  let x3 := if a.eltOp = 1 then fAdd x2 a.elt else if a.eltOp = 2 then fMul x2 a.elt else x2
  let x4 := match a.kernel with
    | some k => (runKernel a.env k (laneInit x3 0 0 (BitVec.ofNat 32 i0) (BitVec.ofNat 32 i1) (BitVec.ofNat 32 i2)
        0 0 0 0 e)).get 0
    | none => x3
  (x4, bad x0 (a.bias.getD 0) x1 || bad x1 0 x2 || bad x2 a.elt x3 || bad x3 0 x4)

/-- R141, R144: the whole epilogue of one delivered element. -/
def epilogue (a : EpiArgs) (d : BitVec 32) (i0 i1 i2 e : Nat) : BitVec 32 × Bool :=
  let x := to32 ((fv32 d).mul a.scale)
  let (y, f) := epilogueFrom a x i0 i1 i2 e
  (y, f || isNonfinite32 d || isNonfinite32 x)

/-- R209: the clip of an exact value, without rounding. -/
def clipExact (clip : Option (BitVec 32 × BitVec 32)) (y : Fv) : Fv :=
  match clip with
  | none => y
  | some (lo, hi) =>
    if y.isNan then y
    else
      let z := if fvGe y (fv32 lo) then y else fv32 lo
      if fvGe (fv32 hi) z then z else fv32 hi

end Sys2Proof.Machine
end

