-- ==== Sys2Proof/Machine/Views.lean ====
section
/-! DEFINITION. Tensors as a context sees them in a step: widening levels and the fall-back arena (R186), the arena in
force (R264), coarse scales (R74, R153), sluice lists in force (R174), and what writing a tensor does to State. -/

namespace Sys2Proof.Machine

/-! ## Tensors of an image -/

/-- The descriptor of tensor index `i`. -/
def imTd (im : Image) (i : Nat) : BitVec 512 := im.tensors.getD i 0

/-- The tensors that a MATRIX, ATTENTION or VECTOR barge writes. -/
def writtenTds (b : BitVec 1024) : List Nat :=
  let aux := if opAuxEn b then [opTdAux b] else []
  if bClass b = 1 then mxC b :: aux
  else if bClass b = 2 then
    if bOp b = 0 ∨ bOp b = 2 then [atO b, atLse b] ++ aux
    else if bOp b = 3 then [atDQ b, atDK b, atDV b]
    else if bOp b = 4 then atO b :: aux
    else []
  else if bClass b = 3 ∧ (bOp b ≤ 1 ∨ bOp b = 5 ∨ bOp b = 6) then vbOut b :: aux
  else []

/-- R78: the tensors that a bootstrap step writes at W2: every tensor that a MATRIX, ATTENTION or VECTOR barge of its plan
writes, in ascending index, whatever its own format (log 80). -/
def bootWritten (im : Image) : List Nat :=
  let ws := im.bootPlan.flatMap (fun m => m.barges.flatMap writtenTds)
  (List.range im.tensors.length).filter (fun i => ws.contains i)

def levelDefault (_ : Nat) : Nat := 0

/-- The level of tensor `i`: 0, 1 or 2 for W0, W1, W2. -/
def tdLevel (im : Image) (boot : Bool) (levels : List (Nat × Nat)) (i : Nat) : Nat :=
  if boot then (if (bootWritten im).contains i then 2 else 0)
  else if tdWidenable (imTd im i) then tblGet levelDefault levels (tdWidenSlot (imTd im i)) else 0

/-- R153: the format a level writes. -/
def levelFormat (d : BitVec 512) (l : Nat) : Nat := if l = 0 then tdFormat d else if l = 1 then 0x12 else 0x20

/-- R184: the arena bytes of one tensor at a level. -/
def widenedBytes (d : BitVec 512) (l : Nat) : Nat :=
  if l = 0 then 0 else tdTiles d * (tileBytes (levelFormat d l) + scaleBytes (levelFormat d l))

/-- The tensors of a widening slot, in ascending index. -/
def slotTensors (im : Image) (q : Nat) : List Nat :=
  (List.range im.tensors.length).filter (fun i => tdWidenable (imTd im i) && tdWidenSlot (imTd im i) == q)

/-- R186: the widened tensors in the order in which they stand in the fall-back arena. -/
def arenaOrder (im : Image) (boot : Bool) (levels : List (Nat × Nat)) : List Nat :=
  if boot then bootWritten im
  else levels.flatMap (fun (q, l) => if l = 0 then [] else slotTensors im q)

/-- R186: the offset of tensor `i` in the fall-back arena. -/
def arenaOffset (im : Image) (boot : Bool) (levels : List (Nat × Nat)) (i : Nat) : Nat :=
  (((arenaOrder im boot levels).takeWhile (· != i)).map (fun j =>
    widenedBytes (imTd im j) (tdLevel im boot levels j))).sum

/-- R264: an address in arena A, in arena A or B as `inB` says. -/
def arenaAddr (im : Image) (inB : Bool) (a : Nat) : Nat :=
  match im.arena with
  | some (x, y, n) => if inB ∧ x ≤ a ∧ a < x + n then a - x + y else a
  | none => a

/-- R264: whether tensor `i` is an arena tensor. -/
def isArenaTensor (im : Image) (i : Nat) : Bool :=
  match im.arena with
  | some (x, _, n) => decide (x ≤ tdBase (imTd im i)) && decide (tdBase (imTd im i) < x + n)
  | none => false

/-! ## The tables a view reads -/

/-- The codebook of an id, as FORMAT_CB_HDR and FORMAT_CB_ENT hold it (R65). -/
def State.codebook (s : State) (id : Nat) : Codebook :=
  ⟨BitVec.ofNat 8 (s.get (F.FORMAT_CB_HDR_BASE_EXP id)), (List.range 16).map (fun k =>
    BitVec.ofNat 16 (if k % 2 = 0 then s.get (F.FORMAT_CB_ENT_ENTRY_LO id (k / 2))
      else s.get (F.FORMAT_CB_ENT_ENTRY_HI id (k / 2))))⟩

def scaleDefault (_ : Nat) : ScaleEntry := {}
def State.scale (s : State) (i : Nat) : ScaleEntry := tblGet scaleDefault s.scales i
def State.setScale (s : State) (i : Nat) (e : ScaleEntry) : State :=
  { s with scales := tblSet scaleDefault s.scales i e }

def windowDefault (_ : Nat) : List Nat := []
/-- The key of a window list: bank, table, window. -/
def windowKey (bank : Bool) (table w : Nat) : Nat := bank.toNat * 2 ^ 30 + table * 2 ^ 18 + w
def State.window (s : State) (bank : Bool) (table w : Nat) : List Nat :=
  tblGet windowDefault s.windows (windowKey bank table w)
def State.setWindow (s : State) (bank : Bool) (table w : Nat) (l : List Nat) : State :=
  { s with windows := tblSet windowDefault s.windows (windowKey bank table w) l }

def cstatDefault (_ : Nat) : CStat := {}
def cstatKey (bank : Bool) (i : Nat) : Nat := bank.toNat * 2 ^ 21 + i
def State.cstatAt (s : State) (bank : Bool) (i : Nat) : CStat := tblGet cstatDefault s.cstat (cstatKey bank i)
def State.setCstat (s : State) (bank : Bool) (i : Nat) (e : CStat) : State :=
  { s with cstat := tblSet cstatDefault s.cstat (cstatKey bank i) e }

/-- The descriptor of sluice table `id` of an image. -/
def imSluice (im : Image) (id : Nat) : Option (BitVec 512) := im.sluices.lookup id

/-- R174: a sluice table of context `c`, with the lists of the bank in force. -/
def State.sluice (s : State) (c : Nat) (im : Image) (id : Nat) : Option Sluice :=
  if id = 0xFFFF then none
  else (imSluice im id).map (fun d =>
    ⟨id, stLaneBase d, stWindows d, (List.range (stWindows d)).map (fun w => (w, s.window (s.ctx c).listBank id w))⟩)

/-- R200: the instructions and the constants of a kernel, from the image's areas. -/
def KernelImage.code (im : Image) (k : KernelImage) : List (BitVec 64) := (im.kernelArea.drop k.start).take k.count
def KernelImage.consts (im : Image) (k : KernelImage) : List (BitVec 32) := (im.constArea.drop k.constStart).take k.constCount

/-- R148: the sign bits of a rotation key over a segment, true where d_j is −1. -/
def signBits (seed key n : Nat) : List Bool := (List.range n).map (fun j => (crng seed (0x10000 + key) 0 j).getLsbD 0)

/-- The step index of context `c`. -/
def State.step (s : State) (c : Nat) : Nat := (s.reg64 (R.TRAIN_STEP c)).toNat

/-! ## Views and targets -/

/-- What a barge's context and plan fix for every tensor it names. -/
structure Frame where
  ctx : Nat
  im : Image
  boot : Bool
  eval : Bool
  deriving DecidableEq, Repr

/-- The image of a context that holds none. -/
def emptyImage : Image :=
  ⟨[], none, [], [], [], [], [], [], [], [], [], 0, 0, 0, [], 0, 0, [], 0, 0, 0, 0, 0, 0, [], [], none, [], none⟩

/-- The image loaded in context `c`. -/
def State.image (s : State) (c : Nat) : Image := ((s.ctx c).image).getD emptyImage

/-- The frame of a barge: the context whose plan holds it. -/
def State.frame (s : State) (b : Barge) : Frame := ⟨b.ctx, s.image b.ctx, b.bootstrap, b.evalPlan⟩

def State.level (s : State) (f : Frame) (i : Nat) : Nat := tdLevel f.im f.boot (s.ctx f.ctx).levels i

/-- R153, R186, R264: tensor `i` as the step sees it, its arena picked by `inB`. -/
def State.viewIn (s : State) (f : Frame) (inB : Bool) (i : Nat) : View :=
  let d := imTd f.im i
  let l := s.level f i
  let e := s.scale (tdCoarseIndex d)
  if l = 0 then
    ⟨tdFormat d, s.codebook (tdCodebook d), arenaAddr f.im inB (tdBase d), arenaAddr f.im inB (tdScaleBase d), tdDims d,
      tdStrides d, if isDFormat (tdFormat d) then e.c0 else one32⟩
  else
    let base := f.im.widenBase + arenaOffset f.im f.boot (s.ctx f.ctx).levels i
    let plane := (tdDim d 0 + 255) / 256 * ((tdDim d 1 + 127) / 128)
    ⟨levelFormat d l, codebook0, base, base + tdTiles d * tileBytes (levelFormat d l), tdDims d,
      [plane, plane * tdDim d 2, plane * tdDim d 2 * tdDim d 3], if l = 1 then e.c1 else one32⟩

/-- R264: as barges read it, from the arena in force. -/
def State.view (s : State) (f : Frame) (i : Nat) : View := s.viewIn f (s.flag (F.TRAIN_ARENA_IN_FORCE f.ctx)) i

/-- R142: the coarse factor of an operand, 1.0 where the format has none. -/
def coarseOf (v : View) : Fv := if isDFormat v.fmt then fv32 v.coarse else .fin false 1 0

/-- A tensor as a barge writes it: rotated and sluiced only where `rot` and `sluice` say. -/
def State.target (s : State) (f : Frame) (i : Nat) (rotate : Bool) (sluice : Nat) (stats : Option Nat) : Target :=
  let d := imTd f.im i
  let l := s.level f i
  let size := if rotate then tdRotSize d else 0
  ⟨s.view f i, i, l, size, signBits (s.ctx f.ctx).seed.toNat (tdRotKey d) (rotLen size),
    if l = 2 then none else s.sluice f.ctx f.im sluice, stats⟩

/-- The regions of memory that hold a view: element plane and scale plane. -/
def viewRegions (v : View) : List (Nat × Nat) :=
  let last := tileOf v (v.dim 0 - 1, v.dim 1 - 1, v.dim 2 - 1, v.dim 3 - 1, v.dim 4 - 1) + 1
  (v.base, last * tileBytes v.fmt) :: (if isBlockFormat v.fmt then [(v.scaleBase, last * scaleBytes v.fmt)] else [])

/-- The regions of memory that hold the positions below (n0, n1, n2, n3, n4) of a view. -/
def regionsOf (v : View) (n0 n1 n2 n3 n4 : Nat) : List (Nat × Nat) :=
  (List.range n4).flatMap (fun i4 => (List.range n3).flatMap (fun i3 => (List.range n2).flatMap (fun i2 =>
    (List.range n1).flatMap (fun i1 => (List.range ((n0 + 255) / 256)).flatMap (fun q =>
      let ix : Ix := (256 * q, i1, i2, i3, i4)
      let n := min 256 (n0 - 256 * q)
      (elementAddress v ix, (n * fmtBits v.fmt + 7) / 8) ::
        (if isBlockFormat v.fmt then [(scaleAddress v ix, (n + blockLen v.fmt - 1) / blockLen v.fmt)] else []))))))

/-- Every position of a view. -/
def wholeRegions (v : View) : List (Nat × Nat) := regionsOf v (v.dim 0) (v.dim 1) (v.dim 2) (v.dim 3) (v.dim 4)

/-- R264: the base of the arena in force, or of the alternate one. -/
def State.arenaBase (s : State) (f : Frame) (alternate : Bool) : Nat :=
  match f.im.arena with
  | some (a, b, _) => if s.flag (F.TRAIN_ARENA_IN_FORCE f.ctx) != alternate then b else a
  | none => 0

/-- An arena tensor in the alternate arena (R265). -/
def State.altView (s : State) (f : Frame) (i : Nat) : View := s.viewIn f (!s.flag (F.TRAIN_ARENA_IN_FORCE f.ctx)) i

/-- R269: the bytes of a moment page. -/
def pageBytes : Nat := 8704

/-- The pages that hold `n` elements. -/
def pagesOf (n : Nat) : Nat := (n + 8191) / 8192

/-! ## What a write feeds -/

/-- R60, R260, R279: the non-finite flag is raised for a context. -/
def State.raiseNonfinite (s : State) (f : Frame) : State := s.nonfinite f.ctx f.eval

def qualityDefault (_ : Nat) : Quality := {}
def Quality.plus (q : Quality) (b : BlockCount) : Quality :=
  ⟨q.blocks + b.blocks, q.zero + b.zero, q.sat + b.sat, q.nonfinite + b.nonfinite⟩

/-- R161: counts of a tensor: the device's counters, and the context's counts by tensor index. -/
def State.countBlocks (s : State) (f : Frame) (i : Nat) (b : BlockCount) : State :=
  let s := (((s.count R.FORMAT_Q_BLOCKS b.blocks).count R.FORMAT_Q_ZERO b.zero).count R.FORMAT_Q_SAT b.sat).count
    R.FORMAT_Q_NONFINITE b.nonfinite
  s.updCtx f.ctx (fun x => { x with counts := tblUpd qualityDefault x.counts i (·.plus b) })

/-- R161, R183: the sum of a step's counts over the tensors for which `p` holds. -/
def Ctx.sumCounts (x : Ctx) (p : Nat → Bool) : Quality :=
  (x.counts.filter (fun e => p e.1)).foldl (fun (q : Quality) e =>
    ⟨q.blocks + e.2.blocks, q.zero + e.2.zero, q.sat + e.2.sat, q.nonfinite + e.2.nonfinite⟩) {}

/-- R160: one feed taken into the feed bank. -/
def CStat.feed (e : CStat) (x : StatFeed) (step : Nat) : CStat :=
  ⟨fMax e.amax x.amax, BitVec.ofNat 32 (min (2 ^ 32 - 1) (e.lead.toNat + x.lead)),
    BitVec.ofNat 32 (min (2 ^ 32 - 1) (e.rows.toNat + 1)), BitVec.ofNat 32 step⟩

def State.feedStats (s : State) (c : Nat) (fs : List StatFeed) : State :=
  let bank := (s.ctx c).feedBank
  let step := s.step c
  fs.foldl (fun s x => s.setCstat bank x.entry ((s.cstatAt bank x.entry).feed x step)) s

/-- R70: block amaxes taken into STEP_AMAX. -/
def State.feedAmax (s : State) (f : Frame) (i : Nat) (as : List (BitVec 32)) : State :=
  let d := imTd f.im i
  if tdNoHistory d || as.isEmpty then s
  else
    let e := s.scale (tdCoarseIndex d)
    s.setScale (tdCoarseIndex d) { e with amax := as.foldl fMax e.amax }

/-- R167: event 0x0240 at the first non-finite block of a tensor in a step. -/
def State.flagTensor (s : State) (f : Frame) (i : Nat) : State :=
  if (s.ctx f.ctx).flagged.contains i then s
  else (s.updCtx f.ctx (fun x => { x with flagged := i :: x.flagged })).event 0x0240#16 (srcCtx f.ctx)
    [(32, i), (16, (s.reg64 (R.TRAIN_STEP f.ctx)).toNat)]

/-- R154 to R163: what the output path wrote to tensor `i` takes effect. -/
def State.apply (s : State) (f : Frame) (i : Nat) (r : OutResult) : State :=
  let s := s.write r.writes
  let s := (s.countBlocks f i r.count).count R.FORMAT_Q_SLUICED r.sluiced
  let s := (s.feedAmax f i r.amaxes).feedStats f.ctx r.stats
  let s := if 0 < r.count.nonfinite then s.flagTensor f i else s
  if r.nonfinite then s.raiseNonfinite f else s

/-! ## The start of a barge (R25, R75) -/

/-- Every tensor that a barge writes, of whatever class. -/
def allWritten (b : BitVec 1024) : List Nat :=
  writtenTds b ++ (if bClass b = 5 ∧ bOp b ≤ 1 then [coOut b] else []) ++ (if bClass b = 7 then [upW b] else [])

/-- Every tensor that a barge reads. -/
def allRead (b : BitVec 1024) : List Nat :=
  let epi := (if opBiasEn b then [opTdBias b] else []) ++ (if opEltOp b = 0 then [] else [opTdElt b])
  if bClass b = 1 then [mxA b, mxB b] ++ epi
  else if bClass b = 2 then
    if bOp b ≤ 1 then [atQ b, atK b, atV b] ++ epi
    else if bOp b = 2 then epi
    else if bOp b = 3 then [atQ b, atK b, atV b, atO b, atLse b, atDO b]
    else atQ b :: epi
  else if bClass b = 3 then (if bOp b = 3 ∨ bOp b = 4 then [] else (List.range (vbInCount b)).map (vbIn b))
  else if bClass b = 5 then (if bOp b ≤ 1 then [coIn b] else [])
  else if bClass b = 7 then (if bOp b = 2 then [] else [upG b])
  else []

/-- R75: a barge reads or writes a tensor that its descriptor gives a block format. -/
def blockWork (im : Image) (d : BitVec 1024) : Bool :=
  (allRead d ++ allWritten d).any (fun t => isBlockFormat (tdFormat (imTd im t)))

/-- R25: whether barge `i` starts now: the work window is open and every condition holds. A barge that reads or writes a
block tensor waits for the work of R75. -/
def State.mayStart (s : State) (i : Nat) : Bool :=
  s.lock.windowOpen && Machine.mayStart s.lock.active i &&
    match s.barge i with
    | some b => !((s.ctx b.ctx).blocksHeld && blockWork (s.image b.ctx) b.desc)
    | none => false

end Sys2Proof.Machine
end

