-- ==== Sys2Proof/Machine/Residents.lean ====
section
/-! DEFINITION. What the resident contexts hold, as the device keeps and shows it: the kernel store (R200 to R202, R221), and whether the
device is Idle (R446). -/

namespace Sys2Proof.Machine

/-! ## The kernel store -/

/-- R200: a kernel's issue count. -/
def KernelImage.issues (im : Image) (k : KernelImage) : Nat :=
  ((KernelImage.code im k).map (fun w => match vopOf (w.toNat % 256) with | some (_, cost, _) => cost | none => 0)).sum

/-- R201: the kernels of the resident contexts in the order of the store: ascending context, then ascending kernel id. -/
def State.residentKernels (s : State) : List (Nat × KernelImage) :=
  s.resident.flatMap (fun c =>
    ((s.image c).kernels.mergeSort (fun (a b : KernelImage) => a.id ≤ b.id)).map (fun k => (c, k)))

/-- R221: VECTOR_KSTORE, VECTOR_KERNEL_INFO of the kernel that VECTOR_KERNEL_SEL names, and VECTOR_KERNEL_LOC, its place as
the store was last laid out. -/
def State.showKernels (s : State) : State :=
  let ks := s.residentKernels
  let s := (s.put F.VECTOR_KSTORE_INSTR_USED (ks.map (·.2.count)).sum).put F.VECTOR_KSTORE_CONST_USED (ks.map (·.2.constCount)).sum
  let c := s.get F.VECTOR_KERNEL_SEL_CONTEXT
  let id := s.get F.VECTOR_KERNEL_SEL_KERNEL
  match ks.find? (fun e => e.1 == c && e.2.id == id) with
  | some (_, k) =>
    let before := s.kernels.laid.takeWhile (fun e => !(e.1 == c && e.2.1 == id))
    let s := (s.on F.VECTOR_KERNEL_INFO_VALID).put F.VECTOR_KERNEL_INFO_ISSUE (KernelImage.issues (s.image c) k)
    let s := (s.put F.VECTOR_KERNEL_INFO_CONST_COUNT k.constCount).put F.VECTOR_KERNEL_INFO_COUNT k.count
    (s.put F.VECTOR_KERNEL_LOC_START (before.map (·.2.2.1)).sum).put F.VECTOR_KERNEL_LOC_CONST_BASE (before.map (·.2.2.2)).sum
  | none => (s.setReg R.VECTOR_KERNEL_INFO 0).setReg R.VECTOR_KERNEL_LOC 0

/-- R201: the kernels change; the store is laid out afresh, between two array barges. -/
def State.layStore (s : State) : State :=
  let busy := s.array.barge.isSome
  let laid := if busy then s.kernels.laid else s.residentKernels.map (fun (c, k) => (c, k.id, k.count, k.constCount))
  ({ s with kernels := ⟨laid, busy⟩ } : State).showKernels

/-- R201: the array is free: a layout that waited for it is made. -/
def State.layDue (s : State) : State := if s.kernels.due then s.layStore else s

/-! ## Idle -/

/-- Whether a context is not EMPTY. -/
def State.occupied (s : State) (c : Nat) : Bool := s.ctxState c != ctxEmpty

/-- Whether any context is. -/
def State.anyOccupied (s : State) : Bool := (List.range 8).any (fun c => s.occupied c)

/-- R448: the low-power state becomes `v`; a change is recorded and raises vector 0 (Table 18-4). -/
def State.setLowPower (s : State) (v : Nat) : State :=
  let old := s.lk.lowPower
  if old = v then s
  else ((({ s with lk := { s.lk with lowPower := v } } : State).put F.BOOT_PWR_STATE v).event 0x070C#16 srcPackage [(8, old), (8, v)]).raise 0

/-- R446: the device is Idle while it is in service and no context is resident. -/
def State.showIdle (s : State) : State :=
  s.setLowPower (if s.get F.BOOT_STATUS_STATE = 3 ∧ !s.anyOccupied then 1 else 0)

end Sys2Proof.Machine
end

