-- ==== Sys2Proof/Machine/Fabric.lean ====
section
/-! DEFINITION. The operations of the link dies (R313 to R345): flits, packets, routes, streams and aborts. -/

namespace Sys2Proof.Machine

/-! ## Packet headers (Table 12-5) -/

def pkDst (p : Packet) : Nat := recBits p.hdr 0 0 13
def pkSrc (p : Packet) : Nat := recBits p.hdr 2 0 13
def pkKind (p : Packet) : Nat := recBits p.hdr 4 0 4
def pkHops (p : Packet) : Nat := recBits p.hdr 4 4 4
def pkCtx (p : Packet) : Nat := recBits p.hdr 5 0 3
def pkPhase (p : Packet) : Nat := recBits p.hdr 5 3 2
def pkGroup (p : Packet) : Nat := recBits p.hdr 6 0 10
def pkEpoch (p : Packet) : Nat := recBits p.hdr 8 0 32
def pkLen (p : Packet) : Nat := recBits p.hdr 12 0 13
def pkBarge (p : Packet) : Nat := recBits p.hdr 14 0 12
def pkPlanPos (p : Packet) : Nat := recBits p.hdr 16 0 32
def pkStep (p : Packet) : Nat := recBits p.hdr 20 0 32
def pkPkt (p : Packet) : Nat := recBits p.hdr 24 0 32
def pkCrc (p : Packet) : Nat := recBits p.hdr 28 0 32

/-- The header with HOPS replaced. -/
def setHops (h : BitVec 256) (n : Nat) : BitVec 256 :=
  BitVec.ofNat 256 (h.toNat - bitsAt h.toNat 36 4 * 2 ^ 36 + n % 16 * 2 ^ 36)

/-- R320: E2E_CRC, over bytes 0 to 27 as the source sends them (HOPS 15; log 22) and the payload. -/
def e2eCrc (h : BitVec 256) (payload : List Byte) : BitVec 32 :=
  crc32c (leBytes 28 ((setHops h 15).toNat % 2 ^ 224) ++ payload)

def pkCrcOk (p : Packet) : Bool := (e2eCrc p.hdr p.payload).toNat == pkCrc p

/-- The fields a packet is made from. -/
structure PacketArgs where
  dst : Nat
  kind : Nat
  ctx : Nat := 0
  phase : Nat := 0
  group : Nat := 0
  epoch : Nat := 0
  barge : Nat := 0
  planPos : Nat := 0
  step : Nat := 0
  pkt : Nat := 0
  payload : List Byte := []

/-- R320: a packet from this module. -/
def State.packet (s : State) (a : PacketArgs) : Packet :=
  let h : BitVec 256 := BitVec.ofNat 256 (packFields [(16, a.dst % 8192), (16, s.get F.LINK_ID_MODULE_ID), (4, a.kind),
    (4, 15), (3, a.ctx), (5, a.phase % 4), (16, a.group % 1024), (32, a.epoch), (16, a.payload.length % 8192),
    (16, a.barge % 4096), (32, a.planPos), (32, a.step), (32, a.pkt)])
  ⟨BitVec.ofNat 256 (h.toNat + (e2eCrc h a.payload).toNat * 2 ^ 224), a.payload⟩

/-- The bytes of a packet on the wire. -/
def pkBytes (p : Packet) : List Byte := leBytes 32 p.hdr.toNat ++ p.payload

/-- Packet kinds. -/
def pkPut : Nat := 1
def pkPutAck : Nat := 2
def pkSched : Nat := 3
def pkStretch : Nat := 4
def pkAbort : Nat := 5
def pkAgree : Nat := 6
def pkMgmt : Nat := 7

/-! ## Ports and flits -/

def portDefault (_ : Nat) : Port := {}

def State.port (s : State) (p : Nat) : Port := tblGet portDefault s.link.ports p
def State.setPort (s : State) (p : Nat) (x : Port) : State :=
  { s with link := { s.link with ports := tblSet portDefault s.link.ports p x } }
def State.updPort (s : State) (p : Nat) (f : Port → Port) : State := s.setPort p (f (s.port p))

/-- LINK_PORT_STATUS_p.STATE by global port number. -/
def portState (p : Nat) : Fld := F.LINK_PORT_STATUS_STATE (p / 16) (p % 16)
def portDown : Nat := 0
def portTraining : Nat := 1
def portUp : Nat := 2
def portHeldFabric : Nat := 3
def portHeldPartner : Nat := 4
def portDisabled : Nat := 5

/-- R324: port `p` takes STATE `v`, and LINK_PORT_STATUS_p shows it. -/
def State.setPortState (s : State) (p v : Nat) : State := (s.updPort p (fun x => { x with phase := v })).put (portState p) v

def State.isUp (s : State) (p : Nat) : Bool := (s.port p).phase == portUp
def State.upPorts (s : State) : List Nat := (List.range 32).filter s.isUp
def State.portEnabled (s : State) (p : Nat) : Bool := s.flag (F.LINK_PORT_CTL_EN (p / 16) (p % 16))

/-- Table 12-4: receive buffers in flits. -/
def laneBuffer (vl : Nat) : Nat := if vl = 0 then 512 else if vl = 1 then 256 else if vl = 2 then 32 else 64

def owedDefault (_ : Nat) : Nat := 0

def Port.credit (x : Port) (vl : Nat) : Nat := tblGet laneBuffer x.credits vl
def Port.owes (x : Port) (vl : Nat) : Nat := tblGet owedDefault x.owed vl

/-- R313: a flit with its CRC. -/
def flitOf (ty vl : Nat) (sop eop : Bool) (seq ack crVl crCount : Nat) (payload : List Byte) : BitVec 2048 :=
  let body := packFields [(4, ty), (2, vl), (1, sop.toNat), (1, eop.toNat), (12, seq), (12, ack), (2, crVl), (8, crCount),
    (8, if ty = 1 then payload.length else 0), (14, 0)] + 2 ^ 64 * (ofLe payload % 2 ^ 1952)
  BitVec.ofNat 2048 (body + 2 ^ 2016 * (crc32c (leBytes 252 body)).toNat)

/-- The flit's fields. -/
def flType (f : BitVec 2048) : Nat := recBits f 0 0 4
def flVl (f : BitVec 2048) : Nat := recBits f 0 4 2
def flSop (f : BitVec 2048) : Bool := recBits f 0 6 1 == 1
def flEop (f : BitVec 2048) : Bool := recBits f 0 7 1 == 1
def flSeq (f : BitVec 2048) : Nat := recBits f 0 8 12
def flAck (f : BitVec 2048) : Nat := recBits f 0 20 12
def flCrVl (f : BitVec 2048) : Nat := recBits f 0 32 2
def flCrCount (f : BitVec 2048) : Nat := recBits f 0 34 8
def flLen (f : BitVec 2048) : Nat := recBits f 0 42 8
def flKind (f : BitVec 2048) : Nat := recBits f 8 0 8
def flPayload (f : BitVec 2048) (n : Nat) : List Byte := (List.range n).map (fun i => recByte f (8 + i))

/-- R315: CRC, TYPE and reserved fields; a DATA flit's LEN is 1 to 244, and 244 unless EOP. -/
def flitOk (f : BitVec 2048) : Bool :=
  (crc32c (leBytes 252 (f.toNat % 2 ^ 2016))).toNat == recBits f 252 0 32 && decide (flType f ≤ 2) &&
    recBits f 0 50 14 == 0 &&
    (flType f != 1 || (decide (1 ≤ flLen f) && decide (flLen f ≤ 244) && (flEop f || flLen f == 244)))

/-- R318: credits to return with the next flit: the lowest lane that has any. -/
def Port.creditReturn (x : Port) : Nat × Nat :=
  match (List.range 4).find? (fun vl => x.owes vl != 0) with
  | some vl => (vl, min 255 (x.owes vl))
  | none => (0, 0)

/-- R312: the eight transcoded blocks of a flit, in ascending byte order, each behind its header bit 0. -/
def flitBlocks (f : BitVec 2048) : List (BitVec 257) := (List.range 8).map (fun i => f.extractLsb' (256 * i) 256 ++ 0#1)

/-- R311, R312: the blocks of one RS(544,514) codeword: 514 symbols of 10 bits hold 20 blocks of 257 (log 73). -/
def codewordBlocks : Nat := 20

/-- R312: the blocks of a codeword that is being filled, after a flit's; a full codeword goes out. -/
def fillCodeword (fill : List (BitVec 257)) (f : BitVec 2048) : List (BitVec 257) :=
  let bs := fill ++ flitBlocks f
  if codewordBlocks ≤ bs.length then bs.drop codewordBlocks else bs

/-- A flit leaves port `p`, with the port's ACK and credit fields. -/
def State.sendFlit (s : State) (p ty vl : Nat) (sop eop : Bool) (seq : Nat) (payload : List Byte) : State :=
  let x := s.port p
  let (cv, cc) := x.creditReturn
  let f := flitOf ty vl sop eop seq ((x.rxSeq + 4095) % 4096) cv cc payload
  let x := { x with owed := tblSet owedDefault x.owed cv (x.owes cv - cc), txFill := fillCodeword x.txFill f }
  (s.setPort p x).emit (.flit p f)

/-- R316: a DATA flit leaves port `p` with SEQ `seq`, and stays in the replay buffer: the lane, the packet marks and the
bytes are those of `f`, and it has been replayed `times` times. -/
def State.sendData (s : State) (p seq times : Nat) (f : BitVec 2048) : State :=
  (s.updPort p (fun x => { x with replay := x.replay ++ [⟨seq, f, times⟩] })).sendFlit p 1 (flVl f) (flSop f) (flEop f) seq
    (flPayload f (flLen f))

/-- A CONTROL flit (Table 12-3) leaves port `p`. -/
def State.sendControl (s : State) (p kind : Nat) (content : List Byte) : State :=
  s.sendFlit p 2 0 false false 0 (BitVec.ofNat 8 kind :: content)

/-- R319: the lane whose flit goes next among those waiting with a credit: sync first, then 8 collective, 8 data and 1
management in turn. -/
def Port.nextLane (x : Port) : Option Nat :=
  let can := fun vl => x.waiting.any (fun w => w.1 == vl) && decide (0 < x.credit vl)
  let turn := fun i => if i % 17 < 8 then 1 else if i % 17 < 16 then 0 else 3
  if can 2 then some 2
  else ((List.range 17).find? (fun i => can (turn (x.arb + i)))).map (fun i => turn (x.arb + i))

/-- The first waiting flit of lane `vl` taken from a waiting list. -/
def takeLane (vl : Nat) : List (Nat × BitVec 2048) → Option (BitVec 2048 × List (Nat × BitVec 2048))
  | [] => none
  | (v, f) :: t => if v = vl then some (f, t) else (takeLane vl t).map (fun (g, r) => (g, (v, f) :: r))

/-- R316, R318: waiting DATA flits leave while there are credits, room in the replay buffer and no equalisation step. -/
def State.pump (s : State) (p : Nat) : Nat → State
  | 0 => s
  | n + 1 =>
    let x := s.port p
    if !s.isUp p || x.equalising || decide (1024 ≤ x.replay.length) then s
    else match x.nextLane with
      | none => s
      | some vl => match takeLane vl x.waiting with
        | none => s
        | some (f, rest) =>
          let arb := if vl = 2 then x.arb else if vl = 1 then (if x.arb % 17 < 8 then x.arb + 1 else 1)
            else if vl = 0 then (if x.arb % 17 < 8 then 9 else x.arb + 1) else 0
          let credits := tblSet laneBuffer x.credits vl (x.credit vl - 1)
          let s := s.setPort p { x with waiting := rest, txSeq := (x.txSeq + 1) % 4096, arb := arb % 17, credits := credits }
          (s.sendData p x.txSeq 0 f).pump p n

/-- A packet cut into the payloads of its flits. -/
def cutFlits (bs : List Byte) : List (List Byte) := chunks 244 ((bs.length + 243) / 244) bs

/-- A packet queued on lane `vl` of port `p`, and what may leave at once. -/
def State.queuePacket (s : State) (p vl : Nat) (pk : Packet) : State :=
  let cs := cutFlits (pkBytes pk)
  let fs := (List.range cs.length).zip cs |>.map (fun (i, c) => (vl, flitOf 1 vl (i == 0) (i + 1 == cs.length) 0 0 0 0 c))
  let s := s.updPort p (fun x => { x with waiting := x.waiting ++ fs })
  s.pump p (s.port p).waiting.length

/-- R322: the port by which link die `d` forwards to module `m`. -/
def State.route (s : State) (d m : Nat) : Option Nat :=
  if s.flag (F.LINK_ROUTE_VALID_A d m) && s.isUp (s.get (F.LINK_ROUTE_PORT_A d m)) then some (s.get (F.LINK_ROUTE_PORT_A d m))
  else if s.flag (F.LINK_ROUTE_VALID_B d m) && s.isUp (s.get (F.LINK_ROUTE_PORT_B d m)) then
    some (s.get (F.LINK_ROUTE_PORT_B d m))
  else none

/-- R322: a packet routed from link die `d` on lane `vl`, or dropped and counted. -/
def State.routePacket (s : State) (d vl : Nat) (pk : Packet) : State :=
  match s.route d (pkDst pk) with
  | some p => s.queuePacket p vl pk
  | none =>
    let s := s.count R.LINK_NOROUTE 1
    if s.link.noRoute.contains (pkDst pk) then s
    else ({ s with link := { s.link with noRoute := (pkDst pk) :: s.link.noRoute } } : State).event 0x0404#16 (source 7 d)
      [(16, (pkDst pk)), (8, (pkKind pk))]

/-- A packet that this module originates: LD0's table routes it (R322); one for the module itself is not sent. -/
def State.sendPacket (s : State) (vl : Nat) (a : PacketArgs) : State :=
  let pk := s.packet a
  if (pkDst pk) = s.get F.LINK_ID_MODULE_ID then s else s.routePacket 0 vl pk

/-- R326: the parent port in use. -/
def State.parentPort (s : State) : Option Nat :=
  if !s.flag F.LINK_TICK_CFG_PARENT_VALID then none
  else
    let p := s.get F.LINK_TICK_CFG_PARENT_PORT
    let a := s.get F.LINK_TICK_CFG_ALT_PORT
    if s.isUp p then some p else if s.flag F.LINK_TICK_CFG_ALT_VALID && s.isUp a then some a else none

/-- R36: FTC lock is lost. -/
def State.unlockFtc (s : State) : State :=
  let s := { s with link := { s.link with goodEstimates := 0 } }
  if s.flag F.LOCK_STATUS_FTC_LOCKED then
    ((s.off F.LOCK_STATUS_FTC_LOCKED).on F.LOCK_EVENTS_FTC_UNLOCK).event 0x0108#16 srcPackage [(32, s.link.worstOffset)]
  else s

/-- R327: with neither parent port up the lock is lost; the tick master has none and needs none. -/
def State.checkParents (s : State) : State :=
  if !s.flag F.LOCK_CTL_TICK_MASTER && s.parentPort.isNone then s.unlockFtc else s

def State.childPorts (s : State) : List Nat := (List.range 32).filter (fun p => (s.get F.LINK_TICK_CHILD_MAP).testBit p)

/-! ## Groups -/

/-- The member of rank `r` of group `g` (R334). -/
def memberDefault (_ : Nat) : BitVec 16 := 0
def State.member (s : State) (g r : Nat) : Nat :=
  (tblGet memberDefault s.link.members (s.get (F.LINK_GRP_MEM_MEMBER_FIRST g) + r)).toNat
def State.groupSize (s : State) (g : Nat) : Nat := s.get (F.LINK_GRP_CFG_SIZE g)
def State.groupRank (s : State) (g : Nat) : Nat := s.get (F.LINK_GRP_CFG_RANK g)

/-- R335: group `g` is bound to context `c` with `n` members. -/
def State.groupBound (s : State) (c g n : Nat) : Bool :=
  s.flag (F.LINK_GRP_CFG_VALID g) && s.get (F.LINK_GRP_CFG_CONTEXT g) == c && s.groupSize g == n

/-! ## Streams -/

/-- R337: whether a packet belongs to a stream. -/
def pkKey (p : Packet) : StreamKey := ⟨pkSrc p, pkCtx p, pkGroup p, pkBarge p, pkPlanPos p, pkStep p, pkPhase p⟩

/-- R337: a received PUT kept in its stream. -/
def putInto (k : StreamKey) (staged : Bool) (n : Nat) (bs : List Byte) : List Stream → List Stream
  | [] => [⟨k, staged, [(n, bs)]⟩]
  | t :: ts => if t.key = k then { t with packets := t.packets ++ [(n, bs)] } :: ts else t :: putInto k staged n bs ts

/-- The bytes of a stream of `len` bytes once all of its packets are there. -/
def State.streamBytes (s : State) (k : StreamKey) (len : Nat) : Option (List Byte) :=
  let need := (len + 4095) / 4096
  let ps := ((s.link.streams.find? (fun t => t.key == k)).map (fun t => t.packets)).getD []
  if (List.range need).all (fun i => (ps.lookup i).isSome) then
    some ((List.range need).flatMap (fun i => (ps.lookup i).getD []))
  else none

/-- Bytes held in the collective staging area (R337). -/
def State.stagedBytes (s : State) : Nat :=
  ((s.link.streams.filter (fun t => t.staged)).map (fun t => (t.packets.map (fun p => p.2.length)).sum)).sum

/-- R337: a stream cut into PUT packets, each kept until acknowledged (the fields of `a` but its payload and PKT). -/
def State.sendStream (s : State) (vl : Nat) (a : PacketArgs) (bs : List Byte) : State :=
  let cs := chunks 4096 ((bs.length + 4095) / 4096) bs
  ((List.range cs.length).zip cs).foldl (fun s (i, c) =>
    let a := { a with pkt := i, payload := c }
    let og : Outgoing := ⟨s.link.nextId, vl, s.packet a⟩
    let s := { s with link := { s.link with outgoing := s.link.outgoing ++ [og], nextId := s.link.nextId + 1 } }
    s.sendPacket vl a) s

/-! ## Aborts (R333) -/

/-- The job group of a context: the group its VOTE barges name (R333). -/
def jobGroup (im : Image) : Nat :=
  (((im.plan.flatMap (fun m => m.barges)).find? (fun b => bClass b == 8)).map voGroup).getD 0

def State.jobGroupOf (s : State) (c : Nat) : Nat := (((s.ctx c).image).map jobGroup).getD 0
def State.epoch (s : State) (c : Nat) : Nat := (s.reg (R.LINK_CTX_EPOCH c)).toNat

/-- R333: ABORT for context `c`'s job sent on every up port. -/
def State.sendAbort (s : State) (c : Nat) : State :=
  let pl := leBytes 2 (s.jobGroupOf c) ++ leBytes 4 (s.epoch c) ++ leBytes 8 s.index
  let pk := s.packet { dst := 0, kind := pkAbort, ctx := c, group := s.jobGroupOf c, epoch := s.epoch c, payload := pl }
  s.upPorts.foldl (fun s p => s.queuePacket p 2 pk) s

end Sys2Proof.Machine
end

