-- ==== Sys2Proof/Machine/Streams.lean ====
section
/-! DEFINITION. The streams of COLLECTIVE and VOTE barges (Table 12-9): who sends what to whom, and which of a member's
streams have arrived. -/

namespace Sys2Proof.Machine

/-- R338: the shard of rank `j` of `r` over `n` elements: first element and count. -/
def shard (n r j : Nat) : Nat × Nat := (j * n / r, (j + 1) * n / r - j * n / r)

/-- R257: the element count of a tensor that is taken linearly. -/
def linCount (d : BitVec 512) : Nat := tdDim d 0 * tdDim d 1 * tdDim d 2

/-- R257: the index of linear element `e` of a tensor. -/
def linIx (d : BitVec 512) (e : Nat) : Ix :=
  (e % tdDim d 0, e / tdDim d 0 % tdDim d 1, e / (tdDim d 0 * tdDim d 1), 0, 0)

/-- The communication group that a COLLECTIVE or VOTE barge names. -/
def bGroup (b : BitVec 1024) : Nat := if bClass b = 8 then voGroup b else coGroup b

/-- R338: the elements that a COLLECTIVE barge's shards divide. -/
def coElements (im : Image) (b : BitVec 1024) : Nat := if bOp b = 6 ∨ bOp b = 7 then coCount b else linCount (imTd im (coIn b))

/-- Table 12-9: the bytes of the stream of `phase` from rank `i` to rank `j` of `r`; 0 where there is none. -/
def streamLen (im : Image) (b : BitVec 1024) (r phase i j : Nat) : Nat :=
  if i = j then 0
  else if bClass b = 8 then
    let n := if bOp b = 0 then 256 else 32
    if phase = 0 then (if j = 0 then n else 0) else (if i = 0 then n else 0)
  else
    let op := bOp b
    let n := coElements im b
    let w := if tdFormat (imTd im (coOut b)) = 0x20 then 2 else 4
    if phase = 0 then
      if op = 0 ∨ op = 1 ∨ op = 6 then 4 * (shard n r j).2
      else if op = 7 then 16 * (shard n r j).2
      else if op = 2 ∨ op = 5 then coBytes b
      else if op = 3 then (if i = coArg b then coBytes b else 0)
      else if op = 4 then (if (i + coArg b) % r = j then coBytes b else 0)
      else 0
    else if op = 1 then w * (shard n r i).2
    else if op = 6 then 4 * (shard n r i).2
    else if op = 7 then 16 * (shard n r i).2
    else 0

/-- The key of the stream of `phase` that rank `i` of the barge's group sends. -/
def State.streamKey (s : State) (b : Barge) (phase i : Nat) : StreamKey :=
  ⟨s.member (bGroup b.desc) i, b.ctx, bGroup b.desc, b.ownIndex, b.planPos, (s.reg64 (R.TRAIN_STEP b.ctx)).toNat % 2 ^ 32,
    phase⟩

/-- The bytes of a stream addressed to this member, once all are there; `some []` where there is no such stream. -/
def State.arrived (s : State) (b : Barge) (phase i : Nat) : Option (List Byte) :=
  let g := bGroup b.desc
  let len := streamLen (s.image b.ctx) b.desc (s.groupSize g) phase i (s.groupRank g)
  if len = 0 then some []
  else (s.streamBytes (s.streamKey b phase i) len).map (·.take len)

/-- R345: the ranks of which a stream to this member has not fully arrived, in ascending order. -/
def State.missingRanks (s : State) (b : Barge) : List Nat :=
  (List.range (s.groupSize (bGroup b.desc))).filter (fun i => (s.arrived b 0 i).isNone || (s.arrived b 1 i).isNone)

/-- R336, R339: the fields that every packet of a barge's stream carries. -/
def State.bargePacket (s : State) (b : Barge) (phase j : Nat) : PacketArgs :=
  { dst := s.member (bGroup b.desc) j, kind := pkPut, ctx := b.ctx, phase := phase, group := bGroup b.desc,
    epoch := s.epoch b.ctx, barge := b.ownIndex, planPos := b.planPos,
    step := (s.reg64 (R.TRAIN_STEP b.ctx)).toNat }

/-- R339: a stream sent to rank `j`; a member sends none to itself. Streams of a VOTE go on lane 1 (Table 12-4). -/
def State.sendTo (s : State) (b : Barge) (phase j : Nat) (bs : List Byte) : State :=
  if j = s.groupRank (bGroup b.desc) ∨ bs.isEmpty then s
  else s.sendStream (if b.cls = 8 then 1 else 0) (s.bargePacket b phase j) bs

/-- Whether a PUT sent belongs to a barge. -/
def Barge.sent (b : Barge) (o : Outgoing) : Bool :=
  pkCtx o.packet == b.ctx && pkBarge o.packet == b.ownIndex && pkPlanPos o.packet == b.planPos &&
    pkGroup o.packet == bGroup b.desc

/-- R343: every PUT that a barge sent has been acknowledged. -/
def State.allAcked (s : State) (b : Barge) : Bool := s.link.outgoing.all (fun o => !b.sent o)

/-- R337: the PUTs of a barge that has ended are sent no more. -/
def State.forgetPuts (s : State) (b : Barge) : State :=
  { s with link := { s.link with outgoing := s.link.outgoing.filter (fun o => !b.sent o) } }

/-- Whether a stream is one of a barge's, in this step of its context. -/
def State.feeds (s : State) (b : Barge) (k : StreamKey) : Bool :=
  k.ctx == b.ctx && k.group == bGroup b.desc && k.barge == b.ownIndex && k.planPos == b.planPos &&
    k.step == (s.reg64 (R.TRAIN_STEP b.ctx)).toNat % 2 ^ 32

/-- R337: the PUT_ACK that answers packet `n` of a stream. -/
def State.ackPut (s : State) (k : StreamKey) (n : Nat) : State :=
  s.sendPacket 1 {
    dst := k.src, kind := pkPutAck, ctx := k.ctx, phase := k.phase, group := k.group, epoch := s.epoch k.ctx
    barge := k.barge, planPos := k.planPos, step := k.step, pkt := n }

/-- R337: a barge starts: its packets in the staging area are placed, and answered. -/
def State.placeStaged (s : State) (b : Barge) : State :=
  let mine := s.link.streams.filter (fun t => t.staged && s.feeds b t.key)
  let s := { s with link := { s.link with
    streams := s.link.streams.map (fun t => if s.feeds b t.key then { t with staged := false } else t) } }
  mine.foldl (fun s t => t.packets.foldl (fun s p => s.ackPut t.key p.1) s) s

/-- R336, R397: the streams and the PUTs of context `c` are freed. -/
def State.dropStreams (s : State) (c : Nat) : State :=
  { s with link := { s.link with
    streams := s.link.streams.filter (fun t => t.key.ctx != c)
    outgoing := s.link.outgoing.filter (fun o => pkCtx o.packet != c) } }

end Sys2Proof.Machine
end

