-- ==== Sys2Proof/Machine/Products.lean ====
section
/-! DEFINITION. The product that a MATRIX task forms (R100 to R102, R122 to R137), group by group, and the operands that the
cluster buffers keep for it (R99). -/

namespace Sys2Proof.Machine

/-! ## What a MATRIX barge reads -/

/-- The operands of a MATRIX barge in one step. -/
structure Product where
  a : View
  b : View
  m : Nat
  n : Nat
  k : Nat
  split : Nat
  comp : Bool
  family : Bool
  sluice : Option Sluice
  counts : List Nat
  deriving DecidableEq, Repr

/-- R130: the sluice table that applies: the one that B names, when A is in a block format. -/
def State.productOf (s : State) (f : Frame) (d : BitVec 1024) (counts : List Nat) : Product :=
  let a := s.view f (mxA d)
  let sl := if isBlockFormat a.fmt then s.sluice f.ctx f.im (tdSluice (imTd f.im (mxB d))) else none
  ⟨a, s.view f (mxB d), mxM d, mxN d, mxK d, max 1 (mxSplitK d), mxComp d, mxFamily d, sl, counts⟩

/-- R102: rows of batch `b` that hold data. -/
def Product.rows (p : Product) (b : Nat) : Nat := min p.m (p.counts.getD b p.m)

/-- A BF16 value with the bound exponent of R124. -/
def bf16Side (w : Nat) : Fv × Option Int :=
  match unpackFv fmtBf16 w with
  | .fin n m e => (.fin n m e, if m = 0 then none else some (e + (Nat.log2 m : Nat) + 1))
  | v => (v, none)

/-- R123, R130: A's side at row `m` and position `k` of batch `b`. -/
def Product.sideA (p : Product) (rd : Nat → Byte) (b m k : Nat) : Fv × Option Int :=
  if p.k ≤ k ∨ p.rows b ≤ m then (.fin false 0 0, none)
  else match p.sluice.bind (fun t => t.laneAddr (b * p.a.dim 1 + m) k) with
    | some x => bf16Side (leAt rd x 2)
    | none => (factorAt rd p.a (k, m, b, 0, 0), boundAt rd p.a (k, m, b, 0, 0))

/-- R123: B's side at column `n` and position `k` of batch `b`. -/
def Product.sideB (p : Product) (rd : Nat → Byte) (b n k : Nat) : Fv × Option Int :=
  if p.k ≤ k ∨ p.n ≤ n then (.fin false 0 0, none)
  else (factorAt rd p.b (k, n, b, 0, 0), boundAt rd p.b (k, n, b, 0, 0))

def Product.pos (p : Product) (rd : Nat → Byte) (b m n k : Nat) : Pos :=
  let x := p.sideA rd b m k
  let y := p.sideB rd b n k
  ⟨x.1, y.1, x.2, y.2⟩

/-- R126, R134: the window of the barge's mode. -/
def Product.shape (p : Product) : WindowShape := if p.family then familyWindow else normalWindow

/-- The positions of group (or sub-group) `g` for one element. -/
def Product.group (p : Product) (rd : Nat → Byte) (b m n g : Nat) : List Pos :=
  (List.range p.shape.group).map (fun i => p.pos rd b m n (g * p.shape.group + i))

/-- R101: the groups of segment `j`, each as its sub-groups in family-compatible mode. -/
def Product.groups (p : Product) (j : Nat) : List Nat :=
  let gs := segmentGroups ((p.k + 255) / 256) p.split j
  if p.family then gs.flatMap (fun g => (List.range 8).map (fun i => 8 * g + i)) else gs

/-- R122: `segment_total`. -/
def Product.segment (p : Product) (rd : Nat → Byte) (b m n j : Nat) : Total :=
  addGroups p.comp p.shape (p.group rd b m n) (p.groups j) {}

/-! ## Tasks and tiles -/

def Product.tm (p : Product) : Nat := (p.m + 127) / 128
def Product.tn (p : Product) : Nat := (p.n + 127) / 128

/-- R101: batch, tile row, tile column and segment of a task. -/
def Product.task (p : Product) (t : Nat) : Nat × Nat × Nat × Nat :=
  (t / p.split / p.tn / p.tm, t / p.split / p.tn % p.tm, t / p.split % p.tn, t % p.split)

/-- R101, R102: the live tasks of a barge of `batch` batches, in ascending order. -/
def Product.live (p : Product) (batch : Nat) : List Nat :=
  (List.range (batch * p.tm * p.tn * p.split)).filter (fun t =>
    let (b, tm, _, _) := p.task t
    decide (128 * tm < p.rows b))

/-- The elements of a tile, row by row. -/
def tileElems : List (Nat × Nat) := (List.range 128).flatMap (fun r => (List.range 128).map (fun c => (r, c)))

/-- R126, R134: the sub-groups of group `g`: in family-compatible mode its eight, else itself. -/
def Product.subs (p : Product) (g : Nat) : List Nat := if p.family then (List.range 8).map (fun i => 8 * g + i) else [g]

/-- The groups of the segment of task `t` (R101). -/
def Product.taskGroups (p : Product) (t : Nat) : List Nat := segmentGroups ((p.k + 255) / 256) p.split (t % p.split)

/-- R127, R134: sub-group `g` of task `t` promoted into the totals of its tile, and counted if the sticky bit of some element
was set (R126). -/
def Product.promoteSub (p : Product) (rd : Nat → Byte) (t : Nat) (x : Totals × Nat) (g : Nat) : Totals × Nat :=
  let (b, tm, tn, _) := p.task t
  let rs := (tileElems.zip x.1).map (fun ((r, c), old) =>
    if 128 * tm + r < p.m ∧ 128 * tn + c < p.n then
      addGroup p.comp p.shape old (p.group rd b (128 * tm + r) (128 * tn + c) g)
    else (old, false))
  (rs.map (·.1), x.2 + (rs.any (·.2)).toNat)

/-- The totals of a tile that has promoted nothing. -/
def noTotals : Totals := List.replicate 16384 {}

/-- R127, R136: the groups `gs` of task `t` promoted in order into the totals `ts`, and how many of them were sticky. -/
def Product.promoteGroups (p : Product) (rd : Nat → Byte) (t : Nat) (gs : List Nat) (ts : Totals) : Totals × Nat :=
  (gs.flatMap p.subs).foldl (p.promoteSub rd t) (if ts.isEmpty then noTotals else ts, 0)

/-! ## The cluster buffer -/

/-- R82, R99: the storage tile of a view that holds an index, and its scale plane area. -/
def tileRegions (v : View) (ix : Ix) : List (Nat × Nat) :=
  (v.base + tileOf v ix * tileBytes v.fmt, tileBytes v.fmt) ::
    (if isBlockFormat v.fmt then [(v.scaleBase + tileOf v ix * scaleBytes v.fmt, scaleBytes v.fmt)] else [])

/-- R99: the operand tiles that task `t` reads: for each group of its segment one of A and one of B. -/
def Product.operandTiles (p : Product) (t : Nat) : List (Nat × Nat) :=
  let (b, tm, tn, _) := p.task t
  (p.taskGroups t).flatMap (fun g => tileRegions p.a (256 * g, 128 * tm, b, 0, 0) ++ tileRegions p.b (256 * g, 128 * tn, b, 0, 0))

def bufferDefault (_ : Nat) : List CachedTile := []
/-- What the cluster buffer of global cluster `g` keeps. -/
def State.buffer (s : State) (g : Nat) : List CachedTile := tblGet bufferDefault s.array.buffers g

/-- A storage tile as memory holds it now. -/
def State.cacheTile (s : State) (a n : Nat) : CachedTile :=
  ⟨a, n, s.mem.cells.filter (fun c => decide (a ≤ c.1) && decide (c.1 < a + n))⟩

/-- R99: the tiles of some regions come into the cluster buffer of cluster `g`, those that it does not keep yet. -/
def State.fetchTiles (s : State) (g : Nat) (regions : List (Nat × Nat)) : State :=
  let have_ := s.buffer g
  let new := regions.eraseDups.filter (fun r => !have_.any (fun t => t.base == r.1))
  { s with array := { s.array with
    buffers := tblSet bufferDefault s.array.buffers g (have_ ++ new.map (fun r => s.cacheTile r.1 r.2)) } }

/-- R99: a byte as an engine of cluster `g` reads it: from the cluster buffer where that keeps it, else from memory. -/
def State.fetchByte (s : State) (g a : Nat) : Byte :=
  match (s.buffer g).find? (fun t => decide (t.base ≤ a) && decide (a < t.base + t.len)) with
  | some t => tblGet (memDefault s.mem.lost) t.cells a
  | none => s.byte a

end Sys2Proof.Machine
end

