-- ==== Sys2Proof/Machine/AttMath.lean ====
section
/-! DEFINITION. What an ATTENTION barge computes (spec/09 R223 to R239), as functions of its operands: documents and masks,
the streaming soft maximum, its join, the tasks, and the backward pass. -/

namespace Sys2Proof.Machine

/-! ## Documents, positions and masks -/

/-- R223: the starts of the documents of a boundary table from entry `i` on, or the first entry that breaks the rule. -/
def scanDocs (rd : Nat → Nat) (len : Nat) : Nat → Nat → List Nat → List Nat × Option Nat
  | 0, _, acc => (acc, none)
  | n + 1, i, acc =>
    let e := rd i
    if i = 0 then (if e = 0 then scanDocs rd len n 1 [0] else ([0], some 0))
    else if e = 0xFFFFFFFF then (acc, none)
    else if acc.getLastD 0 < e ∧ e < len then scanDocs rd len n (i + 1) (acc ++ [e])
    else ([0], some i)

/-- What an ATTENTION barge works on. -/
structure AttJob where
  d : BitVec 1024
  q : View
  k : View
  v : View
  docs : List Nat
  len : Nat
  deriving DecidableEq, Repr

/-- The key-value head that query head `h` reads (R227). -/
def AttJob.kvHead (j : AttJob) (h : Nat) : Nat := h / max 1 (j.q.dim 2 / max 1 (j.k.dim 2))

/-- R228: the position of query row `r`, and of key index `i`. -/
def AttJob.qPos (j : AttJob) (r : Nat) : Nat := if r < atQSplit j.d then atQPos0 j.d + r else atQPos1 j.d + (r - atQSplit j.d)
def AttJob.kPos (j : AttJob) (i : Nat) : Nat := atKPos0 j.d + i

/-- R228: a query row that is not padding. -/
def AttJob.real (j : AttJob) (r : Nat) : Bool := decide (r < j.q.dim 1) && decide (j.qPos r < j.len)

/-- R223: the start of the document that contains a position. -/
def AttJob.docStart (j : AttJob) (p : Nat) : Nat := j.docs.foldl (fun a e => if e ≤ p then e else a) 0

/-- Table 09-2. -/
def AttJob.maskOk (j : AttJob) (q k : Nat) : Bool :=
  let doc := j.docStart k == j.docStart q
  let causal := decide (k ≤ q)
  let near := decide (q - k < atMaskParam j.d)
  match atMask j.d with
  | 0 => true
  | 1 => causal
  | 2 => doc
  | 3 => doc && causal
  | 4 => causal && near
  | 5 => doc && causal && near
  | _ => doc && (causal || decide (k - j.docStart q < atMaskParam j.d))

/-- R229: whether query row `r` sees key index `i`. -/
def AttJob.sees (j : AttJob) (r i : Nat) : Bool :=
  decide (i < j.k.dim 1) && decide (j.kPos i < j.len) && j.maskOk (j.qPos r) (j.kPos i)

/-- The key indices of a key tile. -/
def tileKeys (kt : Nat) : List Nat := (List.range 256).map (fun i => 256 * kt + i)

/-- R230: a pair of a query tile and a key tile that no real row of the one sees any key of the other. -/
def AttJob.skips (j : AttJob) (tq kt : Nat) : Bool :=
  (List.range 128).all (fun r => !j.real (128 * tq + r) || (tileKeys kt).all (fun i => !j.sees (128 * tq + r) i))

def AttJob.tq (j : AttJob) : Nat := (j.q.dim 1 + 127) / 128

/-- R231: the key tiles of segment `i`. -/
def AttJob.segment (j : AttJob) (i : Nat) : List Nat :=
  let n := atKtCount j.d
  let s := max 1 (atSplit j.d)
  (List.range ((i + 1) * n / s - i * n / s)).map (fun t => atKtFirst j.d + i * n / s + t)

/-! ## Tile states and row states -/

/-- Rounding of an exact value to FP32 with +0 for a zero result (R234). -/
def roundPlus (x : Fv) : BitVec 32 := let r := to32 x; if r &&& 0x7FFFFFFF#32 = 0 then 0 else r

/-- An FP32 value times 2^k, exactly. -/
def shiftFv (w : BitVec 32) (k : Int) : Fv := (fv32 w).mul (.fin false 1 k)

/-- R234: `combine`; the first state holds earlier keys. -/
def RowState.combine : RowState → RowState → RowState
  | .nan, _ => .nan
  | _, .nan => .nan
  | .empty, b => b
  | a, .empty => a
  | .inf n o, .inf n' o' => .inf (n + n') (List.zipWith (fun x y => roundPlus ((fv32 x).add (fv32 y))) o o')
  | .inf n o, .finite _ _ _ => .inf n o
  | .finite _ _ _, .inf n o => .inf n o
  | .finite m l o, .finite m' l' o' =>
    let x := max m m'
    let f := fun a b => roundPlus ((shiftFv a (m - x)).add (shiftFv b (m' - x)))
    .finite x (f l l') (List.zipWith f o o')

/-- A factor of a product: its value and its bound exponent. -/
abbrev Side := Fv × Option Int

/-- The side that a stored tensor gives at an index. -/
def sideAt (rd : Nat → Byte) (v : View) (ix : Ix) : Side := (factorAt rd v ix, boundAt rd v ix)

/-- A group whose sides are given position by position. -/
def groupOf (xs ys : List Side) : List Pos := List.zipWith (fun x y => (⟨x.1, y.1, x.2, y.2⟩ : Pos)) xs ys

/-- R122, R126: the total of a product of one group, and its sticky bit. -/
def oneGroup (xs ys : List Side) : Total × Bool := addGroup false normalWindow {} (groupOf xs ys)

/-- R233: the score product of row `r` of head `h` with key index `i`. -/
def AttJob.scoreGroup (j : AttJob) (rd : Nat → Byte) (h r i : Nat) : Total × Bool :=
  oneGroup ((List.range (j.q.dim 0)).map (fun x => sideAt rd j.q (x, r, h, 0, 0)))
    ((List.range (j.q.dim 0)).map (fun x => sideAt rd j.k (x, i, j.kvHead h, 0, 0)))

/-- R233: z from the total of a score. -/
def AttJob.scoreOf (j : AttJob) (t : Total) : BitVec 32 :=
  to32 ((((fv32 (deliver t)).mul (coarseOf j.q)).mul (coarseOf j.k)).mul (fv32 (atSmScale j.d)))

/-- R233: z of row `r` of head `h` against key index `i`. -/
def AttJob.score (j : AttJob) (rd : Nat → Byte) (h r i : Nat) : BitVec 32 := j.scoreOf (j.scoreGroup rd h r i).1

/-- The format of P (R235). -/
def AttJob.pFmt (j : AttJob) : Nat := if atPD4 j.d then 0x01 else 0x12

/-- The bound exponent of a block's positions under a scale code. -/
def blockBound (f scale : Nat) : Option Int := (scaleBound f scale).map (fun u => elemBound f codebook0 + u + 2)

/-- Values quantised in blocks of 16 under coarse scale `c`, as the product that reads them decodes them; and the zero
blocks among them. Positions beyond the real ones take no part. -/
def quantSides (f : Nat) (c : BitVec 32) (xs : List (BitVec 32 × Bool)) : List Side × Nat :=
  let bs := (chunks 16 (xs.length / 16 + 1) xs).map (fun b => quantiseBlock f codebook0 c (b.map (fun x => ⟨fv32 x.1, x.2, false⟩)))
  (bs.flatMap (fun b => b.codes.map (fun k =>
    (match ue5m3 b.scale with | .nan => .nan | s => (decodeElem f codebook0 k).mul s, blockBound f b.scale))),
   (bs.map (fun b => b.count.zero)).sum)

/-- R235: the probabilities of an inf state: 1 at some keys, each block that holds a 1 at the scale that makes it exact. -/
def onesSides (f : Nat) (ones : List Bool) : List Side × Nat :=
  let bs := chunks 16 (ones.length / 16 + 1) ones
  let scale := if f = 0x12 then 0x38 else 0x68
  (bs.flatMap (fun b => b.map (fun x => (if x then .fin false 1 0 else .fin false 0 0,
      if b.any id then blockBound f scale else none))),
   (bs.filter (fun b => !b.any id)).length)

/-- The smallest integer not below a finite value. -/
def ceilFv : Fv → Int
  | .fin s m e =>
    let (a, b) := scale2 m e
    if s then -((a / max 1 b : Nat) : Int) else ((a + b - 1) / max 1 b : Nat)
  | _ => 0

/-- An integer as FP32. -/
def intFv (i : Int) : Fv := .fin (decide (i < 0)) i.natAbs 0

/-- R233: pv, per element of D, and whether the group of some element was sticky. -/
def AttJob.pv (j : AttJob) (rd : Nat → Byte) (h kt : Nat) (ps : List Side) : List (BitVec 32) × Bool :=
  let gs := (List.range (j.q.dim 0)).map (fun x => oneGroup ps ((tileKeys kt).map (fun i => sideAt rd j.v (i, x, j.kvHead h, 0, 0))))
  (gs.map (fun g => roundPlus (fv32 (deliver g.1))), gs.any (·.2))

/-- What one query row makes of one key tile (R233): the tile state, whether it raises the non-finite flag, its zero
probability blocks, and whether an element of its score product or of its value product was sticky (R126). -/
structure TileResult where
  state : RowState
  flag : Bool
  zeros : Nat
  scoreSticky : Bool
  valueSticky : Bool
  deriving DecidableEq, Repr

/-- R233: `tile_state`. -/
def AttJob.tileRow (j : AttJob) (rd : Nat → Byte) (h r kt : Nat) : TileResult :=
  let scores := (tileKeys kt).map (fun i => j.scoreGroup rd h r i)
  let sticky := scores.any (·.2)
  let seen := ((tileKeys kt).zip scores).map (fun (i, g) => if j.sees r i then some (j.scoreOf g.1) else none)
  let low := seen.any (· == some negInf32)
  let zs := seen.map (fun z => if z = some negInf32 then none else z)
  let vis := zs.filterMap id
  if vis.any isNan32 then ⟨.nan, true, 0, sticky, false⟩
  else if vis.contains posInf32 then
    let (ps, n) := onesSides j.pFmt (zs.map (· == some posInf32))
    let (o, st) := j.pv rd h kt ps
    ⟨.inf (vis.countP (· == posInf32)) o, true, n, sticky, st⟩
  else match vis with
    | [] => ⟨.empty, low, 0, sticky, false⟩
    | z :: rest =>
      let m := ceilFv (fv32 (rest.foldl fMax z))
      let p := fun z => fExp2 (fSub z (to32 (intFv m)))
      let keys := (tileKeys kt).map (fun i => decide (i < j.k.dim 1))
      let (ps, n) := quantSides j.pFmt one32 ((zs.map (fun z => (z.map p).getD 0)).zip keys)
      let (o, st) := j.pv rd h kt ps
      ⟨.finite m (rowTree fAdd 0 (ps.map (fun s => to32 s.1))) o, low, n, sticky, st⟩

/-- R230, R234: the key tiles of segment `seg` that a query tile takes: those not skipped, in ascending order. -/
def AttJob.keyTiles (j : AttJob) (tq seg : Nat) : List Nat := (j.segment seg).filter (fun kt => !j.skips tq kt)

/-- R234: what the key tiles of a segment leave of row `r`. -/
def AttJob.segRow (j : AttJob) (rd : Nat → Byte) (h r seg : Nat) : List TileResult :=
  (j.keyTiles (r / 128) seg).map (fun kt => j.tileRow rd h r kt)

/-- R234: the row state of a segment. -/
def segState (ts : List TileResult) : RowState := ts.foldl (fun a t => a.combine t.state) .empty

/-- R236: states joined by the tree of R128. -/
def joinStates (xs : List RowState) : RowState := treeFold RowState.combine .empty 32 xs

/-! ## Row results -/

/-- Table 09-3: o × cv ÷ l, exact, rounded once. -/
def rowQuot (o cv l : Fv) : BitVec 32 :=
  match o.mul cv, l with
  | .fin s m e, .fin _ n f =>
    if m = 0 ∨ n = 0 then 0
    else let (x, y) := scale2 m (e - f); let r := BitVec.ofNat 32 (packRatio fmt32 s x (y * n)); if r &&& 0x7FFFFFFF#32 = 0 then 0 else r
  | x, _ => to32 x

/-- Table 09-3: x of one element of D, and the row's TD_LSE. -/
def AttJob.rowValue (j : AttJob) (st : RowState) (x : Nat) : BitVec 32 :=
  match st with
  | .finite _ l o => rowQuot (fv32 (o.getD x 0)) (coarseOf j.v) (fv32 l)
  | .inf n o => rowQuot (fv32 (o.getD x 0)) (coarseOf j.v) (.fin false n 0)
  | .empty => 0
  | .nan => nan32

def rowLse : RowState → BitVec 32
  | .finite m l _ => to32 ((intFv m).add (fv32 (fLog2 l)))
  | .inf _ _ => posInf32
  | .empty => negInf32
  | .nan => nan32

/-! ## Tasks -/

/-- Tasks of a barge (R231): heads, query tiles and segments. -/
def attTasks (q : View) (split : Nat) : Nat := q.dim 2 * ((q.dim 1 + 127) / 128) * max 1 split

/-- The segments of a barge's tasks: those of FORWARD, PARTIAL and BACKWARD are SPLITKV, of the others one. -/
def AttJob.split (j : AttJob) : Nat := if bOp j.d = 2 ∨ bOp j.d = 4 then 1 else max 1 (atSplit j.d)

/-- R231: head, query tile and segment of a task. -/
def AttJob.task (j : AttJob) (t : Nat) : Nat × Nat × Nat := (t / j.split / j.tq, t / j.split % j.tq, t % j.split)

/-- R228: the real rows of a query tile. -/
def AttJob.tileRows (j : AttJob) (tq : Nat) : List Nat := ((List.range 128).map (· + 128 * tq)).filter j.real

/-- The heads and real rows of a barge. -/
def AttJob.rows (j : AttJob) : List (Nat × Nat) :=
  (List.range (j.q.dim 2)).flatMap (fun h => ((List.range (j.q.dim 1)).filter j.real).map (fun r => (h, r)))

/-- What a FORWARD or PARTIAL task makes of the real rows of its query tile. -/
def AttJob.taskRows (j : AttJob) (rd : Nat → Byte) (t : Nat) : List (List TileResult) :=
  let (h, tq, seg) := j.task t
  (j.tileRows tq).map (fun r => j.segRow rd h r seg)

/-- R126: the groups of such a task that were sticky for some element: per key tile the score product's and the value
product's. -/
def stickyTiles (n : Nat) (rows : List (List TileResult)) : Nat :=
  ((List.range n).map (fun k =>
    (rows.any (fun ts => (ts[k]?).any (·.scoreSticky))).toNat + (rows.any (fun ts => (ts[k]?).any (·.valueSticky))).toNat)).sum

/-- R99: the operand tiles that a FORWARD or PARTIAL task reads. -/
def AttJob.operandTiles (j : AttJob) (t : Nat) : List (Nat × Nat) :=
  let (h, tq, seg) := j.task t
  let kv := j.kvHead h
  tileRegions j.q (0, 128 * tq, h, 0, 0) ++ (j.keyTiles tq seg).flatMap (fun kt =>
    tileRegions j.k (0, 256 * kt, kv, 0, 0) ++ tileRegions j.k (0, 256 * kt + 128, kv, 0, 0) ++
      (List.range ((j.q.dim 0 + 127) / 128)).flatMap (fun x => tileRegions j.v (256 * kt, 128 * x, kv, 0, 0)))

/-! ## The backward pass -/

/-- What BACKWARD reads beside Q, K and V. -/
structure Grad where
  j : AttJob
  o : View
  lse : View
  dO : View
  deriving DecidableEq, Repr

/-- TD_LSE of a row. -/
def Grad.lseOf (g : Grad) (rd : Nat → Byte) (h r : Nat) : BitVec 32 := readF32 rd g.lse (r, h, 0, 0, 0)

/-- R239: p of row `r` against key index `i`. -/
def Grad.prob (g : Grad) (rd : Nat → Byte) (h r i : Nat) : BitVec 32 :=
  let l := g.lseOf rd h r
  if !g.j.real r || l == negInf32 || !g.j.sees r i then 0
  else if isNonfinite32 l then nan32
  else fExp2 (fSub (g.j.score rd h r i) l)

/-- R239: Δ of a row. -/
def Grad.delta (g : Grad) (rd : Nat → Byte) (h r : Nat) : BitVec 32 :=
  rowTree fAdd 0x80000000#32 ((List.range (g.j.q.dim 0)).map (fun x =>
    fMul (readF32 rd g.dO (x, r, h, 0, 0)) (readF32 rd g.o (x, r, h, 0, 0))))

/-- R228, R230, R239: whether row `r` of head `h` takes part in the products with key index `i`: it is real, its pair of tiles
is not wholly masked, and its TD_LSE is not −inf. -/
def Grad.takes (g : Grad) (rd : Nat → Byte) (h r i : Nat) : Bool :=
  g.j.real r && !g.j.skips (r / 128) (i / 256) && g.lseOf rd h r != negInf32

/-- R239: the product dO · Vᵀ of row `r` with key index `i`. -/
def Grad.dpGroup (g : Grad) (rd : Nat → Byte) (h r i : Nat) : Total × Bool :=
  oneGroup ((List.range (g.j.q.dim 0)).map (fun x => sideAt rd g.dO (x, r, h, 0, 0)))
    ((List.range (g.j.q.dim 0)).map (fun x => sideAt rd g.j.v (i, x, g.j.kvHead h, 0, 0)))

/-- R239: ds of row `r` against key index `i`; dp carries the coarse scales of dO and V. -/
def Grad.ds (g : Grad) (rd : Nat → Byte) (h r i : Nat) : BitVec 32 :=
  if !g.takes rd h r i || !g.j.sees r i then 0
  else
    let dp := to32 (((fv32 (deliver (g.dpGroup rd h r i).1)).mul (coarseOf g.dO)).mul (coarseOf g.j.v))
    let d := fMul (g.prob rd h r i) (fSub dp (g.delta rd h r))
    if d &&& 0x7FFFFFFF#32 = 0 then 0 else d

/-- The coarse scale of ds. -/
def Grad.dsCoarse (g : Grad) : BitVec 32 := to32 ((coarseOf g.dO).mul (coarseOf g.j.v))

/-- The query heads and rows of a key-value head, concatenated (Table 09-5). -/
def Grad.headRows (g : Grad) (hk : Nat) : List (Nat × Nat) :=
  ((List.range (g.j.q.dim 2)).filter (fun h => g.j.kvHead h == hk)).flatMap (fun h =>
    (List.range (g.j.q.dim 1)).map (fun r => (h, r)))

/-- The groups of 256 positions of a product. -/
def groups256 (xs ys : List Side) : List (List Pos) := chunks 256 (xs.length / 256 + 1) (groupOf xs ys)

/-- Groups summed under R127 over `split` segments (R101) and joined under R128. -/
def segTotal (split : Nat) (gs : List (List Pos)) : Total :=
  joinTree false 8 ((List.range split).map (fun i =>
    addGroups false normalWindow (fun k => gs.getD k []) (segmentGroups gs.length split i) {}))

/-- A position that takes no part in a product. -/
def noSide : Side := (.fin false 0 0, none)

/-- Sides at the positions where `on` holds, none elsewhere. -/
def maskSides (on : List Bool) (xs : List Side) : List Side := List.zipWith (fun o x => if o then x else noSide) on xs

/-- Table 09-5: the groups of dV and of dK at key index `i`, element `x`, of a key-value head: over the rows of its query
heads, p in the format of P or ds in D8E4, with what `other` reads. -/
def Grad.keyGroups (g : Grad) (rd : Nat → Byte) (hk i x f : Nat) (c : BitVec 32) (mine : Nat → Nat → BitVec 32) (other : View) :
    List (List Pos) :=
  let rows := g.headRows hk
  let on := rows.map (fun (h, r) => g.takes rd h r i)
  let ps := (quantSides f c (rows.map (fun (h, r) => (mine h r, true)))).1
  groups256 (maskSides on ps) (maskSides on (rows.map (fun (h, r) => sideAt rd other (x, r, h, 0, 0))))

/-- Table 09-5: the groups of dV. -/
def Grad.dvGroups (g : Grad) (rd : Nat → Byte) (hk i x : Nat) : List (List Pos) :=
  g.keyGroups rd hk i x g.j.pFmt one32 (fun h r => if g.takes rd h r i then g.prob rd h r i else 0) g.dO

/-- Table 09-5: the groups of dK. -/
def Grad.dkGroups (g : Grad) (rd : Nat → Byte) (hk i x : Nat) : List (List Pos) :=
  g.keyGroups rd hk i x 0x12 g.dsCoarse (fun h r => g.ds rd h r i) g.j.q

/-- Table 09-5: the group of dQ that key tile `kt` gives. -/
def Grad.dqGroup (g : Grad) (rd : Nat → Byte) (h r x kt : Nat) : List Pos :=
  let on := (tileKeys kt).map (fun i => g.takes rd h r i)
  groupOf (maskSides on (quantSides 0x12 g.dsCoarse ((tileKeys kt).map (fun i => (g.ds rd h r i, decide (i < g.j.k.dim 1))))).1)
    (maskSides on ((tileKeys kt).map (fun i => sideAt rd g.j.k (x, i, g.j.kvHead h, 0, 0))))

/-- Table 09-5: the totals of dV, dK and dQ; dQ goes over the key tiles that are not skipped. -/
def Grad.dvTotal (g : Grad) (rd : Nat → Byte) (hk i x : Nat) : Total := segTotal g.j.split (g.dvGroups rd hk i x)
def Grad.dkTotal (g : Grad) (rd : Nat → Byte) (hk i x : Nat) : Total := segTotal g.j.split (g.dkGroups rd hk i x)
def Grad.dqTotal (g : Grad) (rd : Nat → Byte) (h r x : Nat) : Total :=
  joinTree false 8 ((List.range g.j.split).map (fun k =>
    addGroups false normalWindow (g.dqGroup rd h r x) (g.j.keyTiles (r / 128) k) {}))

/-- R239: the key indices that a barge's key tiles cover. -/
def AttJob.covers (j : AttJob) (i : Nat) : Bool :=
  decide (256 * atKtFirst j.d ≤ i) && decide (i < 256 * (atKtFirst j.d + atKtCount j.d))

/-- The sticky bit of a group of positions. -/
def stickyPos (ps : List Pos) : Bool := (addGroup false normalWindow {} ps).2

/-- R126: the sticky groups of BACKWARD: for each pair of a query tile and a key tile that is not skipped the score, dO · Vᵀ
and dQ groups, and each group of dV and of dK (log 84). -/
def Grad.sticky (g : Grad) (rd : Nat → Byte) : Nat :=
  let j := g.j
  let pairs := (List.range (j.q.dim 2)).flatMap (fun h => (List.range j.tq).flatMap (fun tq =>
    ((List.range j.split).flatMap (j.keyTiles tq)).map (fun kt => (h, tq, kt))))
  let ofPair := fun (h, tq, kt) =>
    let rows := (j.tileRows tq).filter (fun r => g.lseOf rd h r != negInf32)
    ((rows.any (fun r => (tileKeys kt).any (fun i => (j.scoreGroup rd h r i).2))).toNat +
      (rows.any (fun r => (tileKeys kt).any (fun i => (g.dpGroup rd h r i).2))).toNat +
      (rows.any (fun r => (List.range (j.q.dim 0)).any (fun x => stickyPos (g.dqGroup rd h r x kt)))).toNat)
  let elems := ((List.range (j.k.dim 1)).filter j.covers).flatMap (fun i => (List.range (j.q.dim 0)).map (fun x => (i, x)))
  let ofHead := fun hk => ((List.range (((g.headRows hk).length + 255) / 256)).map (fun k =>
    (elems.any (fun (i, x) => stickyPos ((g.dvGroups rd hk i x).getD k []))).toNat +
      (elems.any (fun (i, x) => stickyPos ((g.dkGroups rd hk i x).getD k []))).toNat)).sum
  (pairs.map ofPair).sum + ((List.range (j.k.dim 2)).map ofHead).sum

/-- The job of an ATTENTION barge. -/
def State.attJob (s : State) (f : Frame) (d : BitVec 1024) (docs : List Nat) : AttJob :=
  ⟨d, s.view f (atQ d), s.view f (atK d), s.view f (atV d), docs, 256 * s.get (F.ATTN_SLOT_CFG_LENGTH_T (atSlot d))⟩

end Sys2Proof.Machine
end

