-- ==== Sys2Proof/Machine/VecMath.lean ====
section
/-! DEFINITION. What a VECTOR barge computes for one element, one row and one bucket (R203 to R217), from its inputs in
memory. -/

namespace Sys2Proof.Machine

/-- The kernel of an id in an image; none for 0xFFFF, the identity kernel. -/
def imKernel (im : Image) (id : Nat) : Option Kernel :=
  (im.kernels.find? (fun k => k.id == id)).map (fun k => ⟨(KernelImage.code im k).filterMap decodeVector, KernelImage.consts im k⟩)

/-- R199: what a kernel of context `c` draws from. -/
def State.venv (s : State) (c : Nat) : VEnv := ⟨[], (s.ctx c).seed.toNat, s.step c, (s.image c).streams⟩

/-- The linear index of an element in C as written (R199). -/
def linearOf (v : View) (ix : Ix) : Nat := ix.1 + v.dim 0 * (ix.2.1 + v.dim 1 * ix.2.2.1)

/-- R203: a lane at the start of a vector: registers 0, every lane-mask bit 1. -/
def laneDefault (_ : Nat) : Lane := {}

/-- R206: tasks of one stage. -/
def vecTasks (v : View) : Nat := (v.dim 1 * v.dim 2 + 15) / 16 * ((v.dim 0 + 4095) / 4096)

/-- Input `k` of a VECTOR barge at an index, or +0 beyond IN_COUNT (R208). -/
def State.vecIn (s : State) (f : Frame) (d : BitVec 1024) (k : Nat) (ix : Ix) : BitVec 32 :=
  if k < vbInCount d then readF32 s.byte (s.view f (vbIn d k)) ix else 0

/-- R213: what V6 to V9 receive of a row's results so far. -/
def rowRegs (d : BitVec 1024) (rs : List RedResult) : BitVec 32 × BitVec 32 × BitVec 32 × BitVec 32 :=
  let val := fun (code : Nat) (r : Option RedResult) => (r.map (redAsF32 code)).getD 0
  let idx := fun (code : Nat) (r : Option RedResult) => if code = 6 ∨ code = 7 then (r.map (fun x => x.aux)).getD 0 else 0
  (val (vbRed1 d) rs[0]?, val (vbRed2 d) rs[1]?, idx (vbRed1 d) rs[0]?, idx (vbRed2 d) rs[1]?)

/-- R203: the lane of one element at the start of its vector. -/
def State.vecStart (s : State) (f : Frame) (d : BitVec 1024) (rs : List RedResult) (ix : Ix) : Lane :=
  let r := rowRegs d rs
  laneInit (s.vecIn f d 0 ix) (s.vecIn f d 1 ix) (s.vecIn f d 2 ix) (BitVec.ofNat 32 ix.1) (BitVec.ofNat 32 ix.2.1)
    (BitVec.ofNat 32 ix.2.2.1) r.1 r.2.1 r.2.2.1 r.2.2.2 (linearOf (s.view f (vbIn d 0)) ix)

/-- R203: the lane of one element at the end of kernel `kid`. -/
def State.vecLane (s : State) (f : Frame) (d : BitVec 1024) (kid : Nat) (rs : List RedResult) (ix : Ix) : Lane :=
  let l := s.vecStart f d rs ix
  match imKernel f.im kid with
  | some k => runKernel (s.venv f.ctx) k l
  | none => l

/-- R206: the index of position `i0` of row `r`. -/
def rowIx (v : View) (r i0 : Nat) : Ix := (i0, r % v.dim 1, r / v.dim 1, 0, 0)

/-- R210, R211: the elements of row `r` as a stage's reduction takes them. -/
def State.rowElems (s : State) (f : Frame) (d : BitVec 1024) (kid : Nat) (rs : List RedResult) (r : Nat) : List RedElem :=
  let v := s.view f (vbIn d 0)
  (List.range (v.dim 0)).map (fun i0 =>
    let l := s.vecLane f d kid rs (rowIx v r i0)
    ⟨l.get 0, l.lm.getLsbD 7, i0⟩)

/-- R206: the segments of a row. -/
def vecSegs (v : View) : Nat := max 1 ((v.dim 0 + 4095) / 4096)

/-- R206: the rows of task `t` of a stage. -/
def taskRowsOf (v : View) (t : Nat) : List Nat :=
  ((List.range 16).map (· + 16 * (t / vecSegs v))).filter (fun r => decide (r < v.dim 1 * v.dim 2))

/-- R206: the first position of task `t` of a stage, and how many it covers. -/
def taskSpan (v : View) (t : Nat) : Nat × Nat := (4096 * (t % vecSegs v), min 4096 (v.dim 0 - 4096 * (t % vecSegs v)))

def rowsDefault (_ : Nat) : List RedResult := []
/-- The results of row `r` that the stages of the barge in flight have given so far. -/
def State.rowResults (s : State) (r : Nat) : List RedResult := tblGet rowsDefault s.array.rows r

/-- R203: the vector that a task of a VECTOR barge starts with enters the 64 lanes of engine `e` (registers 0 and mask bits 1
beside its inputs, row results and indices). -/
def State.loadLanes (s : State) (b : Barge) (e t : Nat) : State :=
  let f := s.frame b
  let v := s.view f (vbIn b.desc 0)
  let at_ := fun l =>
    let r := (taskRowsOf v t).headD 0
    s.vecStart f b.desc (s.rowResults r) (rowIx v r ((taskSpan v t).1 + l))
  { s with lanes := (List.range 64).foldl (fun ls l => tblSet laneDefault ls (64 * e + l) (at_ l)) s.lanes }

/-- R215: how many of some bucket ids name each bucket. -/
def bucketCounts (d : BitVec 1024) (ids : List Nat) : List Nat := (List.range (cxBuckets d)).map (fun j => ids.count j)

/-- R215, R218: the counts of a COMPRESS barge from its buckets' totals, and last the elements it dropped. -/
def compressCounts (d : BitVec 1024) (totals : List Nat) : List Nat :=
  totals.map (min (cxCap d)) ++ [(totals.map (· - cxCap d)).sum]

end Sys2Proof.Machine
end

