-- ==== Sys2Proof/Machine/Abort.lean ====
section
/-! DEFINITION. What ends work early: the forced drain of the array (R112, R137, R162), the end of a step under R35, the
declaration of an overrun (R34), the abandoning of a step (R293, R300), and the end of an evaluation plan at an
uncorrectable read. -/

namespace Sys2Proof.Machine

/-- Contexts with a step or an evaluation plan under way. -/
def State.working (s : State) : List Nat :=
  (List.range 8).filter (fun c => s.flag (F.TRAIN_CTX_STATUS_IN_STEP c) || s.flag (F.TRAIN_CTX_STATUS_EVAL c))

/-- Table 10-15: TRAIN_CTX_STATUS_n.PHASE. -/
def State.setPhase (s : State) (c p : Nat) : State := s.put (F.TRAIN_CTX_STATUS_PHASE c) p

/-- The engine and the slot number of a tile-slot key, and its die. -/
def slotKey (e slot : Nat) : Nat := 2 * e + slot
def slotDie (k : Nat) : Nat := k / 2 / 340

/-- The array with no barge in flight; the counts of tasks retired stay (Table 04-11). -/
def ArrayState.idle (a : ArrayState) : ArrayState := { retiredBy := a.retiredBy }

/-- R119: COMPUTE_ENG_STATUS of every die. -/
def State.showEngines (s : State) : State := (List.range 4).foldl (fun s d => s.showEngine d) s

/-- R99: the array when a barge that ran on it completes, or ends without one: nothing of it stays, in the cluster buffers
or the operand buffers either, their errors included (R357), and a layout of the kernel store that waited is made (R201). -/
def State.freeArray (s : State) : State :=
  let s := ((s.off F.COMPUTE_ARRAY_BUSY).off F.VECTOR_STATUS_BUSY).off F.ATTN_STATUS_BUSY
  ({ s.put F.VECTOR_STATUS_STAGE 0 with
    array := s.array.idle
    health := { s.health with sram := s.health.sram.filter (fun w => decide (2 ≤ memoryNumber w.memory)) } } : State).showEngines.layDue

/-- R236: event 0x0281, once for an ATTENTION barge that wrote inf or nan rows. -/
def State.reportRows (s : State) (b : Barge) : State :=
  if 0 < s.array.badRows then s.event 0x0281#16 (srcCtx b.ctx) [(16, b.ownIndex), (32, s.array.badRows)] else s

/-! ## Tile slots -/

def slotDefault (_ : Nat) : TileSlot := ⟨2 ^ 32, 0, 0, []⟩

/-- The MATRIX product that the array barge `b` forms. -/
def State.bargeProduct (s : State) (b : Barge) : Product := s.productOf (s.frame b) b.desc s.array.counts

/-- The job of the ATTENTION barge `b`, with the document starts it read. -/
def State.bargeJob (s : State) (b : Barge) : AttJob := s.attJob (s.frame b) b.desc s.array.docs

/-- What BACKWARD `b` works on. -/
def State.bargeGrad (s : State) (b : Barge) : Grad :=
  let f := s.frame b
  ⟨s.bargeJob b, s.view f (atO b.desc), s.view f (atLse b.desc), s.view f (atDO b.desc)⟩

/-- R136: the task in slot `key` has promoted the first `n` groups of its segment: running totals, special states, retire
counter, and the sticky groups of the engine's die (R126). -/
def State.promoteTo (s : State) (b : Barge) (key n : Nat) : State :=
  match s.array.slots.lookup key with
  | none => s
  | some x =>
    let p := s.bargeProduct b
    let (ts, sticky) := p.promoteGroups (s.fetchByte (clusterOf (key / 2))) x.task (((p.taskGroups x.task).take n).drop x.retired)
      x.totals
    let s := s.count (R.COMPUTE_STICKY_GROUPS (slotDie key)) sticky
    { s with array := { s.array with
      slots := tblSet slotDefault s.array.slots key { x with retired := max n x.retired, totals := ts } } }

/-- R136: the task in slot `key` of a MATRIX barge has come somewhere from its `lo`-th group on: how far is timing (log 30). -/
def State.runOn (s : State) (b : Barge) (key lo : Nat) : State :=
  match s.array.slots.lookup key with
  | none => s
  | some x =>
    let (v, s) := s.draw
    let lo := max lo x.retired
    s.promoteTo b key (lo + v.toNat % (x.expected + 1 - lo))

/-- R126: sticky groups of an ATTENTION task in all. -/
def State.attSticky (s : State) (b : Barge) (e t : Nat) : Nat :=
  let j := s.bargeJob b
  let rd := s.fetchByte (clusterOf e)
  if b.op ≤ 1 then
    let (_, tq, seg) := j.task t
    stickyTiles (j.keyTiles tq seg).length (j.taskRows rd t)
  else if b.op = 3 then (s.bargeGrad b).sticky rd
  else 0

/-- R137: slot `key` is read by a forced drain: its totals are those of the last completed promotion. -/
def State.forceSlot (s : State) (b : Barge) (key : Nat) : State :=
  let s := s.count (R.COMPUTE_FORCED_DRAINS (slotDie key)) 1
  if b.cls = 1 then s.runOn b key 0
  else
    let n := match s.array.slots.lookup key with | some x => s.attSticky b (key / 2) x.task | none => 0
    let (v, s) := s.draw
    s.count (R.COMPUTE_STICKY_GROUPS (slotDie key)) (v.toNat % (n + 1))

/-- R112, R137, R193: the forced drains of a barge's tile slots; a VECTOR barge has none. -/
def State.forceDrains (s : State) (b : Barge) : State :=
  if b.cls ≤ 2 then s.array.slots.foldl (fun s x => s.forceSlot b x.1) s else s

/-! ## What a barge writes -/

/-- A byte that nothing constrains is stored at each address of some regions (log 3). -/
def State.undefine (s : State) (regions : List (Nat × Nat)) : State :=
  regions.foldl (fun s (a, n) => (List.range n).foldl (fun s i =>
    let (v, s) := s.draw
    s.setByte (a + i) (v.setWidth 8)) s) s

/-- R101, R140: the positions of C that a MATRIX barge writes. -/
def State.productRegions (s : State) (f : Frame) (d : BitVec 1024) : List (Nat × Nat) :=
  let v := s.view f (mxC d)
  if opTranspose d then regionsOf v (mxM d) (mxN d) (mxBatch d) 1 1 else regionsOf v (mxN d) (mxM d) (mxBatch d) 1 1

/-- The memory that a VECTOR barge writes. -/
def State.vectorRegions (s : State) (f : Frame) (d : BitVec 1024) : List (Nat × Nat) :=
  let v := s.view f (vbIn d 0)
  let rows := v.dim 1 * v.dim 2
  if bOp d = 3 then
    [(cxList d, 4 * cxBuckets d * cxCap d), (cxCount d, 4 * cxBuckets d)] ++ (if cxPos d = 0 then [] else [(cxPos d, 4 * cxL d)])
  else if bOp d = 4 then [(cxPos d, 4 * cxL d)]
  else if bOp d = 2 then [(vbRes d, (if vbTopK d = 0 then 8 else 8 * vbTopK d) * rows)]
  else wholeRegions (s.view f (vbOut d)) ++ (if bOp d = 1 ∧ vbRes d ≠ 0 then [(vbRes d, 16 * rows)] else [])

/-- The memory that an UPDATE barge writes in the alternate arena (R264 to R270). -/
def State.updateRegions (s : State) (f : Frame) (d : BitVec 1024) : List (Nat × Nat) :=
  let n := linCount (imTd f.im (upW d))
  let a := s.arenaBase f true
  wholeRegions (s.altView f (upW d)) ++ [(a + upROff d, n), (a + upMOff d, pagesOf n * pageBytes)] ++
    (if upSOff d = 0 then [] else [(a + upSOff d, pagesOf n * pageBytes)])

/-- The memory that holds what barge `b` computes. -/
def State.outRegions (s : State) (b : Barge) : List (Nat × Nat) :=
  let f := s.frame b
  let d := b.desc
  if b.cls = 1 then s.productRegions f d
  else if b.cls = 2 then
    if b.op = 1 then
      let q := s.view f (atQ d)
      let seg := q.dim 2 * 128 * ((q.dim 1 + 127) / 128) * (16 + 4 * q.dim 0)
      [(atState d + atSegBase d * seg, atSplit d * seg)]
    else (if b.op = 3 then [atDQ d, atDK d, atDV d] else if b.op = 4 then [atO d] else [atO d, atLse d]).flatMap
      (fun i => wholeRegions (s.view f i))
  else if b.cls = 3 then s.vectorRegions f d
  else if b.cls = 4 then (List.range (if b.op = 1 then trRows d else 1)).map (fun r => (trDst d + r * trDstPitch d, trBytes d))
  else if b.cls = 5 then
    if b.op ≤ 1 then wholeRegions (s.view f (coOut d))
    else if b.op ≤ 5 then [(coDst d, if b.op = 2 ∨ b.op = 5 then coBytes d * s.groupSize (coGroup d) else coBytes d)]
    else []
  else if b.cls = 6 then [(saDst d, if b.op = 0 then saArea d else saBytes d)]
  else if b.cls = 7 then s.updateRegions f d
  else if b.cls = 8 then if voVerdict d = 0 then [] else [(voVerdict d, if b.op = 0 then 256 else 32)]
  else if b.cls = 0xA then [(teRes d, if b.op = 0 then 16 * 17 else if b.op = 1 then 163968 else 12)]
  else []

/-- R112, R162: the array barge `b` ends with its tiles marked incomplete: the queues and the split-K reservations are emptied,
and what the barge was to write has no defined result. -/
def State.dropArray (s : State) (b : Barge) : State :=
  let n := if b.cls ≤ 2 then s.array.slots.length else 0
  let s := (s.reportRows b).freeArray.on F.COMPUTE_ARRAY_ABORTED
  let s := s.undefine (s.outRegions b)
  if 0 < n then s.event 0x0241#16 (srcCtx b.ctx) [(16, b.ownIndex), (32, n)] else s

/-- R112, R137, R162: the array barge in flight ends in a forced drain of every tile slot in use. -/
def State.endArray (s : State) : State :=
  match s.array.barge.bind s.barge with
  | none => s
  | some b => (s.forceDrains b).dropArray b

/-- R345: an abort ends a COLLECTIVE or VOTE barge in flight; its PUTs are resent no more (R337). -/
def State.endCollective (s : State) (b : Barge) : State :=
  let m := s.missingRanks b
  (s.forgetPuts b).event 0x0408#16 srcPackage [(16, bGroup b.desc), (16, m.headD 0), (16, m.length), (16, b.ownIndex)]

/-- A barge of a step that R35 ends: one not yet started is never issued, and one in flight stays until the drain ends. -/
def Barge.abort (b : Barge) : Barge := if b.state = .waiting then { b with state := .removed } else b

/-- R35, R277: context `c`'s step ends aborted; a commit that has passed still flips at the tick. -/
def State.abortCtx (s : State) (c : Nat) : State :=
  let passed := decide ((s.ctx c).boundary = some true)
  let s := s.updCtx c (fun x => { x with
    stepAborted := true, run := none, evalNext := [], boundary := if passed then x.boundary else none })
  let s := (s.off (F.TRAIN_CTX_STATUS_EVAL c)).setPhase c 6
  if passed then s else s.off (F.TRAIN_CTX_STATUS_IN_STEP c)

/-- R35: the steps of the contexts `cs` end; barges of other contexts go on being dispatched (log 69). -/
def State.abortSteps (s : State) (cs : List Nat) : State :=
  let mine := fun (b : Barge) => cs.contains b.ctx
  let fab := s.lock.active.filter (fun b => mine b && b.isRunning && (b.cls == 5 || b.cls == 8))
  let s := fab.foldl (fun s b => s.endCollective b) s
  let s := if (s.array.barge.bind s.barge).any mine then s.endArray else s
  let s := { s with lock := { s.lock with
    active := s.lock.active.map (fun b => if mine b then b.abort else b), aborted := true } }
  let s := (s.on F.LOCK_STATUS_STEP_ABORTED).on F.LOCK_STATUS_DRAINING
  s.forEach cs (fun c s => s.abortCtx c)

/-- R34: the barge that event 0x0103 names: the oldest running one (of two that started at one FTC the earlier in the
manifest, log 68), or the first not started, or none. -/
def overrunBarge (act : List Barge) : Nat :=
  let started := act.filterMap (fun b => match b.state with | .running t => some (t, b.ownIndex) | _ => none)
  match started with
  | p :: ps => (ps.foldl (fun (x : Nat × Nat) y => if y.1 < x.1 then y else x) p).2
  | [] => match act.find? (fun b => b.state == .waiting) with
    | some b => b.ownIndex
    | none => 0xFFFF

/-- R34: an overrun of a kind is declared. Event 0x0103 carries the need last computed under R31 in the interval, 0 where
none was (Table 01-5). -/
def State.overrun (s : State) (kind : Nat) : State :=
  let s := { s with lock := { s.lock with ended := true } }
  let cs := s.working
  let s := s.forEach cs (fun c s => s.sendAbort c)
  let s := (((s.measure 14 1).on F.LOCK_EVENTS_OVERRUN).on F.LOCK_EVENTS_ABORT_TX).count R.LOCK_OVERRUN_COUNT 1
  let s := s.event 0x0103#16 srcPackage [(8, kind), (16, s.lock.lastNeed), (16, overrunBarge s.lock.active)]
  s.abortSteps cs

/-- R293, R300: the steps of `cs` are abandoned: an abort is broadcast and R35 followed. -/
def State.abandon (s : State) (cs : List Nat) : State :=
  let s := s.forEach cs (fun c s => s.sendAbort c)
  (s.on F.LOCK_EVENTS_ABORT_TX).abortSteps cs

/-- R293: an evaluation plan ends at a barge that met an uncorrectable read: the array is free of it, and its fabric barges
resend nothing (R337). -/
def State.endEvalAt (s : State) (b : Barge) : State :=
  let c := b.ctx
  let s := if (s.array.barge.bind s.barge).any (fun x => x.ctx == c) then s.freeArray else s
  let s := (s.lock.active.filter (fun x => x.ctx == c && x.isRunning && (x.cls == 5 || x.cls == 8))).foldl
    (fun s x => s.forgetPuts x) s
  let s := { s with lock := { s.lock with
    active := s.lock.active.map (fun (x : Barge) => if x.ctx = c ∧ x.open_ then { x with state := .removed } else x) } }
  let s := s.updCtx c (fun x => { x with run := x.run.map (fun r => { r with pos := 2 ^ 32 }) })
  s.complete c 0xFFFF 4 0 b.ownIndex

/-- Table 11-4, R357: barge `b` met an uncorrectable read: its step or its plan ends (of an evaluation plan that met an
uncorrectable word of on-chip memory too, log 86), and what the barge was to write has no stated value. -/
def State.endAtRead (s : State) (b : Barge) : State :=
  if b.evalPlan then (s.undefine (s.outRegions b)).endEvalAt b
  else (s.undefine (s.outRegions b)).abandon [b.ctx]

/-- R357: barge `b` reads the words of on-chip memory that `which` picks and then does `f`. -/
def State.readingWords (s : State) (b : Barge) (which : SramWord → Bool) (f : State → State) : State :=
  let x := s.readWords which
  if x.2 then x.1.endAtRead b else f x.1

/-- Table 11-4: barge `b` reads some regions and then does `f`. -/
def State.reading (s : State) (b : Barge) (regions : List (Nat × Nat)) (f : State → State) : State :=
  let (s, bad) := s.touch (if b.evalPlan then rdEval else rdBarge) regions
  if bad.isEmpty then s.readingWords b (wordIn regions) f else s.endAtRead b

end Sys2Proof.Machine
end

