-- ==== Sys2Proof/Machine/Generation.lean ====
section
/-! DEFINITION. Snapshot generations: the four slots of an area, the header and sections of one (R407, R408), and the
start and the abandoning of a capture (R410 to R412). -/

namespace Sys2Proof.Machine

/-- `n` rounded up to a multiple of `k`. -/
def alignUp (k n : Nat) : Nat := (n + k - 1) / k * k

/-- Bytes padded with zeros to `n`. -/
def padTo (n : Nat) (bs : List Byte) : List Byte := bs ++ List.replicate (n - bs.length) 0

/-- Table 16-2: the sections of an image's generations: KIND and length. -/
def genSections (im : Image) : List (Nat × Nat) :=
  [(1, match im.arena with | some (_, _, n) => n | none => 0), (2, 64 * im.coarseCount), (3, 16 * im.cstatCount),
   (4, 128 * (im.sluices.map (fun t => stWindows t.2)).sum), (5, 4096),
   (6, (im.groups.map (fun g => 16 + alignUp 16 (2 * g.2))).sum), (7, 65536)]

/-- R408: KIND, offset and length of each section. -/
def genDirectory (im : Image) : List (Nat × Nat × Nat) :=
  ((genSections im).foldl (fun (acc : Nat × List (Nat × Nat × Nat)) (k, n) =>
    (alignUp 512 (acc.1 + n), acc.2 ++ [(k, acc.1, n)])) (1024, [])).2

/-- R407: SLOT_BYTES. -/
def slotBytes (im : Image) : Nat := (genSections im).foldl (fun o (_, n) => alignUp 512 (o + n)) 1024

/-- R407: the address of slot `j`: local 0 and 1, ward 2 and 3. -/
def slotAddr (im : Image) (j : Nat) : Nat := im.snapBase.getD 0 + j * slotBytes im

/-- R411: the capture gap in intervals. -/
def State.captureGap (s : State) (im : Image) : Nat :=
  let d := 4000 * s.period
  if d = 0 then 0 else (80000000 + slotBytes im + d - 1) / d

def histDefault (_ : Nat) : BitVec 32 := 0xFFFFFFFF#32

/-- Table 07-3: a window list as 128 bytes. -/
def listBytes (l : List Nat) : List Byte := padTo 128 (l.flatMap (fun k => leBytes 2 (0x8000 + k)))

/-- The windows of an image's sluice tables, by ascending table id and then window. -/
def imWindows (im : Image) : List (Nat × Nat) :=
  (im.sluices.mergeSort (fun a b => a.1 ≤ b.1)).flatMap (fun t => (List.range (stWindows t.2)).map (fun w => (t.1, w)))

/-- The declared groups in ascending id. -/
def imGroups (im : Image) : List (Nat × Nat) := im.groups.mergeSort (fun a b => a.1 ≤ b.1)

/-- Table 16-2: the content of one section of context `c`. -/
def State.genContent (s : State) (c kind : Nat) : List Byte :=
  let im := s.image c
  let x := s.ctx c
  if kind = 1 then
    match im.arena with
    | some (a, b, n) => s.bytes (if s.flag (F.TRAIN_ARENA_IN_FORCE c) then b else a) n
    | none => []
  else if kind = 2 then
    (List.range im.coarseCount).flatMap (fun i => (List.range 16).flatMap (fun j =>
      leBytes 4 (tblGet histDefault (s.scale (im.coarseFirst + i)).hist j).toNat))
  else if kind = 3 then
    (List.range im.cstatCount).flatMap (fun i =>
      let e := s.cstatAt (!x.feedBank) (im.cstatFirst + i)
      leBytes 4 e.amax.toNat ++ leBytes 4 e.lead.toNat ++ leBytes 4 e.rows.toNat ++ leBytes 4 e.step.toNat)
  else if kind = 4 then (imWindows im).flatMap (fun (t, w) => listBytes (s.window x.listBank t w))
  else if kind = 5 then
    (List.range 1024).flatMap (fun q =>
      leBytes 4 (tblGet levelDefault x.levels q * 2 ^ 30 + tblGet levelDefault x.holds q % 65536))
  else if kind = 6 then
    (imGroups im).flatMap (fun (g, n) =>
      leBytes 2 g ++ leBytes 2 n ++ leBytes 2 (s.groupRank g) ++ List.replicate 10 0 ++
        padTo (alignUp 16 (2 * n)) ((List.range n).flatMap (fun r => leBytes 2 (s.member g r))))
  else (List.range 2).flatMap (fun d => (List.range 8192).flatMap (fun i => leBytes 4 (s.reg (R.LINK_ROUTE d i)).toNat))

/-- Table 16-1: the directory's 256 bytes. -/
def dirBytes (im : Image) : List Byte :=
  padTo 256 ((genDirectory im).flatMap (fun (k, o, n) => leBytes 2 k ++ leBytes 6 o ++ leBytes 6 n ++ [0, 0]))

/-- Table 16-1: bytes 8 to 111 of the header of a capture begun at `ftc`. -/
def State.genFields (s : State) (c ftc : Nat) : List Byte :=
  let im := s.image c
  let x := s.ctx c
  let g := jobGroup im
  let w := fun a => leBytes 4 (s.reg a).toNat
  let d := fun a => leBytes 8 (s.reg64 a).toNat
  d (R.TRAIN_STEP c) ++ d (R.TRAIN_COMMIT c) ++ d (R.TRAIN_SEED c) ++ d (R.LK_IMAGE_ID c) ++
    leBytes 2 g ++ leBytes 2 (s.groupRank g) ++ leBytes 2 (s.groupSize g) ++ leBytes 2 (s.get F.LINK_ID_MODULE_ID) ++
    w R.BOOT_FW_VERSION ++ w (R.LINK_CTX_EPOCH c) ++ d (R.LK_SNAP_DPOS c) ++ d (R.LK_SNAP_DPOS_STEP c) ++
    leBytes 2 (s.get (F.TRAIN_CTX_STATUS_SKIP_RUN c)) ++ [BitVec.ofNat 8 x.lastRisk, 0] ++ w R.BOOT_POWER_FEED ++
    w R.BOOT_COOLING_LOOP ++ leBytes 4 0 ++ leBytes 8 x.boundaryIndex ++ leBytes 8 ftc ++ leBytes 8 (slotBytes im)

/-- R408, R410: a whole generation of context `c`, COMPLETE, its DIGEST over bytes 8 to 111, the directory and every
section. -/
def State.generation (s : State) (c ftc : Nat) : List Byte :=
  let im := s.image c
  let fields := s.genFields c ftc
  let secs := (genSections im).map (fun (k, _) => s.genContent c k)
  let digest := sha512 (fields ++ dirBytes im ++ secs.flatten)
  leBytes 4 1 ++ leBytes 4 1 ++ fields ++ List.replicate 64 0 ++ digest ++ List.replicate 16 0 ++ List.replicate 512 0 ++
    dirBytes im ++ secs.flatMap (fun x => padTo (alignUp 512 x.length) x)

/-! ## Reading a header -/

/-- A field of a header given as bytes. -/
def genNum (h : List Byte) (o n : Nat) : Nat := ofLe ((h.drop o).take n)
def genFlags (h : List Byte) : Nat := genNum h 4 4
def genComplete (h : List Byte) : Bool := (genFlags h).testBit 0
def genHeld (h : List Byte) : Bool := (genFlags h).testBit 1
def genSealed (h : List Byte) : Bool := (genFlags h).testBit 2
def genVerifyValid (h : List Byte) : Bool := (genFlags h).testBit 3
def genStep (h : List Byte) : Nat := genNum h 8 8

/-- The header in slot `j` of context `c`. -/
def State.slotHeader (s : State) (c j : Nat) : List Byte := s.bytes (slotAddr (s.image c) j) 1024

/-- R407: a header that passes its checks: version, flags, COMPLETE and the size (log 24). -/
def genValid (im : Image) (h : List Byte) : Bool :=
  genNum h 0 4 == 1 && decide (genFlags h < 16) && genComplete h && genNum h 104 8 == slotBytes im

/-- Table 16-8: the state a header shows. -/
def genState (im : Image) (h : List Byte) : Nat :=
  if !genValid im h then 0 else if genSealed h then 5 else if genHeld h then 4 else 2

/-- R293: Lockkeeper firmware reads HBM: the state after, and whether every sector was readable. -/
def State.firmwareReads (s : State) (regions : List (Nat × Nat)) : State × Bool :=
  let x := s.touch rdFirmware regions
  (x.1, x.2.isEmpty)

/-- The header of slot `j`, and the whole slot, as regions. -/
def headerRegion (im : Image) (j : Nat) : List (Nat × Nat) := [(slotAddr im j, 1024)]
def slotRegion (im : Image) (j : Nat) : List (Nat × Nat) := [(slotAddr im j, slotBytes im)]

/-- The arena in force: what a capture copies from HBM. -/
def State.arenaRegion (s : State) (c : Nat) : List (Nat × Nat) :=
  match (s.image c).arena with
  | some (a, b, n) => [(if s.flag (F.TRAIN_ARENA_IN_FORCE c) then b else a, n)]
  | none => []

/-- The bytes of a whole generation in slot `j`. -/
def State.slotGen (s : State) (c j : Nat) : List Byte := s.bytes (slotAddr (s.image c) j) (slotBytes (s.image c))

/-- Table 16-1: the directory of a generation given as bytes: KIND, offset and length of each entry in use. -/
def genDir (g : List Byte) : List (Nat × Nat × Nat) :=
  ((List.range 16).map (fun i => (genNum g (768 + 16 * i) 2, genNum g (770 + 16 * i) 6, genNum g (776 + 16 * i) 6))).filter
    (fun e => e.1 != 0)

/-- A section of a generation given as bytes. -/
def genSection (g : List Byte) (kind : Nat) : List Byte :=
  match (genDir g).find? (fun e => e.1 == kind) with
  | some (_, o, n) => (g.drop o).take n
  | none => []

/-- Table 16-3, code 0x03: DIGEST matches. -/
def digestOk (g : List Byte) : Bool :=
  sha512 ((g.drop 8).take 104 ++ (g.drop 768).take 256 ++ (genDir g).flatMap (fun (_, o, n) => (g.drop o).take n)) ==
    (g.drop 176).take 64

/-! ## Slots and captures -/

/-- A slot's STATE and STEP registers. -/
def State.setSlot (s : State) (c j state step : Nat) : State :=
  (s.put (F.LK_SNAP_SLOT_STATE c j) state).put (F.LK_SNAP_SLOT_STEP c j) step
def State.setWardSlot (s : State) (c j state step : Nat) : State :=
  (s.put (F.LK_SNAP_WSLOT_STATE c j) state).put (F.LK_SNAP_WSLOT_STEP c j) step

/-- R410: the local slot that does not hold the newest sealed generation; with none sealed, the one that is empty or
older (log 24). -/
def State.captureSlot (s : State) (c : Nat) : Nat :=
  let st := fun j => s.get (F.LK_SNAP_SLOT_STATE c j)
  let step := fun j => genStep (s.slotHeader c j)
  if st 0 = 5 ∧ st 1 = 5 then (if step 0 ≤ step 1 then 0 else 1)
  else if st 0 = 5 then 1
  else if st 1 = 5 then 0
  else if st 0 = 0 then 0
  else if st 1 = 0 then 1
  else if step 0 ≤ step 1 then 0 else 1

/-- R414: an export of context `c` is abandoned, with the cause of event 0x061A. -/
def State.dropExport (s : State) (c cause : Nat) : State :=
  match (s.ctx c).exporting with
  | some j =>
    let s := (s.updCtx c (fun x => { x with exporting := none })).put (F.LK_SNAP_SLOT_STATE c j) 2
    s.event 0x061A#16 (srcCtx c) [(8, c), (8, j), (8, cause)]
  | none => s

/-- R410: a capture of context `c` starts. -/
def State.startCapture (s : State) (c : Nat) : State :=
  let j := s.captureSlot c
  let s := s.updCtx c (fun x => { x with captureDue := false })
  if s.flag (F.LK_SNAP_SLOT_LOCK c j) then s.event 0x0611#16 (srcCtx c) [(8, c), (8, 0), (32, s.step c)]
  else
    let s := if (s.ctx c).exporting = some j then s.dropExport c 0 else s
    let s := (s.writeAt (slotAddr (s.image c) j) (List.replicate 8 0)).setSlot c j 1 (s.step c)
    let x := s.ctx c
    let s := s.setCtx c { x with capture := some ⟨j, x.boundaryIndex + s.get (F.LK_SNAP_GAP_G c), s.ftc⟩ }
    s.event 0x0610#16 (srcCtx c) [(8, c), (8, j), (32, s.step c)]

/-- R412: a capture that has not completed in its gap is abandoned. -/
def State.abandonCapture (s : State) (c : Nat) : State :=
  match (s.ctx c).capture with
  | some k =>
    let s := (s.writeAt (slotAddr (s.image c) k.slot) (List.replicate 1024 0)).setSlot c k.slot 0 0
    (s.updCtx c (fun x => { x with capture := none })).event 0x0611#16 (srcCtx c) [(8, c), (8, 1), (32, s.step c)]
  | none => s

end Sys2Proof.Machine
end

