-- ==== Sys2Proof/Machine/Replay.lean ====
section
/-! DEFINITION. The suspect replay (R401, R402): naming, clearing and ending. -/

namespace Sys2Proof.Machine

/-- Bit `c` of a field. -/
def State.bit (s : State) (f : Fld) (c : Nat) : Bool := (s.get f).testBit c
def State.setBit (s : State) (f : Fld) (c : Nat) (x : Bool) : State :=
  s.put f (if x then s.get f ||| 2 ^ c else if s.bit f c then s.get f - 2 ^ c else s.get f)

/-- R401, R402: the next suspect is named, or the replay ends. -/
def State.nameSuspect (s : State) : State :=
  let p := s.get F.LK_REPLAY_PENDING
  match (List.range 8).find? (fun c => p.testBit c) with
  | some c => (s.put F.LK_REPLAY_CONTEXT c).event 0x0608#16 (srcCtx c) [(8, c), (8, p)]
  | none =>
    let s := s.off F.LK_REPLAY_ACTIVE
    if s.lk.replayQuarantined then s
    else s.event 0x060A#16 srcPackage [(8, s.get F.LK_REPLAY_CLEARED), (8, s.lk.suspects)]

/-- R401: a replay of the suspect set `m` starts; an empty set is transient at once (R402). -/
def State.startReplay (s : State) (m : Nat) : State :=
  let s := { s with lk := { s.lk with replayQuarantined := false, suspects := m } }
  if m = 0 then s.event 0x060A#16 srcPackage [(8, 0), (8, 0)]
  else (((s.on F.LK_REPLAY_ACTIVE).put F.LK_REPLAY_PENDING m).put F.LK_REPLAY_CLEARED 0).nameSuspect

/-- R401: context `c` has reached its next step boundary, or its last staged manifest has completed. -/
def State.clearSuspect (s : State) (c : Nat) : State :=
  if s.flag F.LK_REPLAY_ACTIVE ∧ s.get F.LK_REPLAY_CONTEXT = c ∧ s.bit F.LK_REPLAY_PENDING c then
    ((s.setBit F.LK_REPLAY_PENDING c false).setBit F.LK_REPLAY_CLEARED c true).nameSuspect
  else s

/-- R401: whether context `c` may stage a manifest while a replay is in progress. -/
def State.mayStage (s : State) (c : Nat) : Bool :=
  !s.flag F.LK_REPLAY_ACTIVE || (s.get F.LK_REPLAY_CONTEXT == c && s.bit F.LK_REPLAY_PENDING c)

end Sys2Proof.Machine
end

