-- ==== Sys2Proof/Machine/Retime.lean ====
section
/-! DEFINITION. Manifests as bytes, the fit test (R28), and the re-timing of a lock plan (R187). -/

namespace Sys2Proof.Machine

/-- Bits lo to lo + len − 1 of byte `byte` on of a record, replaced. -/
def setRec {n : Nat} (r : BitVec n) (byte lo len v : Nat) : BitVec n :=
  BitVec.ofNat n (r.toNat - recBits r byte lo len * 2 ^ (8 * byte + lo) + v % 2 ^ len * 2 ^ (8 * byte + lo))

/-- R21: the CRC of a manifest's header: CRC-32C over its descriptors. -/
def manifestCrc (bs : List (BitVec 1024)) : Nat := (crc32c (bs.flatMap (fun b => leBytes 128 b.toNat))).toNat

/-- A manifest header (Table 01-2). -/
def manifestHeader (count : Nat) (first last : Bool) (planEnd planPos crc : Nat) : BitVec 512 :=
  BitVec.ofNat 512 (packFields [(16, count), (1, first.toNat), (1, last.toNat), (14, 0), (32, planEnd), (32, planPos), (32, crc)])

/-- R28: the budgets of a queue, divided by its limit and rounded up. -/
def queueTime (bs : List (BitVec 1024)) (q : Nat) : Nat :=
  (((bs.filter (fun b => queueOf (bClass b) == q)).map bBudget).sum + queueLimit q - 1) / queueLimit q

/-- R187: PLAN_END of a manifest that is closed. -/
def planEndOf (bs : List (BitVec 1024)) : Nat := ((List.range 5).map (queueTime bs)).foldl max 0

/-- R28: a manifest with this PLAN_END fits a window of `w` clk. -/
def fits (bs : List (BitVec 1024)) (planEnd w : Nat) : Bool := decide (planEnd ≤ w) && decide (planEndOf bs ≤ w)

/-! ## Re-timing -/

/-- Table 04-3: clk per K position of an operand's rate class. -/
def rateOf (f : Nat) : Nat := if f = 0x01 ∨ f = 0x02 then 1 else if f = 0x20 ∨ f = 0x21 ∨ f = 0x30 then 4 else 2

/-- Table 04-3: clk per K position of a pairing. -/
def pairRate (a b : Nat) : Nat := max (rateOf a) (rateOf b)

/-- The formats of a tensor at a level of some table of levels. -/
def formatAt (im : Image) (levels : List (Nat × Nat)) (i : Nat) : Nat := levelFormat (imTd im i) (tdLevel im false levels i)

/-- Table 07-4: the factor of a pairing at the levels given. -/
def pairFactor (im : Image) (levels : List (Nat × Nat)) (a b : Nat) : Nat :=
  pairRate (formatAt im levels a) (formatAt im levels b) /
    max 1 (pairRate (tdFormat (imTd im a)) (tdFormat (imTd im b)))

/-- Table 07-4: the factor of a product of a tensor with values that the barge itself makes in format `f`: the probabilities
of R235, or the ds of R239. -/
def madeFactor (im : Image) (levels : List (Nat × Nat)) (f b : Nat) : Nat :=
  pairRate f (formatAt im levels b) / max 1 (pairRate f (tdFormat (imTd im b)))

/-- Table 07-4: the storage factor of one tensor. -/
def storeFactor (im : Image) (levels : List (Nat × Nat)) (i : Nat) : Nat :=
  let f := formatAt im levels i
  let f0 := tdFormat (imTd im i)
  let d := max 1 (tileBytes f0 + scaleBytes f0)
  (tileBytes f + scaleBytes f + d - 1) / d

/-- Table 07-4: the re-timing factor of a barge. An ATTENTION barge takes the greatest factor of its products: Q with K
and P with V; in BACKWARD also dO with V, P with dO, and ds with Q and with K (log 23). -/
def retimeFactor (im : Image) (levels : List (Nat × Nat)) (b : BitVec 1024) : Nat :=
  let c := bClass b
  if c = 1 then pairFactor im levels (mxA b) (mxB b)
  else if c = 2 then
    let p := if atPD4 b then 0x01 else 0x12
    if bOp b ≤ 1 then max (pairFactor im levels (atQ b) (atK b)) (madeFactor im levels p (atV b))
    else if bOp b = 3 then
      [pairFactor im levels (atQ b) (atK b), pairFactor im levels (atDO b) (atV b), madeFactor im levels p (atDO b),
        madeFactor im levels 0x12 (atQ b), madeFactor im levels 0x12 (atK b)].foldl max 1
    else 1
  else if c = 5 ∧ bOp b ≤ 1 then max (storeFactor im levels (coIn b)) (storeFactor im levels (coOut b))
  else 1

/-- R187: a barge with its budget multiplied. -/
def rebudget (im : Image) (levels : List (Nat × Nat)) (b : BitVec 1024) : BitVec 1024 :=
  setRec b 12 0 32 (bBudget b * retimeFactor im levels b)

/-- R187: barges packed in order into manifests that fit `w`: the groups, each in order. -/
def packBarges (w : Nat) : List (BitVec 1024) → List (BitVec 1024) → List (List (BitVec 1024))
  | cur, [] => [cur]
  | cur, b :: bs =>
    if !cur.isEmpty && !fits (cur ++ [b]) (planEndOf (cur ++ [b])) w then cur :: packBarges w [b] bs
    else packBarges w (cur ++ [b]) bs

/-- R187: an AFTER field rewritten: barges named are renumbered from `base`, and one in an earlier manifest is cleared. -/
def shiftAfter (b : BitVec 1024) (byte base : Nat) (a : Option Nat) : BitVec 1024 :=
  match a with
  | none => b
  | some j => if base ≤ j then setRec b byte 0 12 (j - base) else setRec b byte 0 16 0

/-- R187: the barges of one closed manifest, which starts at barge `base` of the manifest it was made from. -/
def renumber (base : Nat) (bs : List (BitVec 1024)) : List (BitVec 1024) :=
  ((List.range bs.length).zip bs).map (fun (i, b) =>
    shiftAfter (shiftAfter (setRec b 6 0 12 i) 8 base (bAfterA b)) 10 base (bAfterB b))

/-- R187: the groups made from one manifest, closed, with the index of the first barge of each. -/
def closeGroups (mo : Manifest) (total : Nat) : Nat → Nat → List (List (BitVec 1024)) → List Manifest
  | _, _, [] => []
  | k, base, g :: gs =>
    let bs := renumber base g
    let h := manifestHeader bs.length (mhFirst mo.header && k == 0) (mhLast mo.header && k + 1 == total) (planEndOf bs) 0
      (manifestCrc bs)
    ⟨h, bs, 64 + 128 * bs.length⟩ :: closeGroups mo total (k + 1) (base + g.length) gs

/-- R187: `retime`, for the levels given and a window of `w` clk. -/
def retime (im : Image) (levels : List (Nat × Nat)) (w : Nat) (plan : List Manifest) : List Manifest :=
  let out := plan.flatMap (fun mo =>
    let gs := packBarges w [] (mo.barges.map (rebudget im levels))
    closeGroups mo gs.length 0 0 gs)
  ((List.range out.length).zip out).map (fun (i, m) => { m with header := setRec m.header 8 0 32 i })

/-- R184: some barge of the plan would exceed `w` at the levels given. -/
def unfit (im : Image) (levels : List (Nat × Nat)) (w : Nat) : Bool :=
  im.plan.any (fun m => m.barges.any (fun b => decide (w < bBudget b * retimeFactor im levels b)))

end Sys2Proof.Machine
end

