-- ==== Sys2Proof/Machine/Boundary.lean ====
section
/-! DEFINITION. The step boundary (Tables 10-12 and 10-13): history and coarse scales (R71, R73), the sluice swap and
rebuild (R177, R178, R181), the widening grant (R184), the capture decision (R409), and the end of a step or of an
evaluation plan. -/

namespace Sys2Proof.Machine

/-! ## Scales -/

/-- R73: `coarse_scale`: the scale, and the exponent x before its limits. -/
def coarseScale (h : BitVec 32) (l : Fv) (e : Nat) : BitVec 32 × Int :=
  if h = 0xFFFFFFFF#32 ∨ h = 0 then (one32, 0)
  else match fv32 h, l with
    | .fin _ m a, .fin _ n b =>
      let (num, den) := scale2 m (a - b)
      let fl := floorLog2 num (den * n)
      let k := if pow2Le (-fl) (den * n) num then fl else fl + 1
      let x := k - 16 + e
      (to32 (.fin false 1 (max (-126) (min 127 x))), x)
    | _, _ => (one32, 0)

/-- Whether R73 limits an exponent. -/
def limited (x : Int) : Bool := decide (x < -126) || decide (127 < x)

/-- R69: H of a history: the largest nonempty slot. -/
def historyMax (hist : List (Nat × BitVec 32)) : BitVec 32 :=
  hist.foldl (fun h (_, v) => if h = 0xFFFFFFFF#32 then v else fMax h v) 0xFFFFFFFF#32

/-- R71, R91: whether a coarse index takes history: some tensor of it has NO_HISTORY 0. An MX tensor has no coarse index. -/
def takesHistory (im : Image) (idx : Nat) : Bool :=
  im.tensors.any (fun d => !isMxFormat (tdFormat d) && !tdNoHistory d && tdCoarseIndex d == idx)

/-- R74: whether a coarse index is that of a tensor with FIXED_COARSE 1. -/
def fixedIndex (im : Image) (idx : Nat) : Bool :=
  im.tensors.any (fun d => tdFixedCoarse d && !isMxFormat (tdFormat d) && tdCoarseIndex d == idx)

/-- R73: the tensor whose format decides COARSE_W0 of a coarse index: the first in a D format with NO_HISTORY 0, else the first
in a D format (log 82). -/
def scaledBy (im : Image) (idx : Nat) : Option (BitVec 512) :=
  let ds := im.tensors.filter (fun d => isDFormat (tdFormat d) && tdCoarseIndex d == idx)
  match ds.find? (fun d => !tdNoHistory d) with
  | some d => some d
  | none => ds.head?

/-- R73: a coarse scale that was limited is counted and recorded. -/
def State.noteLimit (s : State) (c idx fmt : Nat) (x : Int) : State :=
  if limited x then (s.count R.SCALE_CLAMP_COUNT 1).event 0x0231#16 (srcCtx c)
    [(16, idx), (16, (x % 65536).toNat), (8, fmt)]
  else s

/-- R73, R74: H and the coarse scales of one index recomputed: COARSE_W0 stays where it is fixed, and is 1.0 where no tensor
of the index is in a D format. -/
def State.rescale (s : State) (c idx : Nat) : State :=
  let e := s.scale idx
  let im := s.image c
  let hr := s.get (F.SCALE_CTX_HEADROOM c)
  let h := historyMax e.hist
  let w1 := coarseScale h (.fin false 448 0) hr
  let s := match fixedIndex im idx, scaledBy im idx with
    | true, _ => s.setScale idx { e with h := h, c1 := w1.1 }
    | false, none => s.setScale idx { e with h := h, c0 := one32, c1 := w1.1 }
    | false, some d =>
      let w0 := coarseScale h (largestMag (tdFormat d) (s.codebook (tdCodebook d))) hr
      (s.setScale idx { e with h := h, c0 := w0.1, c1 := w1.1 }).noteLimit c idx (tdFormat d) w0.2
  s.noteLimit c idx 0x12 w1.2

/-- R71: the history of one index written at the commit flip of step `st`. -/
def State.writeHistory (s : State) (c st idx : Nat) : State :=
  if takesHistory (s.image c) idx then
    let e := s.scale idx
    (s.setScale idx { e with hist := tblSet histDefault e.hist (st % 16) e.amax, amax := 0 }).rescale c idx
  else s

/-- The coarse indices that a context claims. -/
def State.claimed (s : State) (c : Nat) : List Nat :=
  (List.range (s.image c).coarseCount).map (fun i => (s.image c).coarseFirst + i)

/-- R77: the claimed indices hold no nonempty slot. -/
def State.histEmpty (s : State) (c : Nat) : Bool := (s.claimed c).all (fun i => (s.scale i).hist.isEmpty)

/-- SCALE_CTX_n's two flags. -/
def State.showHistory (s : State) (c : Nat) : State :=
  let e := s.histEmpty c
  (s.put (F.SCALE_CTX_HIST_EMPTY c) e.toNat).put (F.SCALE_CTX_BOOTSTRAP_NEXT c)
    (e && !(s.image c).bootPlan.isEmpty).toNat

/-- R71: the work over every claimed index. -/
def State.scaleWork (s : State) (c st : Nat) : State :=
  let s := (s.claimed c).foldl (fun s i => s.writeHistory c st i) s
  (s.setReg64 R.SCALE_LAST_STEP (BitVec.ofNat 64 st)).showHistory c

/-- R70, Table 10-13: STEP_AMAX of the claimed indices cleared. -/
def State.clearAmax (s : State) (c : Nat) : State :=
  (s.claimed c).foldl (fun s i => s.setScale i { s.scale i with amax := 0 }) s

/-! ## Statistics banks and window lists -/

/-- The claimed entries of the feed bank set to unfed. -/
def State.unfeed (s : State) (c : Nat) : State :=
  let lo := cstatKey (s.ctx c).feedBank (s.image c).cstatFirst
  { s with cstat := s.cstat.filter (fun e => decide (e.1 < lo) || decide (lo + (s.image c).cstatCount ≤ e.1)) }

/-- R178: a feed bank is discarded. -/
def State.discardFeed (s : State) (c : Nat) : State := (s.unfeed c).count R.SCALE_CSTAT_DISCARD 1

/-- Candidates by descending amax, then ascending channel. -/
def candLe (a b : BitVec 32 × Nat) : Bool := decide (b.1.toNat < a.1.toNat) || (a.1 == b.1 && decide (a.2 ≤ b.2))

/-- R181: `rebuild_window`: the list, and the overflow. AMAX is never negative or NaN, so its bits order as its values. -/
def rebuildWindow (at_ : Nat → CStat) (t : BitVec 512) (w : Nat) (cur : List Nat) : List Nat × Nat :=
  let ks := List.range (min 4096 (stK t - 4096 * w))
  let fed := ks.any (fun k => decide (0 < (at_ (stFirst t + 4096 * w + k)).rows.toNat))
  let cand := ks.filterMap (fun k =>
    let e := at_ (stFirst t + 4096 * w + k)
    let thr := if cur.contains k then stKeepMult t else stLeadMult t
    if 0 < e.rows.toNat ∧ thr * e.rows.toNat ≤ 16 * e.lead.toNat then some (e.amax, k) else none)
  if !fed then (cur, 0)
  else
    let sel := ((cand.mergeSort candLe).take (stBudget t)).map (·.2)
    (sel.mergeSort (fun a b => decide (a ≤ b)), cand.length - sel.length)

/-- R181, R182: one table rebuilt into the next bank: the overflows of its windows above OVF_THR request widening. -/
def State.rebuildTable (s : State) (c id : Nat) (t : BitVec 512) : State :=
  let x := s.ctx c
  let rs := (List.range (stWindows t)).map (fun w =>
    (w, rebuildWindow (s.cstatAt (!x.feedBank)) t w (s.window x.listBank id w)))
  let s := rs.foldl (fun s (w, r) => s.setWindow (!x.listBank) id w r.1) s
  let above := rs.filter (fun r => decide (stOvfThr t < r.2.2) && stOvfReq t)
  match above with
  | [] => s
  | (w, r) :: _ =>
    let sum := (above.map (fun r => r.2.2)).sum
    let s := s.updCtx c (fun x => { x with
      overflowReq := x.overflowReq ++ [stWidenSlot t], overflow := x.overflow + sum })
    (s.count R.TRAIN_SLUICE_OVERFLOW sum).event 0x0251#16 (srcCtx c) [(16, id), (16, w), (8, r.2)]

/-- R181: every table of the context rebuilt. -/
def State.rebuild (s : State) (c : Nat) : State :=
  let s := s.updCtx c (fun x => { x with overflowReq := [], overflowSent := false, overflow := 0 })
  (s.image c).sluices.foldl (fun s t => s.rebuildTable c t.1 t.2) s

/-- Some context's rebuild is running. -/
def State.showRebuild (s : State) : State :=
  s.put F.TRAIN_SLUICE_STATUS_REBUILD_BUSY (((List.range 8).any (fun c => (s.ctx c).rebuilding)).toNat)

/-- R177: the sluice swap after a commit flip, or its withholding. -/
def State.sluiceSwap (s : State) (c : Nat) : State :=
  let x := s.ctx c
  if x.verdict.getLsbD 1 then
    let s := ((s.discardFeed c).count R.TRAIN_SLUICE_WITHHELD 1).on F.TRAIN_SLUICE_STATUS_LAST_WITHHELD
    s.event 0x0250#16 (srcCtx c) [(8, c), (32, s.step c)]
  else
    let s := s.setCtx c { x with listBank := !x.listBank, feedBank := !x.feedBank, rebuilding := true }
    let s := ((s.unfeed c).count R.TRAIN_SLUICE_SWAPS 1).off F.TRAIN_SLUICE_STATUS_LAST_WITHHELD
    let s := (s.put F.TRAIN_SLUICE_STATUS_IN_FORCE (!x.listBank).toNat).put F.SCALE_CSTAT_STATUS_FEED_BANK (!x.feedBank).toNat
    s.showRebuild

/-! ## Widening -/

/-- The request bit of slot `q` in a step verdict (Table 10-8). -/
def widenBit (v : BitVec 2048) (q : Nat) : Bool := v.getLsbD (512 + q)

/-- R184: arena_bytes of a slot at a level. -/
def slotArena (im : Image) (q l : Nat) : Nat := ((slotTensors im q).map (fun i => widenedBytes (imTd im i) l)).sum

/-- TRAIN_WIDEN_STATE for the slot selected, all of the last boundary (R191). -/
def State.showWiden (s : State) : State :=
  let x := s.ctx (s.get F.TRAIN_WIDEN_SEL_CONTEXT)
  let q := s.get F.TRAIN_WIDEN_SEL_SLOT
  let s := (s.put F.TRAIN_WIDEN_STATE_LEVEL (tblGet levelDefault x.levels q)).put F.TRAIN_WIDEN_STATE_HOLD
    (tblGet levelDefault x.holds q)
  (s.put F.TRAIN_WIDEN_STATE_REQ_LAST (x.lastMap.getLsbD q).toNat).put F.TRAIN_WIDEN_STATE_REQ_OWN (x.ownMap.getLsbD q).toNat

def State.lvl (s : State) (c q : Nat) : Nat := tblGet levelDefault (s.ctx c).levels q
def State.holdOf (s : State) (c q : Nat) : Nat := tblGet levelDefault (s.ctx c).holds q
def State.setLvl (s : State) (c q l : Nat) : State :=
  s.updCtx c (fun x => { x with levels := tblSet levelDefault x.levels q l })
def State.setHold (s : State) (c q h : Nat) : State :=
  s.updCtx c (fun x => { x with holds := tblSet levelDefault x.holds q h })

/-- R184: the narrowing of one slot without a request. -/
def State.narrow (s : State) (c q : Nat) : State :=
  if s.lvl c q = 0 then s
  else
    let h := s.holdOf c q + 1
    if h < s.get (F.TRAIN_WIDEN_CTX_HOLD_STEPS c) then s.setHold c q h
    else
      let s := ((s.setLvl c q (s.lvl c q - 1)).setHold c q 0).count R.TRAIN_WIDEN_NARROWED 1
      s.event 0x0263#16 (srcCtx c) [(16, q), (8, s.lvl c q), (32, s.step c)]

/-- R184: the requests granted in ascending slot order until the budget is exhausted. -/
def State.grantSlots (s : State) (c : Nat) : List Nat → State
  | [] => s
  | q :: qs =>
    let im := s.image c
    let s' := s.setHold c q 0
    let l := s.lvl c q
    if 2 ≤ l then s'.grantSlots c qs
    else
      let levels := (s.ctx c).levels
      let used := (levels.filter (fun e => decide (0 < e.2))).length + (if l = 0 then 1 else 0)
      let bytes := (levels.map (fun e => slotArena im e.1 e.2)).sum + slotArena im q (l + 1) - slotArena im q l
      if im.maxSlots < used ∨ im.widenSize < bytes then
        let n := ((q :: qs).filter (fun r => decide (s.lvl c r < 2))).length
        (s'.count R.TRAIN_WIDEN_EXHAUSTED n).event 0x0261#16 (srcCtx c) [(16, q), (16, n), (32, s.step c)]
      else if unfit im (tblSet levelDefault levels q (l + 1)) (s.windowClk 0) then
        ((s'.count R.TRAIN_WIDEN_UNFIT 1).event 0x0262#16 (srcCtx c) [(16, q), (32, s.step c)]).grantSlots c qs
      else
        (((s'.setLvl c q (l + 1)).count R.TRAIN_WIDEN_GRANTS 1).event 0x0260#16 (srcCtx c)
          [(16, q), (8, l + 1), (32, s.step c)]).grantSlots c qs

/-- R184: `grant`, from the step's vote. -/
def State.grant (s : State) (c : Nat) : State :=
  let v := (s.ctx c).verdict
  let s := (List.range 1024).foldl (fun s q => if widenBit v q then s else s.narrow c q) s
  s.grantSlots c ((List.range 1024).filter (widenBit v))

/-- R182, R184, R186, R191: what a boundary does to the widening of context `c`: the maps of its vote are kept, the requests
that the vote carried are spent, and levels follow `grant` unless the step was a bootstrap step. -/
def State.widenAt (s : State) (c : Nat) : State :=
  let s := s.updCtx c (fun x => { x with
    lastMap := x.verdict.extractLsb' 512 1024, ownMap := x.ownVote.extractLsb' 512 1024
    overflowReq := if x.overflowSent then [] else x.overflowReq, overflowSent := false })
  (if (s.ctx c).bootStep then s else s.grant c).showWiden

/-! ## The end of a step -/

/-- R159 of the next step: the sums, flags and STEP_AMAX that a boundary clears (Table 10-13). -/
def State.clearStep (s : State) (c : Nat) : State :=
  let s := s.updCtx c (fun x => { x with
    counts := [], flagged := [], voteSent := false, verdictIn := false, commitIn := false, commitSent := false })
  let s := ((s.off (F.TRAIN_CTX_STATUS_NONFINITE c)).off (F.TRAIN_CTX_STATUS_STASH_FAULT c)).off
    (F.TRAIN_CTX_STATUS_UPD_NONFINITE c)
  s.off (F.TRAIN_CTX_STATUS_UPD_FAULT c)

/-- RISK of a step verdict (Table 10-8). -/
def verdictRisk (v : BitVec 2048) : Nat := recBits v 36 0 8

/-- R409: whether the boundary that the context has just reached captures. -/
def State.captureHere (s : State) (c : Nat) : Bool :=
  let x := s.ctx c
  let p := s.get (F.LK_SNAP_CFG_PERIOD c)
  let r := s.get (F.LK_SNAP_CFG_RISK_MIN c)
  ((x.image.bind (fun im => im.snapBase)).isSome) && s.flag (F.LK_SNAP_CFG_EN c) &&
    ((p != 0 && s.step c % p == 0) ||
     (r != 0 && decide (r ≤ verdictRisk x.verdict) && decide (verdictRisk x.verdict > x.lastRisk)) || x.captureNext)

/-- R263: the context stops at the boundary. -/
def State.stopCtx (s : State) (c : Nat) : State :=
  let s := s.updCtx c (fun x => { x with run := none, pauseNext := false })
  ((s.on (F.TRAIN_CTX_STATUS_STOPPED c)).setPhase c 7).setCtxState c ctxStopped

/-- What the context does after a boundary at lock index `n`: the step that a resume has ordered for a lock index L (R278), an
evaluation plan that waits, or its next step, no earlier than the capture gap and the re-timing allow (R279, R351, R411). A
context under teardown runs nothing more (R397). -/
def State.nextRun (s : State) (c n : Nat) : State :=
  let x := s.ctx c
  if x.stepAborted ∨ s.ctxState c = ctxTeardown then s.updCtx c (fun x => { x with run := none })
  else match x.run.filter (fun r => r.pos == 0) with
  | some r => s.updCtx c (fun x => { x with run := some { r with index := max r.index x.earliest } })
  | none =>
    if x.pauseNext then s.stopCtx c
    else match x.evalNext with
      | k :: ks => s.updCtx c (fun x => { x with evalNext := ks, run := some ⟨.eval k, 0, max n x.earliest⟩ })
      | [] => s.updCtx c (fun x => { x with run := some ⟨.normal, 0, max n x.earliest⟩ })

/-- The part of a boundary that follows a commit flip and a skip alike: grant, capture decision, step index, replay. -/
def State.boundary (s : State) (c n : Nat) : State :=
  let before := (s.ctx c).levels
  let s := s.widenAt c
  let s := s.setReg64 (R.TRAIN_STEP c) (s.reg64 (R.TRAIN_STEP c) + 1)
  let cap := s.captureHere c
  let changed := (s.ctx c).levels != before
  let g := if cap then s.get (F.LK_SNAP_GAP_G c) else 0
  let r := if changed then (2000 + s.get F.LOCK_PERIOD_PERIOD_US - 1) / max 1 (s.get F.LOCK_PERIOD_PERIOD_US) else 0
  let s := s.updCtx c (fun x => { x with
    captureDue := cap, captureNext := false, lastRisk := verdictRisk x.verdict, boundaryIndex := n,
    retiming := changed || x.retiming, earliest := n + max g r, boundary := none, rerun := none })
  let s := ((s.clearStep c).off (F.TRAIN_CTX_STATUS_IN_STEP c)).setPhase c 0
  s.clearSuspect c

/-- R276: the commit flip of context `c` at the tick of lock index `n`. -/
def State.flip (s : State) (c n : Nat) : State :=
  let st := s.step c
  let s := (s.put (F.TRAIN_ARENA_IN_FORCE c) (1 - s.get (F.TRAIN_ARENA_IN_FORCE c))).off (F.TRAIN_ARENA_PENDING c)
  let s := (s.count (R.TRAIN_COMMITS c) 1).put (F.TRAIN_CTX_STATUS_SKIP_RUN c) 0
  let s := ((s.scaleWork c st).boundary c n).updCtx c (fun x => { x with blocksHeld := true })
  let s := if (s.ctx c).stepAborted then s.setPhase c 6 else s
  s.nextRun c n

/-- R262, R263: a skipped step of context `c` ends at the tick of lock index `n`. -/
def State.skipEnd (s : State) (c n : Nat) : State :=
  let st := s.step c
  let s := (s.count (R.TRAIN_SKIPPED c) 1).countField (F.TRAIN_CTX_STATUS_SKIP_RUN c)
  let s := s.event 0x0290#16 (srcCtx c) [(8, c), (32, st), (8, recBits (s.ctx c).verdict 0 0 8)]
  let s := ((s.discardFeed c).clearAmax c).boundary c n
  let s := if (s.ctx c).captureDue then s.startCapture c else s
  let run := s.get (F.TRAIN_CTX_STATUS_SKIP_RUN c)
  let lim := s.get (F.TRAIN_CTX_CFG_SKIP_LIMIT c)
  if lim ≠ 0xFFFF ∧ lim < run then
    let s := (s.stopCtx c).event 0x0291#16 (srcCtx c) [(8, c), (16, run), (32, st)]
    s.complete c 0xFFFF 3 0 0
  else s.nextRun c n

/-- R279: an evaluation plan of context `c` has ended: its writes to STEP_AMAX and its counts are cleared when the next
step begins. A context without steps is cleared of suspicion (R401). -/
def State.evalEnd (s : State) (c n : Nat) : State :=
  let s := s.off (F.TRAIN_CTX_STATUS_EVAL c)
  let s := if (s.ctx c).plan.isEmpty then s.clearSuspect c else s
  let x := s.ctx c
  match x.evalNext with
  | k :: ks => s.updCtx c (fun x => { x with evalNext := ks, run := some ⟨.eval k, 0, max n x.earliest⟩ })
  | [] =>
    if x.pauseNext then s.stopCtx c
    else if x.started then s.updCtx c (fun x => { x with run := some ⟨.normal, 0, max n x.earliest⟩ })
    else (s.updCtx c (fun x => { x with run := none })).setCtxState c ctxLoaded

end Sys2Proof.Machine
end

