-- ==== Sys2Proof/Machine/Sram.lean ====
section
/-! DEFINITION. On-chip memory as barges meet it (R356, R357): the tables of the Basin die that a barge reads, the start of a
barge, and what the end of a drain clears. -/

namespace Sys2Proof.Machine

/-! ## The tables of the Basin die (Table 00-7) -/

def sluiceListBase : Nat := 0xFE0034000000
def cstatBase : Nat := 0xFE0030000000
def historyBase : Nat := 0xFE0038000000
def coarseBase : Nat := 0xFE003C000000
def splitKArea : Nat × Nat := (0xFE0000000000, 0x8800000)
def basinBuffers : Nat × Nat := (0xFE0008800000, 0x7800000)
def stagingArea : Nat × Nat := (0xFE0020000000, 0x8000000)
def memberStore : Nat × Nat := (0xFE0028000000, 0x200000)

/-- The window lists of the resident contexts, context, table and window, in the order in which each bank holds them (log 86). -/
def State.allWindows (s : State) : List (Nat × Nat × Nat) :=
  s.resident.flatMap (fun c => (imWindows (s.image c)).map (fun w => (c, w.1, w.2)))

/-- Where the lists in force of table `t` of context `c` lie. -/
def State.listRegions (s : State) (c t : Nat) : List (Nat × Nat) :=
  let bank := (s.ctx c).listBank.toNat
  ((List.range s.allWindows.length).zip s.allWindows).filterMap (fun (i, w) =>
    if w.1 = c ∧ w.2.1 = t then some (sluiceListBase + bank * 0x1000000 + 128 * i, 128) else none)

/-- R357: what barge `b` reads of the tables and buffers of the Basin die: the coarse scales of its block tensors, the window
lists of B, a boundary table, a frequency table, the statistics and scales it agrees, the staging area and the member store, and
the buffers of its unit, whose places within their area the spec does not give (log 86). -/
def State.tableReads (s : State) (b : Barge) : List (Nat × Nat) :=
  let d := b.desc
  let im := s.image b.ctx
  let scales := ((allRead d ++ allWritten d).filter (fun t => isDFormat (tdFormat (imTd im t)))).map (fun t =>
    (coarseBase + 16 * tdCoarseIndex (imTd im t), 16))
  scales ++
  (if b.cls = 1 then s.listRegions b.ctx (tdSluice (imTd im (mxB d)))
  else if b.cls = 2 then
    if b.op = 4 then [((s.reg64 R.ATTN_ROPE_BASE).toNat + 0x400 * atRopeTable d, 0x400)]
    else [(0xFE003E000000 + 0x40000 * atSlot d, 0x40000)]
  else if b.cls = 5 then
    [stagingArea, memberStore] ++
      (if b.op = 6 then [(coarseBase + 16 * coFirst d, 16 * coCount d)]
      else if b.op = 7 then [(cstatBase + 16 * cstatKey (s.ctx b.ctx).feedBank (coFirst d), 16 * coCount d)] else [])
  else if 6 ≤ b.cls ∧ b.cls ≤ 8 then [basinBuffers] else [])

/-! ## The start of a barge -/

/-- Barge `i` of class `cls` and operation `op` starts now, reads the tables it needs and does `f`; a command for a barge that
cannot start changes nothing. -/
def State.begin (s : State) (i cls op : Nat) (f : Barge → State → State) : Result :=
  match s.barge i with
  | some b =>
    if s.mayStart i ∧ b.cls = cls ∧ b.op = op then
      let s := s.updBarge i (fun b => { b with state := .running s.ftc })
      .next (s.readingWords b (wordIn (s.tableReads b)) (f b))
    else .next s
  | none => .next s

/-! ## What is lost (R357) -/

/-- R76: the coarse-scale entry of an index in its cleared state. -/
def State.emptyCoarse (s : State) (i : Nat) : State :=
  let fixed := s.resident.findSome? (fun c =>
    let im := s.image c
    if fixedIndex im i && decide (im.coarseFirst ≤ i) && decide (i < im.coarseFirst + im.coarseCount) then im.fixedCoarse.lookup i
    else none)
  s.setScale i { s.scale i with h := 0xFFFFFFFF#32, c0 := fixed.getD one32, c1 := one32, amax := 0 }

/-- R76, R170: the table entry that holds the word at device address `a` takes its cleared state; a window list is then empty,
the split-K area holds nothing after a drain, and elsewhere the word's bytes have no stated value (log 86). -/
def State.clearWord (s : State) (a : Nat) : State :=
  if cstatBase ≤ a ∧ a < sluiceListBase then { s with cstat := tblSet cstatDefault s.cstat ((a - cstatBase) / 16) {} }
  else if sluiceListBase ≤ a ∧ a < sluiceListBase + 0x2000000 then
    match s.allWindows[(a - sluiceListBase) % 0x1000000 / 128]? with
    | some w => s.setWindow (decide (sluiceListBase + 0x1000000 ≤ a)) w.2.1 w.2.2 []
    | none => s
  else if historyBase ≤ a ∧ a < historyBase + 0x400000 then
    let i := (a - historyBase) / 64
    s.setScale i { s.scale i with hist := [] }
  else if coarseBase ≤ a ∧ a < coarseBase + 0x100000 then s.emptyCoarse ((a - coarseBase) / 16)
  else if a < splitKArea.1 + splitKArea.2 then s
  else s.undefine [(a, 8)]

/-- R357: the words lost since the drain began are cleared, and hold no error. -/
def State.clearLost (s : State) : State :=
  let as := s.health.lostWords
  let s := as.foldl (fun s a => s.clearWord a) s
  { s with health := { s.health with
    lostWords := [], sram := s.health.sram.filter (fun w => !(w.memory == .basin && as.contains (wordAddress w))) } }

end Sys2Proof.Machine
end

