-- ==== Sys2Proof/Machine/Lock.lean ====
section
/-! DEFINITION. The lock tick and the shape of work (spec/01): ticks, windows, project_end, drains, the completion of
barges, and the CONTROL barges. -/

namespace Sys2Proof.Machine

/-! ## The end of a barge -/

/-- How far COLLECTIVE barge `i` is: 0 started, 1 its own shard sent, 2 its outputs written. -/
def collectiveDefault (_ : Nat) : Nat := 0
def State.collectiveAt (s : State) (i : Nat) : Nat := tblGet collectiveDefault s.lock.collective i
def State.setCollective (s : State) (i n : Nat) : State :=
  { s with lock := { s.lock with collective := tblSet collectiveDefault s.lock.collective i n } }

/-- Whether what a running barge waits for has come: an array barge for its last task, a COLLECTIVE for its outputs and
acknowledgements, a VOTE for its verdict, a FENCE for the earlier barges of its context. A barge of a step that has been
aborted drains and does not complete (R35, log 49). -/
def State.completable (s : State) (i : Nat) (b : Barge) : Bool :=
  b.isRunning && !(s.ctx b.ctx).stepAborted &&
  if b.queue = 0 then
    s.array.barge == some i && decide (s.array.finished.length = s.get F.COMPUTE_TASKS_TOTAL_COUNT)
  else if b.cls = 5 then s.collectiveAt i == 2 && s.allAcked b
  else if b.cls = 8 then
    (if b.op = 0 then (s.ctx b.ctx).verdictIn else (s.ctx b.ctx).commitIn) && s.allAcked b
  else if b.cls = 9 ∧ b.op = 2 then (s.lock.active.take i).all (fun e => e.ctx != b.ctx || e.over)
  else true

/-- R218: a COMPRESS barge that completes shows its counts and what it dropped. -/
def State.showCounts (s : State) (b : Barge) : State :=
  let n := cxBuckets b.desc
  let s := (List.range 256).foldl (fun s j => s.put (F.VECTOR_CNT_COUNT j) (if j < n then s.array.counts.getD j 0 else 0)) s
  let s := ((s.on F.VECTOR_CNT_STATUS_VALID).put F.VECTOR_CNT_STATUS_CONTEXT b.ctx).put F.VECTOR_CNT_STATUS_NBUCKETS n
  s.put F.VECTOR_CNT_DROPPED_COUNT (s.array.counts.getD n 0)

/-- R29, R189: barge `i`, which started at `start`, completes: a CSTAT_AGREE shows so, budget (its duration in clk rounded up), NOTIFY, and the time of
the last completion in whole clk (log 68). -/
def State.finishBarge (s : State) (i start : Nat) (b : Barge) : State :=
  let dur := (11 * (s.ftc - start) + 9) / 10
  let s := s.updBarge i (fun b => { b with state := .done })
  let s := { s with lock := { s.lock with lastEnd := some (clkOf (s.ftc - (s.lock.tick + 1000))) } }
  let s := if bBudget b.desc < dur then
      ((s.count R.LOCK_BUDGET_COUNT 1).on F.LOCK_EVENTS_BUDGET_EXCEED).event 0x0106#16 (srcCtx b.ctx) [(16, b.ownIndex), (32, dur)]
    else s
  let s := if b.cls = 3 ∧ b.op = 3 then s.showCounts b else s
  let s := if b.cls = 5 ∧ b.op = 7 then s.on F.SCALE_CSTAT_STATUS_AGREED else s
  let s := if b.queue = 0 then (s.reportRows b).freeArray else s
  if bNotify b.desc then s.complete b.ctx 0xFFFF 2 0 b.ownIndex else s

/-- Barge `i` completes if it may. -/
def State.tryFinish (s : State) (i : Nat) : State :=
  match s.barge i with
  | some b =>
    match b.state with
    | .running t => if s.completable i b then s.finishBarge i t b else s
    | _ => s
  | none => s

/-- R29. -/
def execBargeComplete (i : Nat) (now : DWord) (s : State) : Result := .next ((s.at_ now.toNat).tryFinish i)

/-- R24, NOP. -/
def execNop (i : Nat) (s : State) : Result := s.begin i 9 0 (fun _ s => s.tryFinish i)

/-- R24, NOTIFY: a completion record, and with it the context's MSI-X vector. -/
def execNotify (i : Nat) (s : State) : Result :=
  s.begin i 9 1 (fun b s => (s.complete b.ctx 0xFFFF 2 0 b.ownIndex).tryFinish i)

/-- R24, FENCE. -/
def execControlFence (i : Nat) (s : State) : Result := s.begin i 9 2 (fun _ s => s.tryFinish i)

/-! ## Composition (R469) -/

/-- The manifests of a plan. -/
def Ctx.planOf (x : Ctx) : PlanKind → List Manifest
  | .normal => x.plan
  | .bootstrap => (x.image.map (fun im => im.bootPlan)).getD []
  | .eval k => (x.image.bind (fun im => im.evals[k]?)).getD []

/-- R469: an AFTER field moved by the offset of its context's barges. -/
def moveAfter (b : BitVec 1024) (byte base : Nat) (a : Option Nat) : BitVec 1024 :=
  match a with
  | some j => setRec b byte 0 12 (base + j)
  | none => b

/-- R469: a barge of context `c` at offset `base` of the composed manifest. -/
def composeBarge (base c : Nat) (k : PlanKind) (m : Manifest) (b : BitVec 1024) : Barge :=
  let d := setRec (setRec b 4 0 3 c) 6 0 12 (base + bIndex b)
  let d := moveAfter (moveAfter d 8 base (bAfterA b)) 10 base (bAfterB b)
  ⟨d, bIndex b, mhPlanPos m.header, (match k with | .eval _ => true | _ => false), k == .bootstrap, .waiting⟩

/-- R463, R469: context `c` stages manifest `m` of plan `k`. The composed header's FLAGS are 0 (log 71). -/
def State.stage (s : State) (c : Nat) (k : PlanKind) (m : Manifest) : State :=
  let base := s.lock.active.length
  let act := s.lock.active ++ m.barges.map (composeBarge base c k m)
  let h := manifestHeader act.length false false (mhPlanEnd s.lock.header + mhPlanEnd m.header) 0
    (manifestCrc (act.map (fun b => b.desc)))
  let s := if m.barges.isEmpty ∨ s.lk.watchdog.seen.contains c then s else
    { s with lk := { s.lk with watchdog := { s.lk.watchdog with seen := s.lk.watchdog.seen ++ [c] } } }
  ({ s with lock := { s.lock with active := act, header := h } } : State).tick R.LK_PROGRESS

/-- R335: the declared groups of a context that are not bound to it. -/
def State.unboundGroups (s : State) (c : Nat) : List Nat :=
  ((s.image c).groups.filter (fun g => !s.groupBound c g.1 g.2)).map (·.1)

/-- R335: staging declined for a group: once for each context and group until a step starts. -/
def State.declineGroup (s : State) (c g : Nat) : State :=
  if (s.ctx c).unbound.contains g then s
  else
    let s := s.updCtx c (fun x => { x with unbound := g :: x.unbound })
    (s.event 0x040B#16 (srcCtx c) [(8, c), (16, g)]).complete c 0xFFFF 5 0 g

/-- R78: a bootstrap step begins. -/
def State.noteBootstrap (s : State) (c : Nat) (k : PlanKind) : State :=
  if k = .bootstrap then
    (s.count R.SCALE_BOOTSTRAP_COUNT 1).event 0x0230#16 (srcCtx c) [(8, c), (32, s.step c)]
  else s

/-- The start of a step of context `c` (R250, R279, Table 10-13). A step run again after an abort keeps its seed (R278). -/
def State.startStep (s : State) (c : Nat) (k : PlanKind) : State :=
  let s := ((s.clearStep c).clearAmax c).updCtx c (fun x => { x with
    seed := x.rerun.getD (s.reg64 (R.TRAIN_SEED c)), rerun := none, bootStep := k == .bootstrap, unbound := [] })
  let s := ((s.on (F.TRAIN_CTX_STATUS_IN_STEP c)).setPhase c 1).off F.SCALE_CSTAT_STATUS_AGREED
  (s.off (F.LK_SNAP_VERIFY_RESTORED c)).noteBootstrap c k

/-- The start of an evaluation plan of context `c` (R250, R279). -/
def State.startEval (s : State) (c : Nat) : State :=
  (s.updCtx c (fun x => { x with seed := s.reg64 (R.TRAIN_SEED c), evalNonfinite := false })).on (F.TRAIN_CTX_STATUS_EVAL c)

/-- R77, R78: the plan that a context's next step runs. -/
def State.stepKind (s : State) (c : Nat) : PlanKind :=
  if s.histEmpty c && !(s.image c).bootPlan.isEmpty then .bootstrap else .normal

/-- The run of context `c` put off to the next tick. -/
def State.delayRun (s : State) (c : Nat) (r : Run) (n : Nat) : State :=
  s.updCtx c (fun x => { x with run := some { r with index := n + 1 } })

/-- The manifest at a run's position staged, the run moved on. -/
def State.stageAt (s : State) (c n : Nat) (r : Run) : State :=
  match ((s.ctx c).planOf r.kind)[r.pos]? with
  | some m => (s.updCtx c (fun x => { x with run := some { r with pos := r.pos + 1, index := n + 1 } })).stage c r.kind m
  | none => s.updCtx c (fun x => { x with run := some { r with index := n + 1 } })

/-- What context `c` stages for the interval that the tick of lock index `n` opens (R335, R351, R401, R465). -/
def State.stageCtx (s : State) (c n : Nat) : State :=
  match (s.ctx c).run with
  | none => s
  | some r =>
    if n < r.index then s
    else if !s.mayStage c then s.delayRun c r n
    else if 0 < r.pos then s.stageAt c n r
    else match r.kind with
      | .eval _ => (s.startEval c).stageAt c n r
      | _ =>
        let gs := s.unboundGroups c
        if !gs.isEmpty then (gs.foldl (fun s g => s.declineGroup c g) s).delayRun c r n
        else
          let k := s.stepKind c
          if (s.ctx c).retiming ∧ k = .normal then s.delayRun c r n
          else (s.startStep c k).stageAt c n { r with kind := k }

/-! ## The close of the work window -/

/-- R20: a maintenance task put off. -/
def State.defer (s : State) (kind unit : Nat) (src : BitVec 16) : State :=
  (s.on F.LOCK_EVENTS_MAINT_DEFERRED).event 0x0107#16 src [(8, kind), (16, unit)]

/-- R20: a task of `ns` worst-case nanoseconds ends by the next tick. -/
def State.fitsSlot (s : State) (ns : Nat) : Bool := decide (s.ftc + ns ≤ (s.reg64 R.LOCK_NEXT_TICK).toNat)

/-- R368: one scrub of a sector: one read with a correction is rewritten and counted, one that reads uncorrectable is stored
poisoned or stays so. -/
def State.scrubSector (s : State) (n : Nat) : State × SectorRead :=
  let (s, r) := s.readSector n
  match r with
  | .good => (s, r)
  | .corrected => (((s.count R.MEM_RMW 1).setSector n {}).count R.HEALTH_SCRUB_FIXED 1, r)
  | .uncorrectable => ((s.uncorrectable rdScrub n).setSector n { poisoned := true }, r)

/-- R285, R368: the sectors of the eight rows of the address map from row `row`, of `e` channels, whose scrub can differ from
that of a good sector: every one while some pseudo-channel has a mark, else those with something wrong. -/
def State.scrubSectors (s : State) (row e : Nat) : List Nat :=
  let inRows := fun (n : Nat) => decide ((n / 4 / max 1 e + 1953125 - row) % 1953125 < 8) && decide (512 * n < s.hbmEnd)
  if s.flag F.MEM_STATUS_MARKED then
    (List.range 8).flatMap (fun r => (List.range (4 * e)).map (fun k => 4 * e * ((row + r) % 1953125) + k)) |>.filter s.isNotable
  else (s.mem.sectors.map (·.1)).filter inRows

/-- R368: one scrub burst: eight rows on every enabled channel, from HEALTH_SCRUB_ROW. -/
def State.scrubBurst (s : State) : State :=
  let row := s.get F.HEALTH_SCRUB_ROW_ROW
  let s := (s.scrubSectors row (s.get F.MEM_STATUS_ENABLED)).foldl (fun s n => (s.scrubSector n).1) s
  let next := row + 8
  if 1953125 ≤ next then (s.put F.HEALTH_SCRUB_ROW_ROW (next - 1953125)).count R.HEALTH_SCRUB_PASSES 1
  else s.put F.HEALTH_SCRUB_ROW_ROW next

/-- R294, R368: the scrub burst of a maintenance slot. -/
def State.scrubTask (s : State) : State :=
  if !s.flag F.HEALTH_SCRUB_CTL_EN then s
  else if s.fitsSlot 500 then s.scrubBurst else s.defer 3 0xFFFF srcPackage

/-- R296: the channel to retrain next: the lowest enabled one not below the next in turn, or the lowest of all. -/
def State.retrainChannel (s : State) : Option Nat :=
  let en := (List.range 384).filter (fun c => !s.mappedOut c)
  match en.find? (fun c => decide (s.mem.nextChannel ≤ c)) with
  | some c => some c
  | none => en.head?

/-- R295, R296: the next retraining phase starts, or is deferred and the scrub burst follows. -/
def State.retrainTask (s : State) : State :=
  match s.retrainChannel with
  | none => s.scrubTask
  | some c =>
    if s.fitsSlot 1500 then
      let s := ((s.on F.MEM_RETRAIN_ACTIVE).put F.MEM_RETRAIN_PHASE s.mem.phaseB.toNat).put F.MEM_RETRAIN_CHANNEL c
      { s with mem := { s.mem with retraining := some (c, s.mem.phaseB) } }
    else (s.defer (if s.mem.phaseB then 2 else 1) c (source 5 c)).scrubTask

/-- R314, R325: the next up port takes an equalisation step, and asks its partner for coefficients: what it asks is coded as
the PMD's standard says, which the spec does not repeat, and is free (log 72). -/
def State.eqTask (s : State) : State :=
  let ps := s.upPorts
  let p := match ps.find? (fun p => decide (s.link.eqNext ≤ p)) with | some p => some p | none => ps.head?
  match p with
  | none => s
  | some p =>
    if s.flag F.LOCK_STATUS_DRAINING then s.defer 0x10 p (source 6 p)
    else
      let s := ({ s with link := { s.link with eqPort := some p, eqNext := p + 1 } } : State).updPort p
        (fun x => { x with equalising := true })
      let (v, s) := s.draw
      s.sendControl p 4 (leBytes 8 v.toNat)

/-- The barges whose context's step or plan has not been aborted. -/
def State.unfinished (s : State) : Bool := s.lock.active.any (fun b => b.open_ && !(s.ctx b.ctx).stepAborted)

/-- R34, Table 01-1: the work window closes and the maintenance slot opens. -/
def State.closeWindow (s : State) : State :=
  if s.lock.closed then s
  else
    let t := s.lock.tick + 1000 * (s.get F.LOCK_PERIOD_PERIOD_US - s.get F.LOCK_SLOTS_MAINT_US + s.lock.stretched)
    let s := s.at_ t
    let s := { s with lock := { s.lock with windowOpen := false, closed := true } }
    let s := if s.unfinished then s.overrun 1 else s
    let s := s.eqTask
    if s.flag F.LOCK_STATUS_DRAINING then s else s.retrainTask

/-- R34: the work window closes; no close before the interval has opened its window. -/
def execWorkWindowClose (s : State) : Result := .next (if s.lock.windowOpen then s.closeWindow else s)

/-- Table 01-1: the work window opens 1 µs after the tick. -/
def execWorkWindowOpen (s : State) : Result :=
  .next (if s.lock.fired && !s.lock.closed && !s.lock.windowOpen then
    let s := s.at_ (s.lock.tick + 1000)
    { s with lock := { s.lock with windowOpen := true }, module := { s.module with tickOut := false } }
  else s)

/-! ## The tick -/

/-- R405 of the last interval: stale-epoch packets of context `c` are reported once per interval. -/
def State.clearDrops (s : State) (c : Nat) : State :=
  if (s.ctx c).epochDrops = 0 then s
  else
    let n := (s.ctx c).epochDrops
    (s.updCtx c (fun x => { x with epochDrops := 0 })).event 0x0405#16 (srcCtx c) [(8, c), (32, n)]

/-- What a tick ends for context `c`: a commit flip, a skipped step or an evaluation plan (R262, R276, R277, R279). -/
def State.endRun (s : State) (c n : Nat) : State :=
  let x := s.ctx c
  if x.boundary = some true then s.flip c n
  else match x.run with
    | none => s
    | some r =>
      if r.pos < (x.planOf r.kind).length ∨ r.pos = 0 then s
      else match r.kind with
        | .eval _ => s.evalEnd c n
        | _ => s.skipEnd c n

/-- R412: a capture whose gap ends at lock index `n`. -/
def State.expireCapture (s : State) (c n : Nat) : State :=
  match (s.ctx c).capture with
  | some k => if k.deadline ≤ n then s.abandonCapture c else s
  | none => s

/-- R12, R37: the lock index of the tick that fires: the first tick of a job that no schedule message announced and no
recovery restarted has index 0 (log 26). -/
def State.tickIndex (s : State) : BitVec 64 :=
  match s.lock.indexNext with
  | some n => n
  | none => if s.flag F.LOCK_STATUS_TICKING || s.lock.schedArrived || s.reg64 R.LOCK_INDEX != 0 then s.reg64 R.LOCK_INDEX + 1
    else 0

/-- LOCK_LAST_END of the interval that closes (Table 01-16). -/
def State.lastEndWord (s : State) : BitVec 32 :=
  if s.lock.ended then 0xFFFFFFFF#32 else BitVec.ofNat 32 (s.lock.lastEnd.getD 0)

/-- R37: a tick that no schedule message announced. -/
def State.missed (s : State) (t : Nat) : State :=
  if s.flag F.LOCK_STATUS_TICKING && !s.lock.schedArrived && !s.flag F.LOCK_CTL_TICK_MASTER then
    (s.on F.LOCK_EVENTS_SCHEDULE_MISS).event 0x0105#16 srcPackage [(48, t)]
  else s

/-- The registers of the LOCK block at a tick at FTC `t` with lock index `n`. -/
def State.openInterval (s : State) (t : Nat) (n : BitVec 64) : State :=
  let s := (s.setReg64 R.LOCK_INDEX n).setReg R.LOCK_LAST_END s.lastEndWord
  let s := ((s.setReg R.LOCK_GRANT 0).off F.LOCK_STATUS_STRETCHED).on F.LOCK_STATUS_TICKING
  let s := s.setReg64 R.LOCK_NEXT_TICK (BitVec.ofNat 64 (t + s.period))
  let still := if s.flag F.LOCK_STATUS_DRAINING then s.lock.inFlight ++ s.lock.active.filter Barge.isRunning else []
  { s with
    lock := { tick := t, prevTick := s.lock.tick, fired := true, resetHold := s.lock.resetHold, tickInDue := s.lock.tickInDue
              inFlight := still
              unannounced := s.flag F.LOCK_STATUS_TICKING && !s.lock.schedArrived && !s.flag F.LOCK_CTL_TICK_MASTER }
    link := { s.link with noRoute := [] } }

/-- R38: the pulse on TICK_OUT. -/
def State.pulse (s : State) : State :=
  if s.flag F.LOCK_CTL_TICK_OUT_EN then ({ s with module := { s.module with tickOut := true } } : State).emit .tickOut else s

/-- R15: a lock tick fires. -/
def State.lockTick (s : State) : State :=
  let s := if s.lock.fired then s.closeWindow else s
  let s := s.at_ (s.reg64 R.LOCK_NEXT_TICK).toNat
  let t := s.ftc
  let n := s.tickIndex
  let s := (s.missed t).forEach (List.range 8) (fun c s => s.clearDrops c)
  let s := (s.openInterval t n).pulse
  let s := s.forEach (List.range 8) (fun c s => (s.endRun c n.toNat).expireCapture c n.toNat)
  let s := s.tickEngines n.toNat
  s.forEach (List.range 8) (fun c s => s.stageCtx c n.toNat)

/-- R15, R37. While a device recovery or a module reset holds the device no tick fires. -/
def execLockTick (s : State) : Result := .next (if s.lock.resetHold then s else s.lockTick)

/-! ## Stretch -/

/-- R30: the stretch limit in µs. -/
def State.stretchLimit (s : State) : Nat := s.get F.LOCK_PERIOD_PERIOD_US * s.get F.LOCK_SLOTS_STRETCH_LIMIT / 256

/-- R30: the slowness of a queue in 1/64. The spec gives the link throttle no steps, so FABRIC_SLOW stays at full speed
(log 70). -/
def State.slow (s : State) (q : Nat) : Nat :=
  if q = 0 then s.get F.LOCK_SLOW_ARRAY_SLOW else if q = 1 then s.get F.LOCK_SLOW_MOVER_SLOW
  else if q = 2 then s.get F.LOCK_SLOW_FABRIC_SLOW else 64

/-- R31: the budget that a barge has left at FTC `now`, in clk; its elapsed time counts whole clk (log 68). -/
def Barge.left (b : Barge) (now : Nat) : Nat :=
  match b.state with
  | .running t => bBudget b.desc - clkOf (now - t)
  | _ => bBudget b.desc

/-- R31: project_end, in clk after `now`. -/
def State.projectEnd (s : State) (now : Nat) : Nat :=
  ((List.range 5).map (fun q =>
    let rem := ((s.lock.active.filter (fun b => b.queue == q && b.open_)).map (fun b => b.left now)).sum
    ((rem + queueLimit q - 1) / queueLimit q * s.slow q + 63) / 64)).foldl max 0

/-- R32: need in µs: what project_end, `clk` after `now`, exceeds the unstretched close by, rounded up. -/
def State.needUs (s : State) (now clk : Nat) : Nat :=
  let close := s.lock.tick + 1000 * (s.get F.LOCK_PERIOD_PERIOD_US - s.get F.LOCK_SLOTS_MAINT_US)
  (11 * now + 10 * clk - 11 * close + 10999) / 11000

/-- R328: a need raised or received: the largest is kept and sent upward when it grows. An abort does not take it back at the
tick master (log 69). -/
def State.holdNeed (s : State) (need : Nat) : State :=
  if need ≤ s.lock.needHeld then s
  else
    let s := { s with lock := { s.lock with needHeld := need } }
    match s.parentPort with
    | some p => s.queuePacket p 2 (s.packet { dst := 0, kind := pkStretch, payload := leBytes 2 need })
    | none => s

/-- R32, R34: what the evaluation at `now` leads to. Event 0x0101 carries project_end from the tick in clk, rounded up
(log 68). -/
def State.evaluate (s : State) (now : Nat) : State :=
  let clk := s.projectEnd now
  let need := s.needUs now clk
  let s := { s with lock := { s.lock with lastNeed := need } }
  if s.stretchLimit < need then s.overrun 0
  else if 0 < need ∧ s.get F.LOCK_GRANT_REQUEST_US < need then
    let s := s.put F.LOCK_GRANT_REQUEST_US need
    let s := s.event 0x0101#16 srcPackage [(16, need), (32, (11 * (now - s.lock.tick) + 9) / 10 + clk)]
    s.holdNeed need
  else s

/-- R31: an evaluation between the check point and the cutoff, while the interval's work runs; there is none in an interval
in which a step was aborted (log 69). -/
def execProjectEndEvaluation (now : DWord) (s : State) : Result :=
  let s := s.at_ now.toNat
  let p := s.get F.LOCK_PERIOD_PERIOD_US
  let lo := s.lock.tick + 1000 * (p - s.get F.LOCK_STRETCH_TIMING_LEAD_US)
  let hi := s.lock.tick + 1000 * (p - s.get F.LOCK_STRETCH_TIMING_CUTOFF_US)
  .next (if s.lock.windowOpen && !s.lock.aborted && decide (lo ≤ now.toNat) && decide (now.toNat ≤ hi) then
    s.evaluate now.toNat else s)

/-- R33, R35: a grant applied to the interval, unless its step has been aborted. -/
def State.applyGrant (s : State) (g : Nat) : State :=
  if g = 0 || s.lock.aborted then s
  else
    let s := { s with lock := { s.lock with stretched := g } }
    let s := ((s.put F.LOCK_GRANT_GRANT_US g).on F.LOCK_STATUS_STRETCHED).count R.LOCK_STRETCH_COUNT 1
    s.event 0x0102#16 srcPackage [(16, g), (16, s.get F.LOCK_GRANT_REQUEST_US)]

/-- R329: the payload of a SCHED. -/
def schedPayload (next index g p : Nat) : List Byte := leBytes 8 next ++ leBytes 8 index ++ leBytes 2 g ++ leBytes 2 p

/-- A SCHED sent on every child port. -/
def State.sendSched (s : State) (payload : List Byte) : State :=
  let pk := s.packet { dst := 0, kind := pkSched, payload := payload }
  s.childPorts.foldl (fun s p => if s.isUp p then s.queuePacket p 2 pk else s) s

/-- R38, R329: the next tick of a tick master: with TICK_IN_EN, the first edge of TICK_IN, which comes at the lock period,
that is not before `t` (log 25). -/
def State.nextEdge (s : State) (t : Nat) : Nat :=
  match s.flag F.LOCK_CTL_TICK_IN_EN, s.lock.tickInDue with
  | true, some e => if t ≤ e then e else e + (t - e + s.period - 1) / max 1 s.period * s.period
  | _, _ => t

/-- R329: the tick master sends the schedule of the next tick. -/
def State.schedule (s : State) : State :=
  let g := min s.lock.needHeld s.stretchLimit
  let p := s.get F.LOCK_PERIOD_PERIOD_US
  let s := s.at_ (s.lock.tick + 1000 * (p - s.get F.LOCK_STRETCH_TIMING_CUTOFF_US + s.get F.LINK_TICK_CFG_GATHER_US))
  let next := s.nextEdge (s.lock.tick + 1000 * (p + g))
  let s := s.sendSched (schedPayload next s.tickIndex.toNat g p)
  let s := { s.setReg64 R.LOCK_NEXT_TICK (BitVec.ofNat 64 next) with lock := { s.lock with schedArrived := true, granted := g } }
  s.applyGrant g

/-- R329: once in an interval, at the tick master. -/
def execSchedSend (s : State) : Result :=
  .next (if s.flag F.LOCK_CTL_TICK_MASTER && s.lock.fired && !s.lock.schedArrived then s.schedule else s)

/-- R38: a rising edge on TICK_IN: a tick master that follows it fires its tick on the first edge not before P + g after
the current tick, g being what its schedule granted. -/
def execTickInEdge (now : DWord) (s : State) : Result :=
  let s := s.at_ now.toNat
  .next (if s.flag F.LOCK_CTL_TICK_MASTER && s.flag F.LOCK_CTL_TICK_IN_EN then
    let s := { s with lock := { s.lock with tickInDue := some now.toNat } }
    let due := s.lock.tick + 1000 * (s.get F.LOCK_PERIOD_PERIOD_US + s.lock.granted)
    if due ≤ now.toNat ∨ !s.lock.fired then s.setReg64 R.LOCK_NEXT_TICK now else s
  else s)

/-! ## Fabric time -/

/-- R327: the ten-microsecond exchange: a TIME flit to the partner on the parent port in use; with neither parent port up
the lock is lost. The tick master is its own reference. -/
def execTimeExchange (now : DWord) (s : State) : Result :=
  let s := s.at_ now.toNat
  .next (if s.flag F.LOCK_CTL_TICK_MASTER then s.on F.LOCK_STATUS_FTC_LOCKED
    else match s.parentPort with
      | none => s.unlockFtc
      | some p =>
        let s := s.sendControl p 3 (leBytes 8 s.ftc ++ leBytes 8 (s.port p).timeIn)
        s.updPort p (fun x => { x with timeSent := some s.ftc }))

/-- R327: no exchange has completed for 100 µs. -/
def execFtcSyncTimeout (now : DWord) (s : State) : Result := .next ((s.at_ now.toNat).unlockFtc)

/-! ## Drains -/

/-- R35, R357: the drain ends: what was still in flight of the aborted steps has ended, and the words lost are cleared. -/
def execDrainEnd (now : DWord) (s : State) : Result :=
  let s := s.at_ now.toNat
  .next (if s.flag F.LOCK_STATUS_DRAINING then
    let gone := fun (b : Barge) => b.open_ && (s.ctx b.ctx).stepAborted
    ({ s.off F.LOCK_STATUS_DRAINING with lock := { s.lock with
      inFlight := []
      active := s.lock.active.map (fun b => if gone b then { b with state := .removed } else b) } } : State).clearLost
  else s)

end Sys2Proof.Machine
end

