-- ==== Sys2Proof/Machine/Array.lean ====
section
/-! DEFINITION. The engine array as every array barge uses it (R99 to R112): dealing, claims, steals, split-K
reservations and retirement of tasks; and the writing of tensors through the output path. -/

namespace Sys2Proof.Machine

/-! ## Tasks -/

def queueDefault (_ : Nat) : List Nat := []
def State.queue (s : State) (g : Nat) : List Nat := tblGet queueDefault s.array.queues g
def State.setQueue (s : State) (g : Nat) (ts : List Nat) : State :=
  { s with array := { s.array with queues := tblSet queueDefault s.array.queues g ts } }

/-- The array barge in flight. -/
def State.arrayBarge (s : State) : Option Barge := s.array.barge.bind s.barge

/-- S of the array barge in flight: 1 for a barge whose tasks join nothing (R101, R231). -/
def Barge.splitK (b : Barge) : Nat :=
  if b.cls = 1 then max 1 (mxSplitK b.desc) else if b.cls = 2 ∧ b.op = 0 then max 1 (atSplit b.desc) else 1
def Barge.comp (b : Barge) : Bool := b.cls == 1 && mxComp b.desc
def Barge.noCross (b : Barge) : Bool := b.cls == 1 && mxNoCross b.desc

/-- R104: what each cluster receives of the live tasks. -/
def dealTo (ts : List Nat) (p q e : Nat) : List Nat :=
  (ts.drop (ts.length * p / e)).take (ts.length * q / e - ts.length * p / e)

/-- R104: available engines of a global cluster. -/
def State.availableIn (s : State) (g : Nat) : List Nat := (clusterEngines g).filter s.isAvailable

/-- R104: the live tasks dealt to the 80 cluster queues. -/
def State.deal (s : State) (ts : List Nat) : State :=
  let ws := (List.range 80).map (fun g => (s.availableIn g).length)
  let e := ws.sum
  if e = 0 then s
  else (List.range 80).foldl (fun s g => s.setQueue g (dealTo ts (ws.take g).sum (ws.take (g + 1)).sum e)) s

/-! ## Claims and steals -/

/-- The tile slots of engine `e` in use. -/
def State.usedSlots (s : State) (e : Nat) : List Nat := (s.array.slots.filter (fun t => t.1 / 2 == e)).map (fun t => t.1 % 2)

/-- R98, R133: a free tile slot of engine `e`: one of two, or the only one in compensated mode. -/
def State.freeSlot (s : State) (b : Barge) (e : Nat) : Option Nat :=
  (if b.comp then [0] else [0, 1]).find? (fun k => !(s.usedSlots e).contains k)

/-- R109, R133, R232: split-K slots that one partial of a tile takes. -/
def State.partialSlots (s : State) (b : Barge) : Nat :=
  if b.cls = 2 then (128 * (16 + 4 * (s.view (s.frame b) (atQ b.desc)).dim 0) + 69631) / 69632
  else if b.comp then 2 else 1

/-- R109: whether a task may be claimed: its tile is open, or its split-K slots can be reserved. -/
def State.claimable (s : State) (b : Barge) (t : Nat) : Bool :=
  let k := b.splitK
  let per := (k - 1) * s.partialSlots b
  k == 1 || s.array.reserved.contains (t / k) || decide ((s.array.reserved.length + 1) * per ≤ 2048)

/-- R103: an engine that may claim: available, and not marked offline since the tick. -/
def State.mayClaim (s : State) (e : Nat) : Bool := s.isAvailable e && !s.isOffline e

/-- R136: the groups of a task's segment, which its tile slot retires; of a MATRIX barge. -/
def State.expectedOf (s : State) (b : Barge) (t : Nat) : Nat :=
  if b.cls = 1 then ((s.bargeProduct b).taskGroups t).length else 0

/-- R98, R99, R203: what a task brings to engine `e` when it is claimed: its operand tiles come into the cluster buffer, and
the first vector of a VECTOR task into the lanes. -/
def State.fetchTask (s : State) (b : Barge) (e t : Nat) : State :=
  if b.cls = 1 then s.fetchTiles (clusterOf e) ((s.bargeProduct b).operandTiles t)
  else if b.cls = 2 ∧ b.op ≤ 1 then s.fetchTiles (clusterOf e) ((s.bargeJob b).operandTiles t)
  else if b.cls = 3 ∧ b.op ≠ 3 ∧ b.op ≠ 4 then
    s.loadLanes b e (t % vecTasks (s.view (s.frame b) (vbIn b.desc 0)))
  else s

/-- R105: an engine claims its next task while the one it runs has no more than 2 groups left to issue; the last group issued
may still be in the adder tree. -/
def State.nearEnd (s : State) (b : Barge) (key : Nat) : State :=
  match b.cls, s.array.slots.lookup key with
  | 1, some x => s.runOn b key (x.expected - 3)
  | _, _ => s

/-- Engine `e` takes task `t` into a tile slot, and its tile's split-K slots are reserved (R109). -/
def State.take (s : State) (b : Barge) (e k t : Nat) : State :=
  let tile := t / b.splitK
  let s := (s.nearEnd b (slotKey e (1 - k))).fetchTask b e t
  let res := if b.splitK = 1 ∨ s.array.reserved.contains tile then s.array.reserved else s.array.reserved ++ [tile]
  ({ s with array := { s.array with
    slots := tblSet slotDefault s.array.slots (slotKey e k) { task := t, expected := s.expectedOf b t }, reserved := res,
    splitWait := s.array.splitWait.filter (· != e) } } : State).showEngine (dieOf e)

/-- R106, R107: engine `e` takes the tail of queue `v`. -/
def State.stealFrom (s : State) (b : Barge) (e k v : Nat) : State :=
  match (s.queue v).getLast? with
  | none => s
  | some t =>
    let s := (s.setQueue v (s.queue v).dropLast).take b e k t
    if v / 20 = dieOf e then s.count (R.COMPUTE_STEALS_IN (dieOf e)) 1 else s.count (R.COMPUTE_STEALS_CROSS (dieOf e)) 1

/-- R96: the distance of two clusters of one die. -/
def clusterDist (a b : Nat) : Nat :=
  let x := a % 20
  let y := b % 20
  (max (x / 5) (y / 5) - min (x / 5) (y / 5)) + (max (x % 5) (y % 5) - min (x % 5) (y % 5))

/-- Whether the tail of queue `g` is a task that may be claimed. -/
def State.tailOk (s : State) (b : Barge) (g : Nat) : Bool :=
  match (s.queue g).getLast? with
  | some t => s.claimable b t
  | none => false

/-- R106 step 1: the victim in the engine's own die. -/
def State.victimNear (s : State) (b : Barge) (g : Nat) : Option Nat :=
  let near := (List.range (s.get F.COMPUTE_STEAL_RADIUS)).flatMap (fun d =>
    ((List.range 20).map (fun i => g / 20 * 20 + i)).filter (fun v => clusterDist g v == d + 1))
  near.find? (fun v => decide (2 ≤ (s.queue v).length) && s.tailOk b v)

/-- The cluster of a list whose queue is longest; the lowest of equals. -/
def State.longest (s : State) (gs : List Nat) : Option Nat :=
  gs.foldl (fun acc g => match acc with
    | none => some g
    | some a => if (s.queue a).length < (s.queue g).length then some g else some a) none

/-- R106 step 2: the victim on one neighbouring die. -/
def State.victimOn (s : State) (b : Barge) (d : Nat) : Option Nat :=
  let gs := (List.range 20).map (fun i => 20 * d + i)
  if ((gs.map (fun g => (s.queue g).length)).sum) < s.get F.COMPUTE_STEAL_CROSS_MIN then none
  else s.longest (gs.filter (s.tailOk b))

/-- R106: the victim of engine `e`. -/
def State.victim (s : State) (b : Barge) (e : Nat) : Option Nat :=
  match s.victimNear b (clusterOf e) with
  | some v => some v
  | none =>
    if s.flag F.COMPUTE_STEAL_CROSS_EN && !b.noCross then
      match s.victimOn b (dieOf e ^^^ 1) with
      | some v => some v
      | none => s.victimOn b (dieOf e ^^^ 2)
    else none

/-- R106: engine `e` with a free slot searches for a victim and steals; with none it stays idle. -/
def State.search (s : State) (b : Barge) (e k : Nat) : State :=
  match s.victim b e with
  | some v => s.stealFrom b e k v
  | none => s

/-- R109: engine `e` waits for split-K slots. -/
def State.waitSplit (s : State) (e : Nat) : State :=
  let s := s.count (R.COMPUTE_SPLITK_WAIT (dieOf e)) 1
  if s.array.splitWait.contains e then s
  else ({ s with array := { s.array with splitWait := s.array.splitWait ++ [e] } } : State).showEngine (dieOf e)

/-- R105, R109: engine `e` claims the head of its own queue; a head whose slots cannot be reserved sends it searching. -/
def State.claim (s : State) (e : Nat) : State :=
  match s.arrayBarge with
  | none => s
  | some b =>
    match s.mayClaim e, s.freeSlot b e, s.queue (clusterOf e) with
    | true, some k, t :: ts =>
      if s.claimable b t then (s.setQueue (clusterOf e) ts).take b e k t
      else
        match s.victim b e with
        | some v => s.stealFrom b e k v
        | none => s.waitSplit e
    | _, _, _ => s

/-- R106: engine `e`, whose own queue is empty, steals. -/
def State.steal (s : State) (e : Nat) : State :=
  match s.arrayBarge with
  | none => s
  | some b =>
    match s.mayClaim e, s.freeSlot b e, s.queue (clusterOf e) with
    | true, some k, [] => s.search b e k
    | _, _, _ => s

/-! ## The start of an array barge -/

/-- R104, R105: live tasks are dealt, and every available engine claims one. -/
def State.dealOut (s : State) (tasks : List Nat) : State :=
  let s := s.deal tasks
  (List.range 80).foldl (fun s g => (s.availableIn g).foldl (fun s e => s.claim e) s) s

/-- R104, R105: barge `i` takes the array with these live tasks, the first of `total`, and what it read at its start. With no
live task it completes at once. -/
def State.startArray (s : State) (i : Nat) (b : Barge) (tasks : List Nat) (total stage : Nat) (counts docs : List Nat) : State :=
  let s := ((s.on F.COMPUTE_ARRAY_BUSY).off F.COMPUTE_ARRAY_ABORTED).put F.COMPUTE_ARRAY_CONTEXT b.ctx
  let s := (s.put F.COMPUTE_ARRAY_BARGE_INDEX b.ownIndex).setReg R.COMPUTE_TASKS_TOTAL (BitVec.ofNat 32 total)
  let s := (List.range 4).foldl (fun s d => s.setReg (R.COMPUTE_TASKS_DONE d) 0) s
  let s := ({ s with array := { barge := some i, stage := stage, counts := counts, docs := docs } } : State).showEngines
  if tasks.isEmpty then s.tryFinish i else s.dealOut tasks

/-- A task of the array barge has finished in slot `k` of engine `e`. -/
def State.retire (s : State) (e k t : Nat) : State :=
  let s := s.count (R.COMPUTE_TASKS_DONE (dieOf e)) 1
  ({ s with array := { s.array with
    slots := tblSet slotDefault s.array.slots (slotKey e k) (slotDefault 0)
    finished := t :: s.array.finished
    retiredBy := tblUpd retiredDefault s.array.retiredBy e (· + 1) } } : State).showEngine (dieOf e)

/-! ## Kernels and written tensors -/

/-- Lines of dimension 0 to be written: first index, positions, and the other indices. -/
abbrev Lines := List (Nat × Nat × (Nat × Nat × Nat × Nat))

/-- R149 to R163: the positions `get` of some lines written to tensor `td`. -/
def State.writeTensor (s : State) (f : Frame) (td : Nat) (rot : Bool) (sluice : Nat) (stats : Option Nat) (ls : Lines)
    (get : Ix → OutPos) : State :=
  let t := s.target f td rot sluice stats
  let len := if isBlockFormat t.view.fmt then blockLen t.view.fmt else 16
  s.apply f td ((ls.map (fun (lo, n, rest) => writeLine t (fun i => get (i, rest)) lo rest ((n + len - 1) / len))).foldl
    OutResult.append {})

/-- The output-path fields of a barge applied: TD_C rotated, sluiced and fed, TD_AUX plain (R146). -/
def State.writeOutputs (s : State) (f : Frame) (b : BitVec 1024) (c : Nat) (rot : Bool) (ls : Lines) (get : Ix → OutPos) :
    State :=
  let s' := if opAuxEn b then s.writeTensor f (opTdAux b) false 0xFFFF none ls get else s
  s'.writeTensor f c rot (opSluiceOut b) (if opStatsEn b then some (opStatsBase b) else none) ls get

/-- R83, R163: the lines of the storage tiles that a rectangle of written positions touches, from `lo0` and `lo1`, `n0` by
`n1`: the padding in those tiles is written with it. -/
def coverLines (lo0 n0 lo1 n1 : Nat) (rest : Nat × Nat × Nat) : Lines :=
  let a0 := lo0 / 256 * 256
  let a1 := lo1 / 128 * 128
  if n0 = 0 ∨ n1 = 0 then []
  else (List.range (alignUp 128 (lo1 + n1) - a1)).map (fun i => (a0, alignUp 256 (lo0 + n0) - a0, (a1 + i, rest)))

/-- The lines of a whole tensor. -/
def allLines (v : View) : Lines :=
  (List.range (v.dim 2)).flatMap (fun i2 => coverLines 0 (v.dim 0) 0 (v.dim 1) (i2, 0, 0))

/-- R83, R163: elements written in a tensor's own format outside the output path, with the padding of the storage tiles they
touch: no block is counted, no amax and no statistics are fed. -/
def State.writePlain (s : State) (t : Target) (ls : Lines) (get : Ix → OutPos) : State :=
  s.write (ls.flatMap (fun (lo, n, rest) => (writeLine t (fun i => get (i, rest)) lo rest ((n + 15) / 16)).writes))

/-- A position that a barge does not produce. -/
def noPos : OutPos := ⟨false, false, .fin false 0 0⟩

end Sys2Proof.Machine
end

