-- ==== Sys2Proof/Machine/Matrix.lean ====
section
/-! DEFINITION. MATRIX barges (R100 to R118, R139 to R146): the epilogue of a tile, the drain of a task, and the commands
of the array. -/

namespace Sys2Proof.Machine

/-! ## The epilogue of a tile -/

/-- What R141 reads for element (m, n) of batch `b`, at indices (i0, i1) of C. -/
def State.epiArgs (s : State) (f : Frame) (d : BitVec 1024) (p : Product) (ix : Ix) (m n : Nat) : EpiArgs :=
  let bias := s.view f (opTdBias d)
  { scale := ((coarseOf p.a).mul (coarseOf p.b)).mul (fv32 (opAlpha d))
    bias := if opBiasEn d then some (readF32 s.byte bias (if opBiasAxis d = 0 then n else m, 0, 0, 0, 0)) else none
    clip := if opClipEn d then some (opClipLo d, opClipHi d) else none
    eltOp := opEltOp d
    elt := if opEltOp d = 0 then 0 else readF32 s.byte (s.view f (opTdElt d)) ix
    kernel := if opKernelEn d then imKernel f.im (opKernelId d) else none
    env := s.venv f.ctx }

/-- R140: the indices in C of element (m, n) of batch `b`, and back. -/
def cIndex (d : BitVec 1024) (m n b : Nat) : Ix := if opTranspose d then (m, n, b, 0, 0) else (n, m, b, 0, 0)
def mnOf (d : BitVec 1024) (ix : Ix) : Nat × Nat := if opTranspose d then (ix.1, ix.2.1) else (ix.2.1, ix.1)

/-- A tile ready for its output path: what every element delivers, by offsets in the tile. -/
structure Tile where
  batch : Nat
  tm : Nat
  tn : Nat
  totals : Totals
  deriving DecidableEq, Repr

/-- R141, R144: the element at index `ix` of C: its position for the quantiser, and whether it raises the flag. -/
def State.tileElement (s : State) (f : Frame) (d : BitVec 1024) (p : Product) (t : Tile) (ix : Ix) : OutPos × Bool :=
  let (m, n) := mnOf d ix
  let inTile := decide (128 * t.tm ≤ m) && decide (m < 128 * t.tm + 128) && decide (128 * t.tn ≤ n) && decide (n < 128 * t.tn + 128)
  if inTile && decide (m < p.m) && decide (n < p.n) then
    let tot := t.totals.getD (128 * (m - 128 * t.tm) + (n - 128 * t.tn)) {}
    let c := s.view f (mxC d)
    let (x, bad) := epilogue (s.epiArgs f d p ix m n) (deliver tot) ix.1 ix.2.1 ix.2.2.1 (linearOf c ix)
    let real := decide (m < p.rows t.batch)
    (⟨true, real, fv32 x⟩, real && bad)
  else (⟨false, false, .fin false 0 0⟩, false)

/-- The elements of a tile that lie at real positions of C. -/
def Product.realElems (p : Product) (t : Tile) : List (Nat × Nat) :=
  tileElems.filter (fun (r, c) => decide (128 * t.tm + r < p.rows t.batch) && decide (128 * t.tn + c < p.n))

/-- R139 to R163: a tile goes through the output path. -/
def State.drainTile (s : State) (f : Frame) (d : BitVec 1024) (p : Product) (t : Tile) : State :=
  let lo := cIndex d (128 * t.tm) (128 * t.tn) t.batch
  let ls := coverLines lo.1 128 lo.2.1 128 (t.batch, 0, 0)
  let real := p.realElems t
  let special := (real.filter (fun (r, c) => (t.totals.getD (128 * r + c) {}).st != .none)).length
  let bad := real.any (fun (r, c) => (s.tileElement f d p t (cIndex d (128 * t.tm + r) (128 * t.tn + c) t.batch)).2)
  let out := s.writeOutputs f d (mxC d) true ls (fun ix => (s.tileElement f d p t ix).1)
  let out := out.count R.FORMAT_NONFINITE_OUT special
  if bad then out.raiseNonfinite f else out

/-- The tasks of the output tile of task `t` other than `t` itself. -/
def Barge.siblings (b : Barge) (t : Nat) : List Nat :=
  ((List.range b.splitK).map (fun i => t / b.splitK * b.splitK + i)).filter (· != t)

/-- R109: whether task `t` finishes its tile: every other task of it has finished. -/
def State.closesTile (s : State) (b : Barge) (t : Nat) : Bool := (b.siblings t).all (fun i => s.array.finished.contains i)

/-- R109, R232: the split-K slots of the tile of task `t` are free again. -/
def State.freeTile (s : State) (b : Barge) (t : Nat) : State :=
  { s with array := { s.array with
    reserved := s.array.reserved.filter (· != t / b.splitK)
    segments := s.array.segments.filter (fun x => x.1 / b.splitK != t / b.splitK)
    partials := s.array.partials.filter (fun x => x.1 / b.splitK != t / b.splitK) } }

/-- R109, R128, R136: the slot of a MATRIX task, whose every group has retired, is read: into the tile's split-K slots, or, as
the last of its tile, joined and through the output path. -/
def State.drainProduct (s : State) (b : Barge) (key t : Nat) : State :=
  let s := s.promoteTo b key (s.expectedOf b t)
  let f := s.frame b
  let d := b.desc
  let p := s.bargeProduct b
  let mine := match s.array.slots.lookup key with | some x => x.totals | none => noTotals
  let (bt, tm, tn, j) := p.task t
  if p.split = 1 then s.drainTile f d p ⟨bt, tm, tn, mine⟩
  else if s.closesTile b t then
    let first := t / p.split * p.split
    let seg := fun i => if i = j then mine else (s.array.segments.lookup (first + i)).getD []
    let tot := (List.range 16384).map (fun q => joinTree p.comp 8 ((List.range p.split).map (fun i => (seg i).getD q {})))
    (s.freeTile b t).drainTile f d p ⟨bt, tm, tn, tot⟩
  else { s with array := { s.array with segments := (t, mine) :: s.array.segments } }

/-! ## The commands -/

/-- The memory that a MATRIX barge reads: its operands with the sluice lane of A, and what its epilogue reads. -/
def State.matrixReads (s : State) (f : Frame) (d : BitVec 1024) : List (Nat × Nat) :=
  let n := mxBatch d
  let p := s.productOf f d []
  let lanes := match p.sluice with
    | some t => (List.range n).flatMap (fun b => (List.range p.m).flatMap (fun m => (List.range ((p.k + 4095) / 4096)).map (fun w =>
        (t.laneBase + ((b * p.a.dim 1 + m) * t.windows + w) * 128, 2 * (t.window w).length))))
    | none => []
  regionsOf (s.view f (mxA d)) (mxK d) (mxM d) n 1 1 ++ regionsOf (s.view f (mxB d)) (mxK d) (mxN d) n 1 1 ++ lanes ++
    (if opBiasEn d then wholeRegions (s.view f (opTdBias d)) else []) ++
    (if opEltOp d = 0 then [] else wholeRegions (s.view f (opTdElt d))) ++
    (if bOp d = 2 then [(mxCountAddr d, 4 * n)] else [])

/-- R102, R104: a MATRIX barge starts: its operands are read, its live tasks dealt. -/
def State.startMatrix (s : State) (i : Nat) (b : Barge) : State :=
  let f := s.frame b
  let d := b.desc
  s.reading b (s.matrixReads f d) (fun s =>
    let counts := if bOp d = 2 then (List.range (mxBatch d)).map (fun q => s.num (mxCountAddr d + 4 * q) 4) else []
    let tasks := (s.productOf f d counts).live (mxBatch d)
    s.startArray i b tasks tasks.length 0 counts [])

/-- R117, OP 0x00. -/
def execProduct (i : Nat) (s : State) : Result := s.begin i 1 0 (fun b s => s.startMatrix i b)
/-- R117, OP 0x01. -/
def execBatched (i : Nat) (s : State) : Result := s.begin i 1 1 (fun b s => s.startMatrix i b)
/-- R102, OP 0x02. -/
def execCounted (i : Nat) (s : State) : Result := s.begin i 1 2 (fun b s => s.startMatrix i b)

/-- R105. -/
def execTaskClaim (e : EngineId) (s : State) : Result := .next (s.claim e.val)
/-- R106. -/
def execTaskSteal (e : EngineId) (s : State) : Result := .next (s.steal e.val)
/-- R106 step 3: the search of an idle engine again. -/
def execStealRetry (e : EngineId) (s : State) : Result := .next (s.steal e.val)
/-- R109: an engine that waited for split-K slots searches again, its own queue first. -/
def execSplitkSlotRetry (e : EngineId) (s : State) : Result :=
  .next (if (s.queue (clusterOf e.val)).isEmpty then s.steal e.val else s.claim e.val)

/-- R120: clocks in MHz. -/
def clockMhz : ClockStep → Nat
  | .full => 1100
  | .reduced => 825
  | .low => 550

/-- R120: ARRAY_SLOW from the lowest clock. -/
def State.showArraySlow (s : State) : State :=
  let lo := ((List.range 4).map (fun d => s.get (F.COMPUTE_CLK_FREQ_MHZ d))).foldl min 1100
  s.put F.LOCK_SLOW_ARRAY_SLOW (if 1100 ≤ lo then 0x40 else if 825 ≤ lo then 0x56 else 0x80)

/-- R120: die `d` runs at a clock. -/
def State.setClock (s : State) (d : Nat) (k : ClockStep) : State := (s.put (F.COMPUTE_CLK_FREQ_MHZ d) (clockMhz k)).showArraySlow

/-- R120. -/
def execComputeClockChange (d : DieId) (clock : ClockStep) (s : State) : Result := .next (s.setClock d.val clock)

end Sys2Proof.Machine
end

