-- ==== Sys2Proof/Machine/Vector.lean ====
section
/-! DEFINITION. VECTOR barges (R205 to R218): MAP, ROW, REDUCE, COMPRESS, EXPAND, ROTATE and UNROTATE. A task does its part
of the barge's work when it finishes (log 84). -/

namespace Sys2Proof.Machine

/-! ## What one task does -/

/-- R214: `empty` empty rows and `bad` flagged results of a reduction. -/
def State.noteReduction (s : State) (f : Frame) (empty bad : Nat) : State :=
  let s := (s.count R.VECTOR_EMPTY_ROWS empty).count R.VECTOR_NONFINITE_RES bad
  if 0 < bad then s.raiseNonfinite f else s

/-- The counts of R214 of some row results. -/
def State.noteRows (s : State) (f : Frame) (rs : List RedResult) : State :=
  s.noteReduction f (rs.filter (fun r => r.empty)).length (rs.filter (fun r => r.flagged)).length

/-- R213: an 8-byte record. -/
def redRecord (r : RedResult) : List Byte := leBytes 4 r.val.toNat ++ leBytes 4 r.aux.toNat

/-- R206: whether task `t` of a stage of `n` finishes its rows: the tasks of their other segments have finished. `base` is the
task index of the stage's first task. -/
def State.closesRows (s : State) (v : View) (base t : Nat) : Bool :=
  (List.range (vecSegs v)).all (fun k =>
    let u := t / vecSegs v * vecSegs v + k
    u == t || s.array.finished.contains (base + u))

/-- R210 to R214: REDUCE: the results of rows `rs`, written to RES_ADDR. -/
def State.reduceRows (s : State) (f : Frame) (d : BitVec 1024) (rs : List Nat) : State :=
  if vbRed1 d = 8 ∨ vbRed1 d = 9 then
    let elems := rs.map (fun r => s.rowElems f d (vbKernel d 0) [] r)
    let slots := elems.map (fun xs => topK (vbRed1 d == 8) (vbTopK d) xs)
    let s := s.noteReduction f (elems.filter (fun xs => xs.all (fun x => !x.incl))).length
      (slots.flatten.filter (fun p => isNan32 p.1)).length
    (rs.zip slots).foldl (fun s (r, ps) => s.writeAt (vbRes d + 8 * vbTopK d * r)
      (ps.flatMap (fun p => leBytes 4 p.1.toNat) ++ ps.flatMap (fun p => leBytes 4 p.2.toNat))) s
  else
    let xs := rs.map (fun r => reduceRow (vbRed1 d) (s.rowElems f d (vbKernel d 0) [] r))
    (rs.zip xs).foldl (fun s (r, x) => s.writeAt (vbRes d + 8 * r) (redRecord x)) (s.noteRows f xs)

/-- R213: the records of row `r` of a ROW barge. -/
def rowRecords (rs : List RedResult) : List Byte :=
  match rs with
  | [a] => redRecord a ++ List.replicate 8 0
  | a :: b :: _ => redRecord a ++ redRecord b
  | [] => List.replicate 16 0

/-- R205, R213: stage 1 or 2 of a ROW barge: the results of rows `rs`; those of the last reduction are final, and the rows'
records are written. -/
def State.rowStage (s : State) (f : Frame) (d : BitVec 1024) (kid code : Nat) (final : Bool) (rs : List Nat) : State :=
  let xs := rs.map (fun r => reduceRow code (s.rowElems f d kid (s.rowResults r) r))
  let s := (rs.zip xs).foldl (fun s (r, x) =>
    { s with array := { s.array with rows := tblUpd rowsDefault s.array.rows r (· ++ [x]) } }) (s.noteRows f xs)
  if final ∧ vbRes d ≠ 0 then
    rs.foldl (fun s r => s.writeAt (vbRes d + 16 * r) (rowRecords (s.rowResults r))) s
  else s

/-- R208: the output path from the clip onward, for one element that the barge has computed. -/
def vecEpilogue (d : BitVec 1024) (env : VEnv) (x : BitVec 32) : BitVec 32 × Bool :=
  epilogueFrom ⟨.fin false 1 0, none, if opClipEn d then some (opClipLo d, opClipHi d) else none, 0, 0, none, env⟩ x 0 0 0 0

/-- The lines that the rows and positions of task `t` touch in an output of the barge's dimensions. -/
def taskLines (v : View) (t : Nat) : Lines :=
  let (p, n) := taskSpan v t
  ((taskRowsOf v t).flatMap (fun r => coverLines p n (r % v.dim 1) 1 (r / v.dim 1, 0, 0))).eraseDups

/-- Whether an index lies in the rows and positions of task `t`. -/
def inTask (v : View) (t : Nat) (ix : Ix) : Bool :=
  let (p, n) := taskSpan v t
  !isPadding v ix && decide (p ≤ ix.1) && decide (ix.1 < p + n) && (taskRowsOf v t).contains (ix.2.1 + v.dim 1 * ix.2.2.1)

/-- R205, R208: task `t` of a last stage: kernel `kid` over each of its elements, the result through the output path to
TD_C. -/
def State.mapTask (s : State) (f : Frame) (d : BitVec 1024) (kid t : Nat) : State :=
  let v := s.view f (vbIn d 0)
  let at_ := fun (ix : Ix) =>
    vecEpilogue d (s.venv f.ctx) ((s.vecLane f d kid (s.rowResults (ix.2.1 + v.dim 1 * ix.2.2.1)) ix).get 0)
  let (p, n) := taskSpan v t
  let bad := (taskRowsOf v t).any (fun r => (List.range n).any (fun i => (at_ (rowIx v r (p + i))).2))
  let out := s.writeOutputs f d (vbOut d) true (taskLines v t) (fun ix =>
    if inTask v t ix then ⟨true, true, fv32 (at_ ix).1⟩ else noPos)
  if bad then out.raiseNonfinite f else out

/-- R209: task `t` of ROTATE (forward, by TD_C's key) or UNROTATE (by TD_IN0's size and key), exact to the quantiser. -/
def State.rotateTask (s : State) (f : Frame) (d : BitVec 1024) (inverse : Bool) (t : Nat) : State :=
  let v := s.view f (vbIn d 0)
  let td := imTd f.im (if inverse then vbIn d 0 else vbOut d)
  let n := rotLen (tdRotSize td)
  let signs := signBits (s.ctx f.ctx).seed.toNat (tdRotKey td) n
  let clip := if opClipEn d then some (opClipLo d, opClipHi d) else none
  s.writeOutputs f d (vbOut d) false (taskLines v t) (fun ix =>
    if inTask v t ix then
      let lo := ix.1 / n * n
      let xs := (List.range n).map (fun j => valueAt s.byte v (lo + j, ix.2))
      let y := if inverse then unrotateAt (rotP (tdRotSize td)) signs xs (ix.1 - lo)
        else rotateAt (rotP (tdRotSize td)) signs xs (ix.1 - lo)
      ⟨true, true, clipExact clip y⟩
    else noPos)

/-- R215: the bucket ids of the elements of task `t`, in order. -/
def State.taskIds (s : State) (d : BitVec 1024) (t : Nat) : List Nat :=
  (List.range (min 4096 (cxL d - 4096 * t))).map (fun i => s.num (cxIdx d + 4 * (4096 * t + i)) 4)

def passDefault (_ : Nat) : List Nat := []
/-- R216: the bucket counts that first-pass task `t` has left. -/
def State.passCount (s : State) (t : Nat) : List Nat := tblGet passDefault s.array.passCounts t

/-- R216: first-pass task `t` counts its elements per bucket. -/
def State.countPass (s : State) (d : BitVec 1024) (t : Nat) : State :=
  { s with array := { s.array with passCounts := tblSet passDefault s.array.passCounts t (bucketCounts d (s.taskIds d t)) } }

/-- R215, R216: second-pass task `t` writes its entries, from the exclusive prefix sum of the counts of the tasks before it. -/
def State.listPass (s : State) (d : BitVec 1024) (t : Nat) : State :=
  let ids := s.taskIds d t
  let before := fun j => ((List.range t).map (fun u => (s.passCount u).getD j 0)).sum
  let place := fun i => before (ids.getD i 0) + (ids.take i).count (ids.getD i 0)
  (List.range ids.length).foldl (fun s i =>
    let e := 4096 * t + i
    let j := ids.getD i 0
    let listed := decide (j < cxBuckets d) && decide (place i < cxCap d)
    let s := if listed then s.writeAt (cxList d + 4 * (j * cxCap d + place i)) (leBytes 4 e) else s
    if cxPos d = 0 then s else s.writeAt (cxPos d + 4 * e) (leBytes 4 (if listed then place i else 2 ^ 32 - 1))) s

/-- R215, R216: the counts of every bucket are known: they are written, with the unused entries of the lists, and what is
dropped is counted. -/
def State.closePass (s : State) (b : Barge) (n : Nat) : State :=
  let d := b.desc
  let totals := (List.range (cxBuckets d)).map (fun j => ((List.range n).map (fun t => (s.passCount t).getD j 0)).sum)
  let counts := compressCounts d totals
  let dropped := counts.getD (cxBuckets d) 0
  let s := (List.range (cxBuckets d)).foldl (fun s j =>
    let k := counts.getD j 0
    s.writeAt (cxList d + 4 * (j * cxCap d + k)) (List.replicate (4 * (cxCap d - k)) 0xFF)) s
  let s := s.writeAt (cxCount d) ((counts.take (cxBuckets d)).flatMap (leBytes 4))
  let s := { s.count R.VECTOR_CMP_DROP dropped with array := { s.array with counts := counts } }
  if 0 < dropped then s.event 0x0270#16 (srcCtx b.ctx) [(8, b.ctx), (16, b.ownIndex), (32, dropped)] else s

/-- R217: what an EXPAND barge lists: destination and value, in bucket order and then position order. -/
def State.expandEntries (s : State) (d : BitVec 1024) : List (Nat × BitVec 32) :=
  (List.range (cxBuckets d)).flatMap (fun j =>
    (List.range (s.num (cxCount d + 4 * j) 4)).map (fun p =>
      let o := 4 * (j * cxCap d + p)
      (s.num (cxIdx d + o) 4, BitVec.ofNat 32 (s.num (cxList d + o) 4))))

/-- R217: task `t` of an EXPAND barge: its 4,096 destinations; the first task counts the indices out of range (log 84). -/
def State.expandTask (s : State) (b : Barge) (t : Nat) : State :=
  let d := b.desc
  let es := s.expandEntries d
  let s := s.writeAt (cxPos d + 4 * (4096 * t)) ((List.range (min 4096 (cxL d - 4096 * t))).flatMap (fun i =>
    leBytes 4 (es.foldl (fun acc x => if x.1 = 4096 * t + i then x.2 else acc) (cxFill d)).toNat))
  let bad := (es.filter (fun e => decide (cxL d ≤ e.1))).length
  if t = 0 ∧ 0 < bad then
    (s.count R.VECTOR_EXPAND_OOR bad).event 0x0271#16 (srcCtx b.ctx) [(8, b.ctx), (16, b.ownIndex), (32, bad)]
  else s

/-- Tasks of a stage of a VECTOR barge (R206, R216). -/
def State.stageTasks (s : State) (b : Barge) : Nat :=
  if b.op = 3 ∨ b.op = 4 then (cxL b.desc + 4095) / 4096 else vecTasks (s.view (s.frame b) (vbIn b.desc 0))

/-- R205 to R217: task `t` of the VECTOR barge in flight finishes its work. -/
def State.drainVector (s : State) (b : Barge) (t : Nat) : State :=
  let f := s.frame b
  let d := b.desc
  let v := s.view f (vbIn d 0)
  let n := s.stageTasks b
  let base := t / max 1 n * n
  let u := t - base
  if b.op = 0 then s.mapTask f d (vbKernel d 0) u
  else if b.op = 1 then
    if s.array.stage = 3 then s.mapTask f d (vbKernel d 2) u
    else if s.closesRows v base u then
      if s.array.stage = 1 then s.rowStage f d (vbKernel d 0) (vbRed1 d) (vbRed2 d == 0xF) (taskRowsOf v u)
      else s.rowStage f d (vbKernel d 1) (vbRed2 d) true (taskRowsOf v u)
    else s
  else if b.op = 2 then (if s.closesRows v base u then s.reduceRows f d (taskRowsOf v u) else s)
  else if b.op = 3 then (if s.array.stage = 4 then s.countPass d u else s.listPass d u)
  else if b.op = 4 then s.expandTask b u
  else s.rotateTask f d (b.op == 6) u

/-- R216: the second pass of a COMPRESS barge starts when every task of the first has finished. -/
def State.secondPass (s : State) (b : Barge) : State :=
  let n := s.stageTasks b
  if b.cls = 3 ∧ b.op = 3 ∧ s.array.stage = 4 ∧ s.array.finished.length = n then
    let s := s.closePass b n
    let s := { s.put F.VECTOR_STATUS_STAGE 5 with array := { s.array with stage := 5 } }
    s.dealOut ((List.range n).map (· + n))
  else s

/-! ## The start of a barge -/

/-- The inputs of a VECTOR barge in memory. -/
def State.vecReads (s : State) (f : Frame) (d : BitVec 1024) : List (Nat × Nat) :=
  (List.range (vbInCount d)).flatMap (fun k => wholeRegions (s.view f (vbIn d k)))

/-- VECTOR_STATUS of a barge that takes the array. -/
def State.showVector (s : State) (b : Barge) (stage : Nat) : State :=
  let s := (s.on F.VECTOR_STATUS_BUSY).put F.VECTOR_STATUS_STAGE stage
  (s.put F.VECTOR_STATUS_CONTEXT b.ctx).put F.VECTOR_STATUS_BARGE_INDEX b.ownIndex

/-- Stages of a VECTOR barge: a ROW barge has two, with RED_2 three; COMPRESS has two passes. -/
def vecStages (d : BitVec 1024) : Nat := if bOp d = 1 then (if vbRed2 d = 0xF then 2 else 3) else if bOp d = 3 then 2 else 1

/-- R205, R206: a VECTOR barge reads its inputs, and its first stage takes the array. -/
def State.startVector (s : State) (i : Nat) (b : Barge) (regions : List (Nat × Nat)) (stage : Nat) : State :=
  let n := s.stageTasks b
  s.reading b regions (fun s => (s.showVector b stage).startArray i b (List.range n) (n * vecStages b.desc) stage [] [])

/-- R207: the next stage of a ROW barge reads its inputs again; its tasks are numbered on from those of the stages before. -/
def State.nextStage (s : State) (b : Barge) : State :=
  let n := s.stageTasks b
  let next := if s.array.stage = 1 ∧ vbRed2 b.desc ≠ 0xF then 2 else 3
  let done := s.array.finished.length
  s.reading b (s.vecReads (s.frame b) b.desc) (fun s =>
    let s := { s with array := { s.array with stage := next } }
    (s.showVector b next).dealOut ((List.range n).map (· + done)))

/-- R207: a stage of the ROW barge in flight starts once every task of the stage before it has completed. -/
def execRowStageStart (i : Nat) (s : State) : Result :=
  .next (match s.barge i with
  | some b =>
    if s.array.barge = some i ∧ b.cls = 3 ∧ b.op = 1 ∧ s.array.stage < 3 ∧
        s.array.finished.length = s.stageTasks b * s.array.stage then s.nextStage b
    else s
  | none => s)

/-- The memory that an EXPAND barge reads. -/
def State.expandReads (s : State) (d : BitVec 1024) : List (Nat × Nat) :=
  (cxCount d, 4 * cxBuckets d) :: (List.range (cxBuckets d)).flatMap (fun j =>
    let n := 4 * s.num (cxCount d + 4 * j) 4
    [(cxIdx d + 4 * j * cxCap d, n), (cxList d + 4 * j * cxCap d, n)])

/-- A VECTOR barge of inputs TD_IN0 to TD_IN2 starts. -/
def State.beginVector (s : State) (i op : Nat) : Result :=
  s.begin i 3 op (fun b s => s.startVector i b (s.vecReads (s.frame b) b.desc) 1)

/-- R208. -/
def execMap (i : Nat) (s : State) : Result := s.beginVector i 0
/-- R205: stage 1 of a ROW barge. -/
def execRow (i : Nat) (s : State) : Result := s.beginVector i 1
/-- R210 to R213. -/
def execReduce (i : Nat) (s : State) : Result := s.beginVector i 2
/-- R215, R216. -/
def execCompress (i : Nat) (s : State) : Result :=
  s.begin i 3 3 (fun b s => s.startVector i b [(cxIdx b.desc, 4 * cxL b.desc)] 4)
/-- R217. -/
def execExpand (i : Nat) (s : State) : Result := s.begin i 3 4 (fun b s => s.startVector i b (s.expandReads b.desc) 1)
/-- R209. -/
def execRotate (i : Nat) (s : State) : Result := s.beginVector i 5
/-- R209. -/
def execUnrotate (i : Nat) (s : State) : Result := s.beginVector i 6

end Sys2Proof.Machine
end

