-- ==== Sys2Proof/Machine/Attention.lean ====
section
/-! DEFINITION. ATTENTION barges (spec/09 R222 to R241): what a task writes, and the angle unit. A task does its part of the
barge's work when it finishes (log 84). -/

namespace Sys2Proof.Machine

/-! ## Row results -/

/-- R141 from the bias step onward, for x at an index of TD_O. -/
def State.attEpilogue (s : State) (f : Frame) (d : BitVec 1024) (x : BitVec 32) (ix : Ix) : BitVec 32 × Bool :=
  let bias := s.view f (opTdBias d)
  let a : EpiArgs := ⟨.fin false 1 0,
    if opBiasEn d then some (readF32 s.byte bias (if opBiasAxis d = 0 then ix.1 else ix.2.1, 0, 0, 0, 0)) else none,
    if opClipEn d then some (opClipLo d, opClipHi d) else none, opEltOp d,
    if opEltOp d = 0 then 0 else readF32 s.byte (s.view f (opTdElt d)) ix,
    if opKernelEn d then imKernel f.im (opKernelId d) else none, s.venv f.ctx⟩
  let (y, bad) := epilogueFrom a x ix.1 ix.2.1 ix.2.2.1 (linearOf (s.view f (atO d)) ix)
  (y, bad || isNonfinite32 x)

/-- R236, R241: values of TD_O's real rows in query tile `tq` of head `h` through the output path. -/
def State.writeRows (s : State) (f : Frame) (j : AttJob) (h tq : Nat) (get : Ix → BitVec 32) : State :=
  let v := s.view f (atO j.d)
  let at_ := fun (ix : Ix) => s.attEpilogue f j.d (get ix) ix
  let rows := j.tileRows tq
  let bad := rows.any (fun r => (List.range (v.dim 0)).any (fun x => (at_ (x, r, h, 0, 0)).2))
  let out := s.writeOutputs f j.d (atO j.d) true (coverLines 0 (v.dim 0) (128 * tq) 128 (h, 0, 0)) (fun ix =>
    if !isPadding v ix && rows.contains ix.2.1 then ⟨true, true, fv32 (at_ ix).1⟩ else noPos)
  if bad then out.raiseNonfinite f else out

/-- R236: TD_LSE of the real rows in query tile `tq` of head `h`. -/
def State.writeLse (s : State) (f : Frame) (j : AttJob) (h tq : Nat) (lse : Nat → BitVec 32) : State :=
  let rows := j.tileRows tq
  s.writePlain (s.target f (atLse j.d) false 0xFFFF none) (coverLines (128 * tq) 128 h 1 (0, 0, 0)) (fun ix =>
    if ix.2.1 = h ∧ rows.contains ix.1 then ⟨true, true, fv32 (lse ix.1)⟩ else noPos)

def RowState.isInf : RowState → Bool
  | .inf _ _ => true
  | _ => false

/-- R236: the final states of the real rows of a query tile written: TD_O, TD_LSE and counters. -/
def State.writeStates (s : State) (f : Frame) (j : AttJob) (h tq : Nat) (sts : List RowState) : State :=
  let st := fun r => (((j.tileRows tq).zip sts).lookup r).getD .empty
  let infs := sts.countP RowState.isInf
  let nans := sts.countP (· == .nan)
  let s := s.writeRows f j h tq (fun ix => j.rowValue (st ix.2.1) ix.1)
  let s := s.writeLse f j h tq (fun r => rowLse (st r))
  let s := ((s.count R.ATTN_INF_ROWS infs).count R.ATTN_NAN_ROWS nans).count R.ATTN_MASKED_ROWS (sts.countP (· == .empty))
  { s with array := { s.array with badRows := s.array.badRows + infs + nans } }

/-! ## The start of a barge -/

/-- R224: the boundary table of the barge's slot, read once. -/
def State.readDocs (s : State) (f : Frame) (d : BitVec 1024) : State × List Nat :=
  let q := atSlot d
  let base := (s.reg64 R.ATTN_BOUNDARY_BASE).toNat + q * 0x40000
  let (docs, bad) := scanDocs (fun i => s.num (base + 4 * i) 4) (256 * s.get (F.ATTN_SLOT_CFG_LENGTH_T q)) 65536 0 []
  let s := (s.put (F.ATTN_SLOT_DOCS_DOCS q) docs.length).put (F.ATTN_SLOT_DOCS_BAD q) bad.isSome.toNat
  match bad with
  | none => (s, docs)
  | some i =>
    let s := (s.count R.ATTN_TABLE_BAD 1).event 0x0280#16 (srcCtx f.ctx) [(8, q), (8, f.ctx), (32, i)]
    (s.raiseNonfinite f, docs)

/-- ATTN_STATUS of a barge that takes the array. -/
def State.showAttention (s : State) (b : Barge) : State :=
  let s := (s.on F.ATTN_STATUS_BUSY).put F.ATTN_STATUS_OP b.op
  (s.put F.ATTN_STATUS_CONTEXT b.ctx).put F.ATTN_STATUS_BARGE_INDEX b.ownIndex

/-- The memory that the epilogue of an ATTENTION barge reads. -/
def State.epiReads (s : State) (f : Frame) (d : BitVec 1024) : List (Nat × Nat) :=
  (if opBiasEn d then wholeRegions (s.view f (opTdBias d)) else []) ++
    (if opEltOp d = 0 then [] else wholeRegions (s.view f (opTdElt d)))

/-- An ATTENTION barge reads its boundary table and its operands, and its tasks take the array. -/
def State.startAttention (s : State) (i : Nat) (b : Barge) (regions : List (Nat × Nat)) : State :=
  s.reading b regions (fun s =>
    let (s, docs) := s.readDocs (s.frame b) b.desc
    let j := s.attJob (s.frame b) b.desc docs
    let n := attTasks j.q j.split
    (s.showAttention b).startArray i b (List.range n) n 0 [] docs)

/-- The operands of the score and value products. -/
def State.qkvReads (s : State) (f : Frame) (d : BitVec 1024) : List (Nat × Nat) :=
  wholeRegions (s.view f (atQ d)) ++ wholeRegions (s.view f (atK d)) ++ wholeRegions (s.view f (atV d))

/-! ## FORWARD, PARTIAL and JOIN -/

/-- Table 09-4: a row state record. -/
def stateRecord (dd : Nat) : RowState → List Byte
  | .empty => List.replicate (16 + 4 * dd) 0
  | .finite m l o => leBytes 4 1 ++ leBytes 4 (to32 (intFv m)).toNat ++ leBytes 4 l.toNat ++ leBytes 4 0 ++
      (List.range dd).flatMap (fun x => leBytes 4 (o.getD x 0).toNat)
  | .inf n o => leBytes 4 2 ++ leBytes 4 0 ++ leBytes 4 n ++ leBytes 4 0 ++
      (List.range dd).flatMap (fun x => leBytes 4 (o.getD x 0).toNat)
  | .nan => leBytes 4 3 ++ List.replicate (12 + 4 * dd) 0

/-- The integer that an FP32 value holds. -/
def intOf32 (w : BitVec 32) : Int := ceilFv (fv32 w)

/-- A row state read back from its record at `a`. -/
def State.readState (s : State) (dd a : Nat) : RowState :=
  let w := fun (k : Nat) => BitVec.ofNat 32 (s.num (a + 4 * k) 4)
  let o := (List.range dd).map (fun x => w (4 + x))
  match (w 0).toNat with
  | 0 => .empty
  | 1 => .finite (intOf32 (w 1)) (w 2) o
  | 2 => .inf (w 2).toNat o
  | _ => .nan

/-- R237: the address of the record of a segment, head and row. -/
def AttJob.stateAddr (j : AttJob) (seg h r : Nat) : Nat :=
  atState j.d + ((seg * j.q.dim 2 + h) * 128 * j.tq + r) * (16 + 4 * j.q.dim 0)

/-- R126, R230, R233: what the tiles of a FORWARD or PARTIAL task count and raise. -/
def State.noteTask (s : State) (f : Frame) (j : AttJob) (e t : Nat) (work : List (List TileResult)) : State :=
  let (_, tq, seg) := j.task t
  let done := (j.keyTiles tq seg).length
  let s := (s.count R.ATTN_TILES_DONE done).count R.ATTN_TILES_SKIPPED ((j.segment seg).length - done)
  let s := s.count R.ATTN_P_ZERO ((work.flatten.map (·.zeros)).sum)
  let s := s.count (R.COMPUTE_STICKY_GROUPS (dieOf e)) (stickyTiles done work)
  if work.flatten.any (·.flag) then s.raiseNonfinite f else s

/-- R232, R236: a FORWARD task finishes: its segment's states are kept, or, as the last of its query tile, joined and
written. -/
def State.drainForward (s : State) (b : Barge) (e t : Nat) : State :=
  let f := s.frame b
  let j := s.bargeJob b
  let work := j.taskRows (s.fetchByte (clusterOf e)) t
  let mine := work.map segState
  let (h, tq, seg) := j.task t
  let s := s.noteTask f j e t work
  if s.closesTile b t then
    let first := t / b.splitK * b.splitK
    let of_ := fun i => if i = seg then mine else (s.array.partials.lookup (first + i)).getD []
    let sts := (List.range (j.tileRows tq).length).map (fun k =>
      joinStates ((List.range b.splitK).map (fun i => (of_ i).getD k .empty)))
    (s.freeTile b t).writeStates f j h tq sts
  else { s with array := { s.array with partials := (t, mine) :: s.array.partials } }

/-- R237: a PARTIAL task finishes: the records of its rows. -/
def State.drainPartial (s : State) (b : Barge) (e t : Nat) : State :=
  let j := s.bargeJob b
  let work := j.taskRows (s.fetchByte (clusterOf e)) t
  let (h, tq, seg) := j.task t
  ((j.tileRows tq).zip work).foldl (fun s (r, ts) =>
    s.writeAt (j.stateAddr (atSegBase b.desc + seg) h r) (stateRecord (j.q.dim 0) (segState ts)))
    (s.noteTask (s.frame b) j e t work)

/-- R236: a JOIN task finishes: the records of its rows joined and written. -/
def State.drainJoin (s : State) (b : Barge) (t : Nat) : State :=
  let j := s.bargeJob b
  let (h, tq, _) := j.task t
  s.writeStates (s.frame b) j h tq ((j.tileRows tq).map (fun r =>
    joinStates ((List.range (atNseg b.desc)).map (fun k => s.readState (j.q.dim 0) (j.stateAddr k h r)))))

/-- The state area that a JOIN reads. -/
def State.stateReads (s : State) (f : Frame) (d : BitVec 1024) : List (Nat × Nat) :=
  let q := s.view f (atQ d)
  [(atState d, atNseg d * q.dim 2 * 128 * ((q.dim 1 + 127) / 128) * (16 + 4 * q.dim 0))]

/-! ## BACKWARD -/

/-- R239: a gradient written through the quantiser, where `ok` holds; elements delivered non-finite are counted (R56). -/
def State.writeGrad (s : State) (f : Frame) (td : Nat) (factor : Fv) (ok : Ix → Bool) (total : Ix → Total) : State :=
  let v := s.view f td
  let ls := allLines v
  let elems := (List.range (v.dim 2)).flatMap (fun i2 => (List.range (v.dim 1)).flatMap (fun i1 =>
    (List.range (v.dim 0)).map (fun i0 => ((i0, i1, i2, 0, 0) : Ix))))
  let special := (elems.filter (fun ix => ok ix && (total ix).st != .none)).length
  let x := fun ix => roundPlus ((fv32 (deliver (total ix))).mul factor)
  let bad := elems.any (fun ix => ok ix && isNonfinite32 (x ix))
  let out := s.writeTensor f td true 0xFFFF none ls (fun ix =>
    if isPadding v ix || !ok ix then noPos else ⟨true, true, fv32 (x ix)⟩)
  let out := out.count R.FORMAT_NONFINITE_OUT special
  if bad then out.raiseNonfinite f else out

/-- R239: BACKWARD: the gradients, and what its rows count and raise. -/
def State.backward (s : State) (f : Frame) (g : Grad) (e : Nat) : State :=
  let j := g.j
  let d := j.d
  let rd := s.byte
  let lses := j.rows.map (fun (h, r) => g.lseOf rd h r)
  let c := ((coarseOf g.dO).mul (coarseOf j.v)).mul (fv32 (atGradScale d))
  let s := s.count R.ATTN_ZERO_GRAD_ROWS (lses.countP (· == negInf32))
  let s := s.count (R.COMPUTE_STICKY_GROUPS (dieOf e)) (g.sticky rd)
  let s := if lses.any (fun l => isNonfinite32 l && l != negInf32) then s.raiseNonfinite f else s
  let s := s.writeGrad f (atDV d) (coarseOf g.dO) (fun ix => j.covers ix.1) (fun ix => g.dvTotal rd ix.2.2.1 ix.1 ix.2.1)
  let s := s.writeGrad f (atDK d) (c.mul (coarseOf j.q)) (fun ix => j.covers ix.2.1) (fun ix => g.dkTotal rd ix.2.2.1 ix.2.1 ix.1)
  s.writeGrad f (atDQ d) (c.mul (coarseOf j.k)) (fun ix => j.real ix.2.1) (fun ix => g.dqTotal rd ix.2.2.1 ix.2.1 ix.1)

/-- R230, R239: a BACKWARD task finishes: its pairs are counted; the gradients, whose sums go across the tasks, are written
with the last of them (log 84). -/
def State.drainBackward (s : State) (b : Barge) (e t : Nat) : State :=
  let g := s.bargeGrad b
  let (_, tq, seg) := g.j.task t
  let done := (g.j.keyTiles tq seg).length
  let s := (s.count R.ATTN_TILES_DONE done).count R.ATTN_TILES_SKIPPED ((g.j.segment seg).length - done)
  if s.array.finished.length + 1 = s.get F.COMPUTE_TASKS_TOTAL_COUNT then s.backward (s.frame b) g e else s

/-! ## The angle unit -/

/-- R241: a phase as a fixed-point multiple of π. -/
def turnFx (phi : Nat) : Int := fxOne * phi / 2 ^ 63

/-- R241: sin(2π φ / 2⁶⁴), correctly rounded; `key` names the free value where the model's evaluation cannot decide. -/
def turnSin (key phi : Nat) : BitVec 32 :=
  let t := turnFx phi
  if t % fxOne = 0 then 0 else decided key (BitVec.ofNat 32 phi) (fxRound (fxSinPi t) 0)

/-- R241: cos(2π φ / 2⁶⁴). -/
def turnCos (phi : Nat) : BitVec 32 := turnSin (0x10000 + phi / 2 ^ 32) ((phi + 2 ^ 62) % 2 ^ 64)

/-- R241: the two elements of a pair after the turn. -/
def ropePair (xa xb c sn : BitVec 32) : BitVec 32 × BitVec 32 :=
  (roundPlus (((fv32 xa).mul (fv32 c)).add ((fv32 xb).mul (fv32 sn)).neg),
    roundPlus (((fv32 xa).mul (fv32 sn)).add ((fv32 xb).mul (fv32 c))))

/-- R241: element `x` of a row of ROPE at position `p`. -/
def State.ropeAt (s : State) (j : AttJob) (h r x : Nat) : BitVec 32 :=
  let dd := j.q.dim 0
  let halves := atRopeHalves j.d
  let pair := if halves then x % (dd / 2) else x / 2
  let first := if halves then decide (x < dd / 2) else x % 2 == 0
  let q := j.qPos r
  let p := if atRopeDoc j.d then q - j.docStart q else q
  let freq := s.num ((s.reg64 R.ATTN_ROPE_BASE).toNat + atRopeTable j.d * 0x400 + 8 * pair) 8
  let phi := p * freq % 2 ^ 64
  let rd := fun e => readF32 s.byte j.q (e, r, h, 0, 0)
  let y := ropePair (rd (if halves then pair else 2 * pair)) (rd (if halves then pair + dd / 2 else 2 * pair + 1))
    (turnCos phi) (turnSin (0x20000 + phi / 2 ^ 32) phi)
  if first then y.1 else y.2

/-- R241: a ROPE task finishes. -/
def State.drainRope (s : State) (b : Barge) (t : Nat) : State :=
  let j := s.bargeJob b
  let (h, tq, _) := j.task t
  s.writeRows (s.frame b) j h tq (fun ix => s.ropeAt j h ix.2.1 ix.1)

/-! ## The commands -/

/-- R230 to R241: task `t` of the ATTENTION barge in flight finishes its work on engine `e`. -/
def State.drainAttention (s : State) (b : Barge) (e t : Nat) : State :=
  if b.op = 0 then s.drainForward b e t
  else if b.op = 1 then s.drainPartial b e t
  else if b.op = 2 then s.drainJoin b t
  else if b.op = 3 then s.drainBackward b e t
  else s.drainRope b t

/-- R236, FORWARD. -/
def execForward (i : Nat) (s : State) : Result := s.begin i 2 0 (fun b s =>
  s.startAttention i b (s.qkvReads (s.frame b) b.desc ++ s.epiReads (s.frame b) b.desc))
/-- R237. -/
def execPartialSegments (i : Nat) (s : State) : Result := s.begin i 2 1 (fun b s =>
  s.startAttention i b (s.qkvReads (s.frame b) b.desc))
/-- R236, JOIN. -/
def execJoin (i : Nat) (s : State) : Result := s.begin i 2 2 (fun b s =>
  s.startAttention i b (s.stateReads (s.frame b) b.desc ++ s.epiReads (s.frame b) b.desc))
/-- R239. -/
def execBackward (i : Nat) (s : State) : Result := s.begin i 2 3 (fun b s =>
  let f := s.frame b
  s.startAttention i b (s.qkvReads f b.desc ++
    [atO b.desc, atLse b.desc, atDO b.desc].flatMap (fun t => wholeRegions (s.view f t))))
/-- R241. -/
def execRope (i : Nat) (s : State) : Result := s.begin i 2 4 (fun b s =>
  let f := s.frame b
  s.startAttention i b (wholeRegions (s.view f (atQ b.desc)) ++ s.epiReads f b.desc))

end Sys2Proof.Machine
end

