-- ==== Sys2Proof/Machine/Transfer.lean ====
section
/-! DEFINITION. TRANSFER barges (R306, R307) and STASH barges (R251 to R255). What such a barge writes is written at its
start (log 28). -/

namespace Sys2Proof.Machine

/-! ## Transfer -/

/-- R307: rows copied one after another. -/
def State.copyRows (s : State) (d : BitVec 1024) (rows : Nat) : State :=
  let data := (List.range rows).map (fun r => s.bytes (trSrc d + r * trSrcPitch d) (trBytes d))
  ((List.range rows).zip data).foldl (fun s (r, bs) => s.writeAt (trDst d + r * trDstPitch d) bs) s

/-- The source regions of a COPY or COPY2D. -/
def copyReads (d : BitVec 1024) (rows : Nat) : List (Nat × Nat) :=
  (List.range rows).map (fun r => (trSrc d + r * trSrcPitch d, trBytes d))

/-- R307, COPY. -/
def execCopy (i : Nat) (s : State) : Result := s.begin i 4 0 (fun b s =>
  s.reading b (copyReads b.desc 1) (fun s => s.copyRows b.desc 1))

/-- R307, COPY2D. -/
def execCopy2d (i : Nat) (s : State) : Result := s.begin i 4 1 (fun b s =>
  s.reading b (copyReads b.desc (trRows b.desc)) (fun s => s.copyRows b.desc (trRows b.desc)))

/-- R307, FILL: the pattern, little-endian, repeated. -/
def execFill (i : Nat) (s : State) : Result := s.begin i 4 2 (fun b s =>
  let d := b.desc
  s.writeAt (trDst d) ((List.range (trBytes d)).map (fun k => BitVec.ofNat 8 (trPattern d / 2 ^ (8 * (k % 4))))))

/-! ## Stash -/

/-- R253: the payload of a PACKED record, where the device chooses one: shorter than the unit, and lossless. -/
def packedOf (fw step : Nat) (u : List Byte) : Option (List Byte) :=
  match Config.packedCode fw step u with
  | some p => if alignUp 16 p.length < 4096 ∧ Config.packedData fw p = u then some p else none
  | none => none

/-- R253: METHOD and payload of a unit. -/
def stashMethod (fw step : Nat) (u : List Byte) : Nat × List Byte :=
  if u.all (· == 0) then (1, [])
  else if u == (List.replicate 256 (u.take 16)).flatten then (2, u.take 16)
  else match packedOf fw step u with
    | some p => (3, p)
    | none => (0, u)

/-- R252, Table 10-5: the record of unit `k`. -/
def stashRecord (fw step k : Nat) (u : List Byte) : List Byte :=
  let m := stashMethod fw step u
  let h := leBytes 4 k ++ leBytes 2 m.2.length ++ [BitVec.ofNat 8 m.1, 0] ++ leBytes 4 (crc32c u).toNat
  h ++ leBytes 4 (crc32c h).toNat ++ padTo (alignUp 16 m.2.length) m.2

/-- Table 10-4. -/
def stashHeader (raw used step : Nat) : List Byte :=
  let h := leBytes 8 raw ++ leBytes 8 used ++ leBytes 8 step ++ List.replicate 36 0
  h ++ leBytes 4 (crc32c h).toNat

/-- The running firmware version, on which the packed coding depends. -/
def State.fwVersion (s : State) : Nat := (s.reg R.BOOT_FW_VERSION).toNat

/-- R251 to R253: a SAVE. -/
def State.stashSave (s : State) (b : Barge) : State :=
  let d := b.desc
  let n := saBytes d / 4096
  let st := s.step b.ctx
  let recs := (List.range n).flatMap (fun k => stashRecord s.fwVersion st k (s.bytes (saSrc d + 4096 * k) 4096))
  let s := s.writeAt (saDst d) (stashHeader (saBytes d) (64 + recs.length) st ++ recs)
  (s.count R.TRAIN_STASH_IN n).count R.TRAIN_STASH_OUT (recs.length / 16)

/-- R251, SAVE. -/
def execStashSave (i : Nat) (s : State) : Result := s.begin i 6 0 (fun b s =>
  s.reading b [(saSrc b.desc, saBytes b.desc)] (fun s => s.stashSave b))

/-- Whether a region holds a sector that reads uncorrectable. -/
def State.unreadable (s : State) (a n : Nat) : Bool :=
  (s.hbmSectors [(a, n)]).any (fun k => decide (decodeSector (s.sector k) (s.laneMark (s.placeOf k)) = .uncorrectable))

/-- The data of a record's payload, by METHOD. -/
def restoreUnit (fw m : Nat) (p : List Byte) : List Byte :=
  if m = 1 then List.replicate 4096 0
  else if m = 2 then (List.replicate 256 p).flatten
  else if m = 3 then Config.packedData fw p
  else p

/-- What a LOAD makes: the bytes of DST, the units of events 0x0293, and the area regions read. -/
structure Restored where
  data : List Byte := []
  failed : List Nat := []
  read : List (Nat × Nat) := []
  deriving DecidableEq, Repr

/-- R255: units from `k` on, `n` of them, their records from address `a`. -/
def State.loadUnits (s : State) : Nat → Nat → Nat → Restored → Restored
  | 0, _, _, r => r
  | n + 1, k, a, r =>
    let h := s.bytes a 16
    let len := ofLe ((h.drop 4).take 2)
    let m := ofLe ((h.drop 6).take 1)
    let ok := !s.unreadable a 16 && ofLe (h.drop 12) == (crc32c (h.take 12)).toNat && ofLe (h.take 4) == k && decide (m < 4)
    if !ok then
      { r with
        data := r.data ++ List.replicate (4096 * (n + 1)) 0
        failed := r.failed ++ [k]
        read := r.read ++ [(a, 16)] }
    else
      let u := restoreUnit s.fwVersion m (s.bytes (a + 16) len)
      let good := !s.unreadable (a + 16) len && ofLe ((h.drop 8).take 4) == (crc32c u).toNat && u.length == 4096
      s.loadUnits n (k + 1) (a + 16 + alignUp 16 len)
        { r with
          data := r.data ++ (if good then u else List.replicate 4096 0)
          failed := if good then r.failed else r.failed ++ [k]
          read := r.read ++ [(a, 16 + alignUp 16 len)] }

/-- R255: what a LOAD makes of its area. -/
def State.loadArea (s : State) (d : BitVec 1024) (step : Nat) : Restored :=
  let a := saSrc d
  let h := s.bytes a 64
  let ok := !s.unreadable a 64 && ofLe (h.drop 60) == (crc32c (h.take 60)).toNat && ofLe (h.take 8) == saBytes d &&
    ofLe ((h.drop 16).take 8) == step
  if ok then s.loadUnits (saBytes d / 4096) 0 (a + 64) ⟨[], [], [(a, 64)]⟩
  else ⟨List.replicate (saBytes d) 0, [0xFFFFFFFF], [(a, 64)]⟩

/-- R255: a LOAD. -/
def State.stashLoad (s : State) (b : Barge) : State :=
  let d := b.desc
  let r := s.loadArea d (s.step b.ctx)
  let s := (s.touch rdStashLoad r.read).1.writeAt (saDst d) r.data
  let s := r.failed.foldl (fun s k =>
    (s.count R.TRAIN_STASH_BAD 1).event 0x0293#16 (srcCtx b.ctx) [(8, b.ctx), (16, b.ownIndex), (32, k)]) s
  if r.failed.isEmpty then s else s.on (F.TRAIN_CTX_STATUS_STASH_FAULT b.ctx)

/-- R251, LOAD. -/
def execStashLoad (i : Nat) (s : State) : Result := s.begin i 6 1 (fun b s => s.stashLoad b)

end Sys2Proof.Machine
end

