-- ==== Sys2Proof/Machine/Update.lean ====
section
/-! DEFINITION. UPDATE barges (R264 to R273): the hyperparameter record, the update of one element, the stochastic rounding
of the remainder, and moment pages. -/

namespace Sys2Proof.Machine

/-! ## The hyperparameter record -/

/-- The nine FP32 fields of Table 10-10. -/
structure Hyper where
  lr : BitVec 32
  beta1 : BitVec 32
  beta2 : BitVec 32
  eps : BitVec 32
  wd : BitVec 32
  bc1 : BitVec 32
  bc2s : BitVec 32
  gscale : BitVec 32
  clip : BitVec 32
  deriving DecidableEq, Repr

/-- Field `k` of a record's bytes. -/
def hpWord (r : List Byte) (k : Nat) : BitVec 32 := BitVec.ofNat 32 (ofLe ((r.drop (4 * k)).take 4))

def hyperOf (r : List Byte) : Hyper :=
  ⟨hpWord r 0, hpWord r 1, hpWord r 2, hpWord r 3, hpWord r 4, hpWord r 5, hpWord r 6, hpWord r 7, hpWord r 8⟩

/-- Table 10-10: the condition of FP32 field `k`: finite and at least +0; at least +0 and below 1; finite and above 0;
finite. -/
def hpOk (k : Nat) (w : BitVec 32) : Bool :=
  match fv32 w with
  | .fin s m e =>
    let pos := !s && m != 0
    let nonneg := !s || m == 0
    if k = 0 ∨ k = 4 then nonneg
    else if k = 1 ∨ k = 2 then nonneg && (Fv.fin s m e).cmp (.fin false 1 0) == some .lt
    else if k = 7 then true
    else pos
  | _ => false

/-- R268: the first failing byte offset of a record, for ADAM or MOMENTUM (which ignores BETA2); none when it is valid. -/
def hpCheck (adam : Bool) (r : List Byte) : Option Nat :=
  if ofLe (r.drop 60) ≠ (crc32c (r.take 60)).toNat then some 60
  else match (List.range 9).find? (fun k => !(hpOk k (hpWord r k) || (k == 2 && !adam))) with
    | some k => some (4 * k)
    | none => ((List.range 24).find? (fun i => r.getD (36 + i) 0 != 0)).map (36 + ·)

/-! ## One element -/

/-- R272: ulp16 of a BF16 value, as the exponent of a power of two. -/
def ulp16 (w : Nat) : Int := let e := w / 128 % 256; if e = 0 then -133 else (e : Int) - 134

/-- R273: `sround`, as a signed byte: y is (x1 − w1) × 256 / ulp16(w1). -/
def sround (x1 : BitVec 32) (w1 : Nat) (r : BitVec 32) : Int :=
  match ((fv32 x1).add (unpackFv fmtBf16 w1).neg).mul (.fin false 1 (8 - ulp16 w1)) with
  | .fin s m e =>
    let n : Int := if s then -(m : Int) else m
    let num := if 0 ≤ e then n * 2 ^ e.toNat else n
    let den : Int := if 0 ≤ e then 1 else 2 ^ (-e).toNat
    let q := num / den
    let q := if (r.toNat : Int) * den < (num - q * den) * 2 ^ 32 then q + 1 else q
    max (-128) (min 127 q)
  | _ => 0

/-- What R272 reads for one element. -/
structure Elem where
  g : BitVec 32
  w : Nat
  rem : Int
  m : BitVec 32
  s : BitVec 32
  deriving DecidableEq, Repr

/-- What R272 writes for one element: master, remainder, moments; and whether it raises UPDATE_NONFINITE. -/
structure NewElem where
  w : Nat
  rem : Int
  m : BitVec 32
  s : BitVec 32
  bad : Bool
  deriving DecidableEq, Repr

/-- R272: x, the master weight with its remainder. -/
def masterOf (w : Nat) (rem : Int) : BitVec 32 :=
  match unpackFv fmtBf16 w with
  | .fin s m e => to32 ((Fv.fin s m e).add (.fin (decide (rem < 0)) rem.natAbs (ulp16 w - 8)))
  | .inf s => if s then negInf32 else posInf32
  | .nan => nan32

/-- R272: `adam`, and MOMENTUM after it; `draw` is the word of R273. -/
def updateElem (adam decay : Bool) (h : Hyper) (f draw : BitVec 32) (x : Elem) : NewElem :=
  let g := fMul (fMul x.g h.gscale) f
  let x0 := masterOf x.w x.rem
  let one := one32
  let m1 := if adam then fFma h.beta1 x.m (fMul (fSub one h.beta1) g) else fFma h.beta1 x.m g
  let v1 := fFma h.beta2 (fMul x.s x.s) (fMul (fSub one h.beta2) (fMul g g))
  let s1 := if adam then fSqrt v1 else 0
  let d := if adam then fDiv (fMul m1 h.bc1) (fAdd (fMul s1 h.bc2s) h.eps) else m1
  let t := if decay then fFma h.wd x0 d else d
  let x1 := fFma (fNeg h.lr) t x0
  let w1 := (toBf16 x1).toNat
  let ok := !isNonfinite32 x1 && (unpackFv fmtBf16 w1).isFin
  ⟨w1, if ok then sround x1 w1 draw else 0, m1, s1, !ok⟩

/-! ## Moment pages -/

/-- R269: an element of the moment at address `a`. -/
def momentAt (rd : Nat → Byte) (a e : Nat) : BitVec 32 :=
  let p := a + e / 8192 * pageBytes
  let i := e % 8192
  match ue5m3 (rd (p + 8192 + i / 32)).toNat with
  | .nan => nan32
  | fine => to32 (((decodeElem 0x12 codebook0 (rd (p + i)).toNat).mul fine).mul (fv32 (BitVec.ofNat 32 (leAt rd (p + 8448) 4))))

/-- R270: the bytes of a page of 8,192 new values, of which the first `n` are real, and whether it raises
UPDATE_NONFINITE. -/
def pageOf (n : Nat) (vs : List (BitVec 32)) : List Byte × Bool :=
  let real := (vs.take n).map fAbs
  let fin := real.filter (fun v => !isNonfinite32 v)
  let a := fin.foldl fMax 0
  let c := (coarseScale a (.fin false 448 0) 4).1
  let bs := (chunks 32 256 ((List.range 8192).map (fun i => (vs.getD i 0, decide (i < n))))).map (fun b =>
    quantiseBlock 0x12 codebook0 c (b.map (fun x => ⟨fv32 x.1, x.2, false⟩)))
  (bs.flatMap (fun b => b.codes.map (BitVec.ofNat 8)) ++ bs.map (fun b => BitVec.ofNat 8 b.scale) ++ leBytes 4 c.toNat ++
    List.replicate 252 0, real.any isNonfinite32)

/-! ## A barge -/

/-- R271: the clip factor. -/
def clipFactor (en : Bool) (gnorm2 clip gscale : BitVec 32) : BitVec 32 :=
  if !en || (fv32 gnorm2).isZero then one32
  else
    let d := fMul (fSqrt gnorm2) (fAbs gscale)
    if (fv32 d).isZero then one32 else fMin one32 (fDiv clip d)

/-- A signed byte. -/
def byteOf (i : Int) : Byte := BitVec.ofInt 8 i

/-- The memory regions that element `e` of an UPDATE reads. -/
def State.elemReads (s : State) (f : Frame) (d : BitVec 1024) (e : Nat) : List (Nat × Nat) :=
  let a := s.arenaBase f false
  let page := fun o => let p := a + o + e / 8192 * pageBytes; [(p + e % 8192, 1), (p + 8192 + e % 8192 / 32, 1), (p + 8448, 4)]
  let g := s.view f (upG d)
  let ig := linIx (imTd f.im (upG d)) e
  (if bOp d = 2 then [] else
    (elementAddress g ig, (fmtBits g.fmt + 7) / 8) :: (if isBlockFormat g.fmt then [(scaleAddress g ig, 1)] else [])) ++
    [(elementAddress (s.view f (upW d)) (linIx (imTd f.im (upW d)) e), 2), (a + upROff d + e, 1)] ++ page (upMOff d) ++
    (if upSOff d = 0 then [] else page (upSOff d))

/-- Every region of an UPDATE barge's inputs. -/
def State.updateReads (s : State) (f : Frame) (d : BitVec 1024) : List (Nat × Nat) :=
  let n := linCount (imTd f.im (upW d))
  let a := s.arenaBase f false
  (if bOp d = 2 then [] else (upHp d, 64) :: wholeRegions (s.view f (upG d))) ++ wholeRegions (s.view f (upW d)) ++
    [(a + upROff d, n), (a + upMOff d, pagesOf n * pageBytes)] ++ (if upSOff d = 0 then [] else [(a + upSOff d, pagesOf n * pageBytes)])

/-- What element `e` of an UPDATE has in memory. -/
def State.elemOf (s : State) (f : Frame) (d : BitVec 1024) (e : Nat) : Elem :=
  let a := s.arenaBase f false
  { g := readF32 s.byte (s.view f (upG d)) (linIx (imTd f.im (upG d)) e)
    w := s.num (elementAddress (s.view f (upW d)) (linIx (imTd f.im (upW d)) e)) 2
    rem := (s.byte (a + upROff d + e)).toInt
    m := momentAt s.byte (a + upMOff d) e
    s := if upSOff d = 0 then 0 else momentAt s.byte (a + upSOff d) e }

/-- R273: the draw of element `e`. -/
def State.updateDraw (s : State) (f : Frame) (d : BitVec 1024) (e : Nat) : BitVec 32 :=
  crng (s.ctx f.ctx).seed.toNat (0x10000000 + upGroup d) (s.step f.ctx) ((upShard d + e) % 2 ^ 64)

/-- Master weights and remainders written to the alternate arena. -/
def State.writeMasters (s : State) (f : Frame) (d : BitVec 1024) (xs : List (Nat × Byte)) : State :=
  let td := imTd f.im (upW d)
  let v := s.altView f (upW d)
  let s := s.writePlain { s.target f (upW d) false 0xFFFF none with view := v } (allLines v) (fun _ => noPos)
  let s := s.write (((List.range xs.length).zip xs).flatMap (fun (e, x) =>
    bytesAt (elementAddress v (linIx td e)) (leBytes 2 x.1)))
  s.writeAt (s.arenaBase f true + upROff d) (xs.map (fun x => x.2))

/-- R270: a moment written to the alternate arena; whether a page raised UPDATE_NONFINITE. -/
def State.writeMoment (s : State) (f : Frame) (off : Nat) (vs : List (BitVec 32)) : State × Bool :=
  let ps := (List.range (pagesOf vs.length)).map (fun p => pageOf (min 8192 (vs.length - 8192 * p)) ((vs.drop (8192 * p)).take 8192))
  (s.writeAt (s.arenaBase f true + off) (ps.flatMap (fun p => p.1)), ps.any (fun p => p.2))

/-- R272: ADAM or MOMENTUM over every element. -/
def State.updateAll (s : State) (f : Frame) (d : BitVec 1024) (h : Hyper) : State :=
  let adam := bOp d == 0
  let n := linCount (imTd f.im (upW d))
  let cf := clipFactor (upClip d) (BitVec.ofNat 32 (recBits (s.ctx f.ctx).verdict 32 0 32)) h.clip h.gscale
  let xs := (List.range n).map (fun e => updateElem adam (upDecay d) h cf (s.updateDraw f d e) (s.elemOf f d e))
  let s := s.writeMasters f d (xs.map (fun x => (x.w, byteOf x.rem)))
  let (s, badM) := s.writeMoment f (upMOff d) (xs.map (fun x => x.m))
  let (s, badS) := if adam then s.writeMoment f (upSOff d) (xs.map (fun x => x.s)) else (s, false)
  if xs.any (fun x => x.bad) || badM || badS then s.on (F.TRAIN_CTX_STATUS_UPD_NONFINITE f.ctx) else s

/-- R266, COPY: everything to the alternate arena unchanged. -/
def State.updateCopy (s : State) (f : Frame) (d : BitVec 1024) : State :=
  let n := linCount (imTd f.im (upW d))
  let a := s.arenaBase f false
  let page := fun (s' : State) off => s'.writeAt (s.arenaBase f true + off) (s.bytes (a + off) (pagesOf n * pageBytes))
  let out := s.writeMasters f d ((List.range n).map (fun e =>
    (s.num (elementAddress (s.view f (upW d)) (linIx (imTd f.im (upW d)) e)) 2, s.byte (a + upROff d + e))))
  let out := page out (upMOff d)
  if upSOff d = 0 then out else page out (upSOff d)

/-- R293: what an UPDATE writes for elements whose inputs lay in uncorrectable sectors: a moment page takes its scale from
all of its elements. -/
def State.undefinedOut (s : State) (f : Frame) (d : BitVec 1024) (bad : List Nat) : List (Nat × Nat) :=
  let n := linCount (imTd f.im (upW d))
  let hp := (sectorsOf [(upHp d, 64)]).any bad.contains && bOp d != 2
  let es := (List.range n).filter (fun e => hp || (sectorsOf (s.elemReads f d e)).any bad.contains)
  let a := s.arenaBase f true
  let w := s.altView f (upW d)
  es.flatMap (fun e => [(elementAddress w (linIx (imTd f.im (upW d)) e), 2), (a + upROff d + e, 1)]) ++
    ((es.map (· / 8192)).eraseDups).flatMap (fun p =>
      (a + upMOff d + p * pageBytes, pageBytes) :: (if upSOff d = 0 then [] else [(a + upSOff d + p * pageBytes, pageBytes)]))

/-- R268: an invalid record: nothing is written. -/
def State.badHyper (s : State) (f : Frame) (d : BitVec 1024) (off : Nat) : State :=
  (s.on (F.TRAIN_CTX_STATUS_UPD_FAULT f.ctx)).event 0x0294#16 (srcCtx f.ctx) [(8, f.ctx), (16, upGroup d), (8, off)]

/-- R262, R268, R293: an UPDATE barge; after a skip verdict it completes at once. -/
def State.startUpdate (s : State) (i : Nat) (b : Barge) (g : Frame → BitVec 1024 → State → State) : State :=
  let f := s.frame b
  let d := b.desc
  if s.flag (F.TRAIN_CTX_STATUS_VERDICT_SKIP b.ctx) then s.tryFinish i
  else
    let (s, bad) := s.touch rdUpdate (s.updateReads f d)
    let s := if bad.isEmpty then s else s.on (F.TRAIN_CTX_STATUS_UPD_FAULT b.ctx)
    let out := s.undefinedOut f d bad
    (g f d s).undefine out

/-- R268: the record of an ADAM or MOMENTUM barge read, and the update done when it is valid or could not be read. -/
def State.runUpdate (s : State) (f : Frame) (d : BitVec 1024) : State :=
  let r := s.bytes (upHp d) 64
  match hpCheck (bOp d == 0) r with
  | some off => if s.unreadable (upHp d) 64 then s else s.badHyper f d off
  | none => s.updateAll f d (hyperOf r)

/-- R272, ADAM. -/
def execAdam (i : Nat) (s : State) : Result := s.begin i 7 0 (fun b s => s.startUpdate i b (fun f d s => s.runUpdate f d))

/-- R272, MOMENTUM. -/
def execMomentum (i : Nat) (s : State) : Result := s.begin i 7 1 (fun b s => s.startUpdate i b (fun f d s => s.runUpdate f d))

/-- R266, COPY. -/
def execUpdateCopy (i : Nat) (s : State) : Result := s.begin i 7 2 (fun b s =>
  s.startUpdate i b (fun f d s => s.updateCopy f d))

end Sys2Proof.Machine
end

