-- ==== Sys2Proof/Machine/Vote.lean ====
section
/-! DEFINITION. The step vote and the commit vote (R258 to R277), the fingerprint of a verdict (R415, R422), and the
resumption of a context (R263, R278). -/

namespace Sys2Proof.Machine

/-! ## Records -/

def sat32 (n : Nat) : Nat := min (2 ^ 32 - 1) n
def sat64 (n : Nat) : Nat := min (2 ^ 64 - 1) n

/-- R182, R183: whether slot `q` requests widening. -/
def State.requests (s : State) (c q : Nat) : Bool :=
  let x := s.ctx c
  let n := x.sumCounts (fun i => tdWidenable (imTd (s.image c) i) && tdWidenSlot (imTd (s.image c) i) == q)
  let z := s.get (F.TRAIN_MON_THR_ZERO_THR c)
  let t := s.get (F.TRAIN_MON_THR_SAT_THR c)
  (z != 0 && decide (z * n.blocks < 65536 * n.zero)) || (t != 0 && decide (t * n.blocks < 65536 * n.sat)) ||
    x.overflowReq.contains q

/-- A map of 1,024 bits as a number. -/
def mapBits (p : Nat → Bool) : Nat := (List.range 1024).foldl (fun acc q => if p q then acc + 2 ^ q else acc) 0

/-- Table 10-8: the module's contribution. -/
def State.voteRecord (s : State) (b : Barge) : BitVec 2048 :=
  let c := b.ctx
  let d := b.desc
  let x := s.ctx c
  let flags := (s.get (F.TRAIN_CTX_STATUS_NONFINITE c)) + 2 * x.rebuilding.toNat + 4 * (s.get (F.TRAIN_CTX_STATUS_STASH_FAULT c))
  let at_ := fun a o => if a = 0 then 0 else s.num (a + o) 4
  let n := x.sumCounts (fun _ => true)
  BitVec.ofNat 2048 (packFields [(32, flags), (32, 0), (64, s.step c), (64, s.step c), (32, at_ (voLoss d) 0),
    (32, at_ (voLoss d) 4), (32, at_ (voGnorm d) 0), (8, s.get F.HEALTH_RISK_LEVEL), (24, 0), (64, sat64 n.blocks),
    (32, sat32 n.zero), (32, sat32 n.sat), (32, sat32 n.nonfinite), (32, sat32 x.overflow),
    (1024, mapBits (s.requests c))])

/-- Table 10-8: two records combined. -/
def joinVotes (a b : BitVec 2048) : BitVec 2048 :=
  let n := fun (f : Nat → Nat → Nat) byte bytes => f (recBits a byte 0 (8 * bytes)) (recBits b byte 0 (8 * bytes))
  let fsum := fun x y => (fAdd (BitVec.ofNat 32 x) (BitVec.ofNat 32 y)).toNat
  let s32 := fun x y => sat32 (x + y)
  BitVec.ofNat 2048 (packFields [(32, n Nat.lor 0 4), (32, 0), (64, n max 8 8), (64, n min 16 8), (32, n fsum 24 4),
    (32, n s32 28 4), (32, n fsum 32 4), (8, n max 36 1), (24, 0), (64, n (fun x y => sat64 (x + y)) 40 8), (32, n s32 48 4),
    (32, n s32 52 4), (32, n s32 56 4), (32, n s32 60 4), (1024, n Nat.lor 64 128)])

/-- Table 10-11: the module's contribution. -/
def State.commitRecord (s : State) (c : Nat) : BitVec 256 :=
  let flags := s.get (F.TRAIN_CTX_STATUS_UPD_FAULT c) + 2 * s.get (F.TRAIN_CTX_STATUS_UPD_NONFINITE c)
  BitVec.ofNat 256 (packFields [(32, flags), (32, 1), (64, s.step c), (64, s.step c)])

/-- Table 10-11: two records combined. -/
def joinCommits (a b : BitVec 256) : BitVec 256 :=
  let n := fun (f : Nat → Nat → Nat) byte bytes => f (recBits a byte 0 (8 * bytes)) (recBits b byte 0 (8 * bytes))
  BitVec.ofNat 256 (packFields [(32, n Nat.lor 0 4), (32, n Nat.add 4 4), (64, n max 8 8), (64, n min 16 8)])

/-! ## Sending -/

/-- R342: a record goes to rank 0; rank 0 keeps its own. -/
def State.sendVote (s : State) (b : Barge) (rec : List Byte) : State := s.sendTo b 0 0 rec

/-- R182, R259: a STEP vote starts; it carries the requests of the last rebuild. -/
def State.startVote (s : State) (b : Barge) : State :=
  let d := b.desc
  let regions := (if voLoss d = 0 then [] else [(voLoss d, 8)]) ++ (if voGnorm d = 0 then [] else [(voGnorm d, 4)])
  s.reading b regions (fun s =>
    let r := s.voteRecord b
    let s := (s.updCtx b.ctx (fun x => { x with
      ownVote := r, voteSent := true, overflowSent := true })).setPhase b.ctx 2
    s.sendVote b (leBytes 256 r.toNat))

/-- R259. -/
def execVoteStep (i : Nat) (s : State) : Result := s.begin i 8 0 (fun b s => (s.placeStaged b).startVote b)

/-- R274. -/
def execVoteCommit (i : Nat) (s : State) : Result := s.begin i 8 1 (fun b s =>
  let s := s.placeStaged b
  let r := s.commitRecord b.ctx
  let s := (s.updCtx b.ctx (fun x => { x with ownCommit := r, commitSent := true })).setPhase b.ctx 4
  s.sendVote b (leBytes 32 r.toNat))

/-! ## Verdicts -/

/-- The VOTE barge of context `c` and operation `op` that is in flight. -/
def State.voteBarge (s : State) (c op : Nat) : Option (Nat × Barge) :=
  ((List.range s.lock.active.length).zip s.lock.active).find? (fun (_, b) =>
    b.isRunning && b.cls == 8 && b.op == op && b.ctx == c)

/-- R342: the records of every rank at rank 0, its own among them; none while one is missing. -/
def State.votesAt0 (s : State) (b : Barge) (own : List Byte) : Option (List Nat) :=
  let rs := (List.range (s.groupSize (bGroup b.desc))).map (fun i => if i = 0 then some own else s.arrived b 0 i)
  if rs.all (·.isSome) then some (rs.map (fun r => ofLe (r.getD []))) else none

/-- R259, R342: the verdict of a vote of `n` bytes: at rank 0 the fold of every record by the tree of R128, none while one
is missing; elsewhere what rank 0 sent, or the operand where its packets are not in State. -/
def State.verdictOf (s : State) (b : Barge) (n own operand : Nat) (f : Nat → Nat → Nat) : Option Nat :=
  if s.groupRank (bGroup b.desc) = 0 then (s.votesAt0 b (leBytes n own)).map (fun rs => treeFold f own 32 rs)
  else match s.arrived b 1 0 with
    | some bs => some (if bs.isEmpty then operand else ofLe bs)
    | none => some operand

/-- R342: rank 0 sends the verdict to every member. -/
def State.sendVerdict (s : State) (b : Barge) (bs : List Byte) : State :=
  if s.groupRank (bGroup b.desc) = 0 then
    (List.range (s.groupSize (bGroup b.desc))).foldl (fun s j => s.sendTo b 1 j bs) s
  else s

/-- R282: the verdict registers of the context selected. -/
def State.showVerdicts (s : State) : State :=
  let x := s.ctx (s.get F.TRAIN_VERDICT_SEL_CONTEXT)
  let s := (List.range 64).foldl (fun s k => s.setReg (R.TRAIN_VERDICT k) (x.verdict.extractLsb' (32 * k) 32)) s
  (List.range 8).foldl (fun s k => s.setReg (R.TRAIN_CVERDICT k) (x.cverdict.extractLsb' (32 * k) 32)) s

/-- A verdict written to VERDICT_ADDR. -/
def State.storeVerdict (s : State) (b : Barge) (bs : List Byte) : State :=
  if voVerdict b.desc = 0 then s else s.writeAt (voVerdict b.desc) bs

/-- R261: a step verdict that skips. -/
def isSkip (v : BitVec 2048) : Bool :=
  v.getLsbD 0 || v.getLsbD 2 || isNonfinite32 (BitVec.ofNat 32 (recBits v 24 0 32)) ||
    isNonfinite32 (BitVec.ofNat 32 (recBits v 32 0 32))

/-- R261: the members are not running the same step. -/
def stepMismatch (v : BitVec 2048) : Bool := recBits v 8 0 64 != recBits v 16 0 64

/-- R415: the fingerprint of a verdict. -/
def fingerprint (v : BitVec 2048) : BitVec 512 :=
  let bs := leBytes 256 v.toNat
  BitVec.ofNat 512 (ofLe (sha512 ((bs.drop 24).take 12 ++ (bs.drop 40).take 152)))

/-- R415: the fingerprint written into the header of slot `j` that waits for it. -/
def State.writeVerify (s : State) (c j : Nat) (p : BitVec 512) : State :=
  let h := s.slotHeader c j
  let im := s.image c
  if im.snapBase.isSome && genValid im h && !genVerifyValid h && genStep h == s.step c then
    let a := slotAddr im j
    (s.writeAt (a + 112) (leBytes 64 p.toNat)).writeAt (a + 4) (leBytes 4 (genFlags h + 8))
  else s

/-- R422: the comparison that a sealed restore armed. -/
def State.compareVerify (s : State) (c : Nat) (p : BitVec 512) : State :=
  if !s.flag (F.LK_SNAP_VERIFY_ARMED c) then s
  else if (s.ctx c).verify = p then
    ((s.off (F.LK_SNAP_VERIFY_ARMED c)).on (F.LK_SNAP_VERIFY_VERIFIED c)).event 0x0618#16 (srcCtx c) [(8, c), (32, s.step c)]
  else
    ((s.on (F.LK_SNAP_VERIFY_MISMATCH c)).abortSteps [c]).event 0x0619#16 (srcCtx c) [(8, c), (32, s.step c)]

/-- R259, R261: the verdict `v` takes effect on context `c`, whose vote is barge `i`. -/
def State.takeVerdict (s : State) (i : Nat) (b : Barge) (v : BitVec 2048) : State :=
  let c := b.ctx
  let s := ((s.updCtx c (fun x => { x with verdict := v, verdictIn := true })).showVerdicts)
  let s := (s.storeVerdict b (leBytes 256 v.toNat)).sendVerdict b (leBytes 256 v.toNat)
  let s := (s.put (F.TRAIN_CTX_STATUS_VERDICT_SKIP c) (isSkip v).toNat).setPhase c 3
  let s := s.tryFinish i
  if stepMismatch v then (s.abortSteps [c]).event 0x0295#16 (srcCtx c) [(8, c), (32, s.step c)]
  else
    let p := fingerprint v
    ((s.writeVerify c 0 p).writeVerify c 1 p).compareVerify c p

/-- R261: the step verdict arrives. -/
def execStepVerdict (c : CtxId) (v : BitVec 2048) (s : State) : Result :=
  .next (match s.voteBarge c.val 0 with
  | some (i, b) =>
    if (s.ctx c.val).verdictIn || (s.ctx c.val).stepAborted then s
    else match s.verdictOf b 256 (s.ctx c.val).ownVote.toNat v.toNat
        (fun x y => (joinVotes (BitVec.ofNat 2048 x) (BitVec.ofNat 2048 y)).toNat) with
      | some n => s.takeVerdict i b (BitVec.ofNat 2048 n)
      | none => s
  | none => s)

/-- R274: the commit passes, for a group of `n` members. -/
def commitPasses (v : BitVec 256) (n : Nat) (skip : Bool) : Bool :=
  recBits v 0 0 32 == 0 && recBits v 4 0 32 == n && recBits v 8 0 64 == recBits v 16 0 64 && !skip

/-- R276, R277: a passing commit of context `c`. -/
def State.passCommit (s : State) (c : Nat) : State :=
  let s := (s.setReg64 (R.TRAIN_COMMIT c) (s.reg64 (R.TRAIN_STEP c))).on (F.TRAIN_ARENA_PENDING c)
  let s := s.updCtx c (fun x => { x with boundary := some true })
  if (s.ctx c).stepAborted then s else s.setPhase c 5

/-- R275: a commit that does not pass; after a skip verdict its result is ignored. -/
def State.failCommit (s : State) (c : Nat) (v : BitVec 256) (skip : Bool) : State :=
  if skip then s
  else (s.count R.TRAIN_COMMIT_FAIL 1).event 0x0292#16 (srcCtx c) [(8, c), (8, recBits v 0 0 8), (32, recBits v 4 0 32)]

/-- R276: the commit verdict `v` takes effect. -/
def State.takeCommit (s : State) (i : Nat) (b : Barge) (v : BitVec 256) : State :=
  let c := b.ctx
  let skip := s.flag (F.TRAIN_CTX_STATUS_VERDICT_SKIP c)
  let s := (s.updCtx c (fun x => { x with cverdict := v, commitIn := true })).showVerdicts
  let s := (s.storeVerdict b (leBytes 32 v.toNat)).sendVerdict b (leBytes 32 v.toNat)
  let s := if commitPasses v (s.groupSize (bGroup b.desc)) skip then s.passCommit c else s.failCommit c v skip
  s.tryFinish i

/-- R277: a passing verdict that reaches a member after it aborted still stands. -/
def State.lateCommit (s : State) (c : Nat) (v : BitVec 256) : State :=
  let x := s.ctx c
  let skip := s.flag (F.TRAIN_CTX_STATUS_VERDICT_SKIP c)
  let g := s.jobGroupOf c
  if x.stepAborted && x.commitSent && !x.commitIn && s.groupRank g != 0 && recBits v 8 0 64 == s.step c &&
      commitPasses v (s.groupSize g) skip then
    ((s.updCtx c (fun x => { x with cverdict := v, commitIn := true })).showVerdicts).passCommit c
  else s

/-- R276, R277: the commit verdict arrives. A root that has aborted sends and passes none. -/
def execCommitVerdict (c : CtxId) (v : BitVec 256) (s : State) : Result :=
  .next (match s.voteBarge c.val 1 with
  | some (i, b) =>
    if (s.ctx c.val).commitIn then s
    else match s.verdictOf b 32 (s.ctx c.val).ownCommit.toNat v.toNat
        (fun x y => (joinCommits (BitVec.ofNat 256 x) (BitVec.ofNat 256 y)).toNat) with
      | some n =>
        if (s.ctx c.val).stepAborted then s.lateCommit c.val (BitVec.ofNat 256 n) else s.takeCommit i b (BitVec.ofNat 256 n)
      | none => s
  | none => s.lateCommit c.val v)

/-! ## TRAIN_CTL -/

/-- R278, Table 10-19: why a resume is refused; 0 when it is accepted. A context under teardown and a device in a reset drain
and resume nothing (R404, log 83). -/
def State.resumeCheck (s : State) (c : Nat) : Nat :=
  if (s.ctx c).image.isNone then 4
  else if s.flag F.LOCK_STATUS_DRAINING || s.ctxState c == ctxTeardown || s.lk.reset.isSome then 1
  else if !(s.ctx c).stepAborted && !s.flag (F.TRAIN_CTX_STATUS_STOPPED c) then 3
  else if (s.reg64 (R.TRAIN_RESUME c)).toNat < s.index + 2 then 2
  else 0

/-- R336: a context's epoch advances: what its old epoch sent and received is forgotten; a change abandons an export
(R414). -/
def State.advanceEpoch (s : State) (c : Nat) : State := ((s.dropStreams c).tick (R.LINK_CTX_EPOCH c)).dropExport c 1

/-- R178, R278: an aborted step is cleared for its resumption, and is to be run again with its seed. Where a commit has
passed and its flip is still to come (R277), the flip uses and then clears what the step has gathered. -/
def State.clearAborted (s : State) (c : Nat) : State :=
  if (s.ctx c).stepAborted then
    let passed := decide ((s.ctx c).boundary = some true)
    let s := if passed then s else ((s.clearStep c).clearAmax c).discardFeed c
    (s.updCtx c (fun x => { x with
      stepAborted := false, rerun := if passed then none else some x.seed
      overflowSent := passed && x.overflowSent })).off F.LOCK_STATUS_STEP_ABORTED
  else s

/-- R278: context `c` resumes at the lock index of TRAIN_RESUME_n. -/
def State.resume (s : State) (c : Nat) : State :=
  let l := (s.reg64 (R.TRAIN_RESUME c)).toNat
  let s := (s.advanceEpoch c).clearAborted c
  let s := ((s.off (F.TRAIN_CTX_STATUS_STOPPED c)).setPhase c (if (s.ctx c).boundary = some true then 5 else 0)).setCtxState c
    ctxRunning
  let s := s.updCtx c (fun x => { x with run := some ⟨.normal, 0, l⟩, started := true, pauseNext := false })
  s.event 0x0296#16 (srcCtx c) [(8, c), (24, s.step c), (32, l)]

/-- Table 10-19: what TRAIN_CTL with CMD 1 or 2 does. -/
def State.trainCtl (s : State) (w : Word) : State :=
  if !goBit w then s
  else
    let c := F.TRAIN_CTL_CONTEXT.of w
    let cmd := F.TRAIN_CTL_CMD.of w
    if cmd = 1 then
      let code := s.resumeCheck c
      (if code = 0 then s.resume c else s).put F.TRAIN_CTL_RESULT_CODE code
    else if cmd = 2 then
      if (s.ctx c).image.isNone then s.put F.TRAIN_CTL_RESULT_CODE 4
      else (s.put (F.TRAIN_CTX_STATUS_SKIP_RUN c) 0).put F.TRAIN_CTL_RESULT_CODE 0
    else s.put F.TRAIN_CTL_RESULT_CODE 5

/-- R278. -/
def execResumeContext (w : Word) (s : State) : Result := .next (s.onDies (fun s => s.trainCtl w))
/-- R263. -/
def execClearSkipRun (w : Word) (s : State) : Result := .next (s.onDies (fun s => s.trainCtl w))

end Sys2Proof.Machine
end

