-- ==== Sys2Proof/Machine/Collective.lean ====
section
/-! DEFINITION. COLLECTIVE barges (R338 to R343). A barge sends its streams at its start; when every input stream of its own
shard is there it folds the shard and sends the results; when every stream is there it writes its outputs. -/

namespace Sys2Proof.Machine

/-- Bytes of one element of a stream of inputs: an FP32, or a Channel Statistics entry. -/
def coWidth (b : BitVec 1024) : Nat := if bOp b = 7 then 16 else 4

/-- The bytes of a Channel Statistics entry. -/
def statBytes (e : CStat) : List Byte :=
  leBytes 4 e.amax.toNat ++ leBytes 4 e.lead.toNat ++ leBytes 4 e.rows.toNat ++ leBytes 4 e.step.toNat

/-- The entry that 16 bytes stand for. -/
def statOf (bs : List Byte) : CStat :=
  let w := fun k => BitVec.ofNat 32 (ofLe ((bs.drop (4 * k)).take 4))
  ⟨w 0, w 1, w 2, w 3⟩

/-- R339, Table 12-9: this member's input elements `lo` to `lo + n - 1` as bytes. -/
def State.coInputs (s : State) (b : Barge) (lo n : Nat) : List Byte :=
  let d := b.desc
  let v := s.view (s.frame b) (coIn d)
  (List.range n).flatMap (fun k =>
    if b.op = 6 then leBytes 4 (s.scale (coFirst d + lo + k)).amax.toNat
    else if b.op = 7 then statBytes (s.cstatAt (s.ctx b.ctx).feedBank (coFirst d + lo + k))
    else leBytes 4 (readF32 s.byte v (linIx (imTd (s.image b.ctx) (coIn d)) (lo + k))).toNat)

/-- R341: two statistics entries combined. -/
def joinStats (x y : CStat) : CStat :=
  let sum := fun (a b : BitVec 32) => BitVec.ofNat 32 (min (2 ^ 32 - 1) (a.toNat + b.toNat))
  ⟨fMax x.amax y.amax, sum x.lead y.lead, sum x.rows y.rows, BitVec.ofNat 32 (max x.step.toNat y.step.toNat)⟩

/-- R340, R341: one node of a fold. -/
def coNode (b : BitVec 1024) (x y : List Byte) : List Byte :=
  if bOp b = 7 then statBytes (joinStats (statOf x) (statOf y))
  else
    let u := BitVec.ofNat 32 (ofLe x)
    let w := BitVec.ofNat 32 (ofLe y)
    leBytes 4 (if bOp b = 6 ∨ coMax b then fMax u w else fAdd u w).toNat

/-- R340: the folds of `n` elements over the streams of every rank in order. -/
def coFold (b : BitVec 1024) (n : Nat) (streams : List (List Byte)) : List (List Byte) :=
  let w := coWidth b
  (List.range n).map (fun k => treeFold (coNode b) [] 32 (streams.map (fun x => (x.drop (w * k)).take w)))

/-- R340: a result as TD_OUT holds it, and as PHASE 1 carries it. -/
def coResult (im : Image) (b : BitVec 1024) (x : List Byte) : List Byte :=
  if bOp b ≤ 1 ∧ tdFormat (imTd im (coOut b)) = 0x20 then leBytes 2 (packFv fmtBf16 (fv32 (BitVec.ofNat 32 (ofLe x)))) else x

/-- The size of a barge's group and the own rank. -/
def State.coSize (s : State) (b : Barge) : Nat := s.groupSize (coGroup b.desc)
def State.coRank (s : State) (b : Barge) : Nat := s.groupRank (coGroup b.desc)

/-- This member's shard. -/
def State.coShard (s : State) (b : Barge) (j : Nat) : Nat × Nat := shard (coElements (s.image b.ctx) b.desc) (s.coSize b) j

/-- The stream of `phase` from rank `i`, this member's own in place. -/
def State.coStream (s : State) (b : Barge) (phase i : Nat) (own : List Byte) : List Byte :=
  if i = s.coRank b then own else (s.arrived b phase i).getD []

/-- R340: the results of this member's own shard. -/
def State.coOwn (s : State) (b : Barge) : List (List Byte) :=
  let (lo, n) := s.coShard b (s.coRank b)
  let own := s.coInputs b lo n
  (coFold b.desc n ((List.range (s.coSize b)).map (fun i => s.coStream b 0 i own))).map (coResult (s.image b.ctx) b.desc)

/-! ## Sending -/

/-- R339: the PHASE 0 stream to rank `j`. -/
def State.coSend (s : State) (b : Barge) (j : Nat) : List Byte :=
  let d := b.desc
  if b.op ≤ 1 ∨ 6 ≤ b.op then let (lo, n) := s.coShard b j; s.coInputs b lo n
  else if b.op = 5 then s.bytes (coSrc d + j * coBytes d) (coBytes d)
  else if streamLen (s.image b.ctx) d (s.coSize b) 0 (s.coRank b) j = 0 then []
  else s.bytes (coSrc d) (coBytes d)

/-- Every rank of the barge's group in order. -/
def State.coRanks (s : State) (b : Barge) : List Nat := List.range (s.coSize b)

/-- R339: every PHASE 0 stream sent. -/
def State.coSendAll (s : State) (b : Barge) : State := (s.coRanks b).foldl (fun s j => s.sendTo b 0 j (s.coSend b j)) s

/-- Whether an operation has results to pass on in PHASE 1. -/
def hasResults (op : Nat) : Bool := op == 1 || op == 6 || op == 7

/-- R339: the results of the own shard sent to every member. -/
def State.coPass (s : State) (b : Barge) : State :=
  if hasResults b.op then
    let bs := (s.coOwn b).flatten
    (s.coRanks b).foldl (fun s j => s.sendTo b 1 j bs) s
  else s

/-! ## Outputs -/

/-- R340: results, in the order of elements, written to TD_OUT; R83: its padding with them. -/
def State.coWrite (s : State) (b : Barge) (rs : List (List Byte)) : State :=
  let f := s.frame b
  let t := s.target f (coOut b.desc) false 0xFFFF none
  let v := t.view
  let vals := rs.toArray
  let get := fun (ix : Ix) =>
    let e := ix.1 + v.dim 0 * (ix.2.1 + v.dim 1 * ix.2.2.1)
    if isPadding v ix then (⟨false, false, .fin false 0 0⟩ : OutPos)
    else match vals[e]? with
      | some x => ⟨true, true, if v.fmt = 0x20 then unpackFv fmtBf16 (ofLe x) else fv32 (BitVec.ofNat 32 (ofLe x))⟩
      | none => ⟨false, false, .fin false 0 0⟩
  s.write ((allLines v).flatMap (fun (lo, n, rest) => (writeLine t (fun i => get (i, rest)) lo rest ((n + 15) / 16)).writes))

/-- Every result in the order of elements: the shards of every rank. -/
def State.coAll (s : State) (b : Barge) : List (List Byte) :=
  let own := (s.coOwn b).flatten
  (s.coRanks b).flatMap (fun i =>
    let bs := s.coStream b 1 i own
    let n := (s.coShard b i).2
    let w := if n = 0 then 0 else bs.length / n
    (List.range n).map (fun k => (bs.drop (w * k)).take w))

/-- R341: the agreed values replace those of a range. -/
def State.coAgree (s : State) (b : Barge) (rs : List (List Byte)) : State :=
  let put := fun (s : State) (p : Nat × List Byte) =>
    let i := coFirst b.desc + p.1
    if b.op = 6 then s.setScale i { s.scale i with amax := BitVec.ofNat 32 (ofLe p.2) }
    else s.setCstat (s.ctx b.ctx).feedBank i (statOf p.2)
  ((List.range rs.length).zip rs).foldl put s

/-- Table 12-7: what rank `i` gives this member of an operation that only moves bytes. -/
def State.coBlock (s : State) (b : Barge) (i : Nat) : List Byte :=
  let d := b.desc
  s.coStream b 0 i (s.bytes (coSrc d + (if b.op = 5 then s.coRank b * coBytes d else 0)) (coBytes d))

/-- Table 12-7: the outputs of a barge whose streams are all there. -/
def State.coOutput (s : State) (b : Barge) : State :=
  let d := b.desc
  let n := s.coSize b
  if b.op = 0 then s.coWrite b (s.coOwn b)
  else if b.op = 1 then s.coWrite b (s.coAll b)
  else if b.op = 6 ∨ b.op = 7 then s.coAgree b (s.coAll b)
  else if b.op = 3 then s.writeAt (coDst d) (s.coBlock b (coArg d))
  else if b.op = 4 then s.writeAt (coDst d) (s.coBlock b ((s.coRank b + n - coArg d % max 1 n) % max 1 n))
  else
    let blocks := (s.coRanks b).map (s.coBlock b)
    s.writeAt (coDst d) blocks.flatten

/-! ## Progress -/

/-- Every PHASE 0 stream to this member is there. -/
def State.inputsIn (s : State) (b : Barge) : Bool := (s.coRanks b).all (fun i => (s.arrived b 0 i).isSome)

/-- COLLECTIVE barge `i` goes as far as the streams there let it, and completes if it may. -/
def State.progress (s : State) (i : Nat) : State :=
  match s.barge i with
  | none => s
  | some b =>
    if !(b.isRunning && b.cls == 5) || (s.ctx b.ctx).stepAborted then s
    else
      let s := if s.collectiveAt i = 0 ∧ s.inputsIn b then (s.coPass b).setCollective i 1 else s
      let s := if s.collectiveAt i = 1 ∧ (s.missingRanks b).isEmpty then (s.coOutput b).setCollective i 2 else s
      s.tryFinish i

/-- The memory that a COLLECTIVE barge reads. -/
def State.coReads (s : State) (b : Barge) : List (Nat × Nat) :=
  let d := b.desc
  if b.op ≤ 1 then wholeRegions (s.view (s.frame b) (coIn d))
  else if 6 ≤ b.op then []
  else if b.op = 5 then [(coSrc d, s.coSize b * coBytes d)]
  else if b.op = 3 ∧ s.coRank b ≠ coArg d then []
  else [(coSrc d, coBytes d)]

/-- R338, R339: COLLECTIVE barge `i` of operation `op` starts. -/
def State.collective (s : State) (i op : Nat) : Result := s.begin i 5 op (fun b s =>
  s.reading b (s.coReads b) (fun s => ((s.placeStaged b).coSendAll b).progress i))

/-- R340, REDUCE_SCATTER. -/
def execReduceScatter (i : Nat) (s : State) : Result := s.collective i 0
/-- R340, ALL_REDUCE. -/
def execAllReduce (i : Nat) (s : State) : Result := s.collective i 1
/-- R338, ALL_GATHER. -/
def execAllGather (i : Nat) (s : State) : Result := s.collective i 2
/-- R338, BROADCAST. -/
def execBroadcast (i : Nat) (s : State) : Result := s.collective i 3
/-- R338, SHIFT. -/
def execShift (i : Nat) (s : State) : Result := s.collective i 4
/-- R338, ALL_TO_ALL. -/
def execAllToAll (i : Nat) (s : State) : Result := s.collective i 5
/-- R341, AMAX_AGREE. -/
def execAmaxAgree (i : Nat) (s : State) : Result := s.collective i 6
/-- R341, CSTAT_AGREE. -/
def execCstatAgree (i : Nat) (s : State) : Result := s.collective i 7

end Sys2Proof.Machine
end

