-- ==== Sys2Proof/Machine/Flash.lean ====
section
/-! DEFINITION. The flash (R428 to R430): its partitions, its bytes, the signatures and checks of a partition, the firmware
state words, and the repair log (R443). -/

namespace Sys2Proof.Machine

/-! ## Partitions -/

/-- Table 17-1, by row: 0 manufacturing, 1 repair log, 2 and 3 site configuration, 4 owner record, 5 reserved, 6 and 7
firmware. -/
def partBase (p : Nat) : Nat := [0, 0x400000, 0x800000, 0x900000, 0xA00000, 0xB00000, 0x1000000, 0x4800000].getD p 0x8000000
def partSize (p : Nat) : Nat := partBase (p + 1) - partBase p

/-- The partition of a flash address. -/
def partOf (a : Nat) : Nat := ((List.range 8).filter (fun p => decide (partBase p ≤ a))).length - 1

/-- The partition of firmware slot A (false) or B. -/
def fwPart (b : Bool) : Nat := if b then 7 else 6

/-- Bytes of a firmware partition before its state sector (Table 17-1). -/
def fwRoom : Nat := 56 * 2 ^ 20 - 4096

/-! ## Bytes -/

/-- A byte nothing has written: erased, or as the module left the factory. -/
def flashDefault (erased : List Nat) (a : Nat) : Byte := if erased.contains (partOf a) then 0xFF else Config.factoryFlash a

/-- The flash byte at `a`. -/
def State.flashByte (s : State) (a : Nat) : Byte := tblGet (flashDefault s.lk.flashErased) s.lk.flash a

/-- The `n` bytes from offset `o` of partition `p`, and their number. -/
def State.part (s : State) (p o n : Nat) : List Byte := (List.range n).map (fun i => s.flashByte (partBase p + o + i))
def State.partNum (s : State) (p o n : Nat) : Nat := ofLe (s.part p o n)

/-- Bytes written from offset `o` of partition `p`. -/
def State.writePart (s : State) (p o : Nat) (bs : List Byte) : State :=
  { s with lk := { s.lk with
    flash := (placed (partBase p + o) bs).foldl (fun f w => tblSet (flashDefault s.lk.flashErased) f w.1 w.2) s.lk.flash } }

/-- Partition `p` erased. -/
def State.erasePart (s : State) (p : Nat) : State :=
  { s with lk := { s.lk with
    flash := s.lk.flash.filter (fun e => partOf e.1 != p)
    flashErased := if s.lk.flashErased.contains p then s.lk.flashErased else s.lk.flashErased ++ [p] } }

/-! ## Signatures -/

/-- R429, R431: a signature by the identity key. Those the device makes verify. -/
def identityVerifies (msg sig : List Byte) : Bool := sig == Config.identitySign msg || pssVerify Config.identityKey msg sig

/-- A whole partition given as bytes, by Table 17-2. -/
def hdNum (bs : List Byte) (o n : Nat) : Nat := ofLe ((bs.drop o).take n)
def hdLength (bs : List Byte) : Nat := hdNum bs 16 8
def hdBody (bs : List Byte) : List Byte := (bs.drop 1024).take (hdLength bs)

/-- R429: KIND and KEY are those of the partition's kind and the SIGNATURE verifies. `key` is KEY's code (R430): 0 firmware,
1 manufacturing, 2 the owner key `owner`, 3 identity. -/
def signedOk (kind key : Nat) (owner : Option Nat) (bs : List Byte) : Bool :=
  let msg := bs.take 512
  let sig := (bs.drop 512).take 512
  hdNum bs 0 4 == kind && hdNum bs 12 4 == key &&
    (if key = 0 then pssVerify Config.firmwareKey msg sig
    else if key = 1 then (Config.manufacturingKey (hdBody bs)).any (fun n => pssVerify n msg sig)
    else if key = 2 then owner.any (fun n => pssVerify n msg sig)
    else identityVerifies msg sig)

/-- R429: the body is there whole, and DIGEST matches it. -/
def digestMatches (bs : List Byte) : Bool :=
  decide (1024 + hdLength bs ≤ bs.length) && sha512 (hdBody bs) == (bs.drop 24).take 64

def partValid (kind key : Nat) (owner : Option Nat) (bs : List Byte) : Bool := signedOk kind key owner bs && digestMatches bs

/-- The bytes of partition `p` that its header covers: the header, and a body that fits. -/
def State.partBytes (s : State) (p : Nat) : List Byte :=
  let room := if 6 ≤ p then fwRoom else partSize p
  s.part p 0 (min room (1024 + s.partNum p 16 8))

/-- R430: the manufacturing partition and the owner record are valid; the owner key. -/
def State.makerValid (s : State) : Bool := partValid 1 1 none (s.partBytes 0)
def State.ownerValid (s : State) : Bool := partValid 3 3 none (s.partBytes 4)
def State.ownerKey (s : State) : Option (Nat × List Byte) :=
  if s.ownerValid then Config.certKey (hdBody (s.partBytes 4)) else none

/-- The body of the manufacturing partition. -/
def State.makerBody (s : State) : List Byte := hdBody (s.partBytes 0)

/-! ## Firmware -/

/-- The state sector of firmware slot A (false) or B: STATE and SEQ. -/
def State.fwWord (s : State) (b : Bool) : Nat := s.partNum (fwPart b) fwRoom 4
def State.fwSeq (s : State) (b : Bool) : Nat := s.partNum (fwPart b) (fwRoom + 4) 4
def State.setFwWord (s : State) (b : Bool) (w : Nat) : State := s.writePart (fwPart b) fwRoom (leBytes 4 w)

/-- Table 17-6, as BOOT_FW_STATE codes it: 0 EMPTY, 1 NEW, 2 TRIAL, 3 GOOD, 4 BAD. -/
def fwCode (w : Nat) : Nat :=
  if w = 0xFFFFFFFF then 0 else if w = 0x7FFFFFFF then 1 else if w = 0x3FFFFFFF then 2 else if w = 0x1FFFFFFF then 3 else 4
def State.fwState (s : State) (b : Bool) : Nat := fwCode (s.fwWord b)

def State.fwVersionIn (s : State) (b : Bool) : Nat := s.partNum (fwPart b) 8 4
def State.fwValid (s : State) (b : Bool) : Bool := partValid 4 0 none (s.partBytes (fwPart b))

/-- BOOT_FW_A, BOOT_FW_B and BOOT_FW_STATE. -/
def State.showFirmware (s : State) : State :=
  let v := fun (b : Bool) => BitVec.ofNat 32 (if s.fwState b = 0 then 0 else s.fwVersionIn b)
  ((s.setReg R.BOOT_FW_A (v false)).setReg R.BOOT_FW_B (v true)).setReg R.BOOT_FW_STATE
    (BitVec.ofNat 32 (s.fwState true * 16 + s.fwState false))

/-- R438, R439: MIN_FW and FW_PIN allow a version. -/
def State.fwAllowed (s : State) (v : Nat) : Bool :=
  decide ((s.reg R.BOOT_MIN_FW).toNat ≤ v) && (s.reg R.BOOT_FW_PIN == 0 || (s.reg R.BOOT_FW_PIN).toNat == v)

/-! ## The repair log -/

/-- R443: the record at position `i` is erased. -/
def State.logErased (s : State) (i : Nat) : Bool := (s.part 1 (1024 * i) 1024).all (· == 0xFF)

/-- R443: the position of the next record. -/
def State.logNext (s : State) : Nat := ((List.range 4096).find? (fun i => s.logErased i)).getD 4096

/-- R443: the 512 signed bytes of a record. -/
def logBody (i kind channel row : Nat) : List Byte :=
  leBytes 4 5 ++ leBytes 4 i ++ leBytes 4 kind ++ leBytes 4 channel ++ leBytes 8 row ++ List.replicate 488 0

/-- R443: one action added to the log in flash and to its copy; a full log takes none. -/
def State.logRepair (s : State) (kind channel row : Nat) : State :=
  let i := s.logNext
  if i < 4096 then
    let b := logBody i kind channel row
    let s := s.writePart 1 (1024 * i) (b ++ Config.identitySign b)
    { s with lk := { s.lk with repairLog := s.lk.repairLog ++ [(kind, channel, row)] } }
  else s.event 0x070A#16 srcPackage [(32, 0xFFFFFFFF)]

/-- R443: a record checks: its tag, its index and its signature. -/
def logValid (i : Nat) (r : List Byte) : Bool :=
  hdNum r 0 4 == 5 && hdNum r 4 4 == i && identityVerifies (r.take 512) (r.drop 512)

/-- R443: the log read into its copy at boot. -/
def State.readLog (s : State) : State :=
  let s := { s with lk := { s.lk with repairLog := [] } }
  (List.range s.logNext).foldl (fun (s : State) i =>
    let r := s.part 1 (1024 * i) 1024
    if logValid i r then
      { s with lk := { s.lk with repairLog := s.lk.repairLog ++ [(hdNum r 8 4, hdNum r 12 4, hdNum r 16 8)] } }
    else s.event 0x070A#16 srcPackage [(32, i)]) s

end Sys2Proof.Machine
end

