-- ==== Sys2Proof/Machine/FlashCommands.lean ====
section
/-! DEFINITION. Site configurations (R435, R16, R332) and the flash commands of Table 17-7 (R433, R434, R439 to R442). -/

namespace Sys2Proof.Machine

/-! ## Site configuration -/

/-- A number of a site configuration's body (Table 17-3). -/
def siteNum (b : List Byte) (o n : Nat) : Nat := hdNum b o n

/-- R16, R332. -/
def siteTimesOk (b : List Byte) : Bool :=
  let p := siteNum b 4 2
  let test := siteNum b 7 1
  let maint := siteNum b 8 1
  let lead := siteNum b 9 1
  let cut := siteNum b 10 1
  let gather := siteNum b 12 1
  decide (maint < lead) && decide (lead ≤ p - 1) && decide (4 ≤ cut) && decide (cut < lead) && decide (2 ≤ maint) &&
    decide (maint ≤ 20) && decide (1 ≤ test) && decide (test ≤ 20) && decide (1 ≤ gather) && decide (maint + 2 + gather ≤ cut)

/-- R435: every value lies in its field's range, and R16 and R332 hold. -/
def siteOk (b : List Byte) : Bool :=
  let tick := siteNum b 12 4
  let steal := siteNum b 28 4
  b.length == 256 && decide (siteNum b 2 2 < 8192) && decide (25 ≤ siteNum b 4 2) && decide (siteNum b 4 2 ≤ 5000) &&
    decide (siteNum b 6 1 ≤ 0x80) && decide (siteNum b 11 1 < 16) && tick &&& 0x9F9F00FF == tick &&
    steal &&& 0x1FF07 == steal && decide (1 ≤ bitsAt steal 8 8) && decide (siteNum b 32 1 < 2) &&
    siteNum b 33 3 == 0 && (b.drop 52).all (· == 0) && siteTimesOk b

/-- R435: site copy 0 or 1, its SEQ, and whether it is valid under the owner key. -/
def State.siteBytes (s : State) (j : Nat) : List Byte := s.partBytes (2 + j)
def State.siteSeq (s : State) (j : Nat) : Nat := s.partNum (2 + j) 4 4
def State.siteValid (s : State) (j : Nat) : Bool := partValid 2 2 (s.ownerKey.map (·.1)) (s.siteBytes j)

/-- R435: the valid copies, the greater SEQ first. -/
def State.siteOrder (s : State) : List Nat :=
  ((if s.siteSeq 0 < s.siteSeq 1 then [1, 0] else [0, 1]).filter (fun j => s.siteValid j))

/-! ## Targets -/

/-- R439: the target of FW_WRITE and FW_COMMIT. -/
def State.fwTarget (s : State) : Bool :=
  match s.lk.fwRunning with
  | some b => !b
  | none =>
    let good := fun b => s.fwState b == 3
    if good false != good true then good false else decide (s.fwSeq true < s.fwSeq false)

/-- R441: the copy that SITE_WRITE writes: the one with the smaller SEQ, one that is not valid before one that is. -/
def State.siteTarget (s : State) : Nat :=
  let rank := fun j => if s.siteValid j then s.siteSeq j + 1 else 0
  if rank 1 < rank 0 then 1 else 0

/-- BOOT_STAGE's first `n` bytes. -/
def State.staged (s : State) (n : Nat) : List Byte :=
  (List.range n).map (fun i => (s.reg (R.BOOT_STAGE (i / 4))).extractLsb' (8 * (i % 4)) 8)

/-! ## Checks -/

/-- The first of some checks that fails, by its code; 0 when none does. -/
def firstCode (l : List (Bool × Nat)) : Nat := ((l.find? (fun p => !p.1)).map (·.2)).getD 0

/-- R439: the running partition is GOOD, or no firmware runs. -/
def State.fwFree (s : State) : Bool := s.lk.fwRunning.all (fun b => s.fwState b == 3)

/-- R454: the security pair is in service. -/
def State.secIn (s : State) : Bool := !s.flag F.LK_STATUS_SEC_OUT

def State.fwWriteCheck (s : State) (offset len : Nat) : Nat :=
  firstCode [(s.fwFree, 7), (offset % 4096 == 0 && decide (1 ≤ len) && decide (len ≤ 524288) && decide (offset + len ≤ fwRoom), 3)]

def State.fwCommitCheck (s : State) : Nat :=
  let bs := s.partBytes (fwPart s.fwTarget)
  firstCode [(s.fwFree, 7), (s.secIn && signedOk 4 0 none bs, 4), (digestMatches bs, 5), (s.fwAllowed (hdNum bs 8 4), 6)]

def State.siteWriteCheck (s : State) (bs : List Byte) : Nat :=
  firstCode [(decide (1 ≤ bs.length) && decide (bs.length ≤ 524288), 3),
    (s.secIn && signedOk 2 2 (s.ownerKey.map (·.1)) bs, 4), (digestMatches bs, 5),
    (decide ((s.reg R.BOOT_SITE_SEQ).toNat < hdNum bs 4 4), 8), (siteOk (hdBody bs), 9)]

def State.enrolCheck (s : State) (bs : List Byte) : Nat :=
  firstCode [(!s.ownerValid, 0xA), (decide (1 ≤ bs.length) && decide (bs.length ≤ 524288), 3),
    (s.secIn && (Config.certKey bs).isSome, 4)]

/-- R434: the statement of 128 bytes and its signature. -/
def State.releaseCheck (s : State) (bs : List Byte) : Nat :=
  let st := bs.take 128
  firstCode [(s.ownerValid, 0xB), (bs.length == 640, 3),
    (s.secIn && s.ownerKey.any (fun k => pssVerify k.1 st (bs.drop 128)), 4),
    (st.take 64 == sha512 (Config.identityCertificate s.makerBody) &&
      (st.drop 64).take 8 == leBytes 8 (s.reg64 R.BOOT_NONCE).toNat && (st.drop 72).all (· == 0), 0xC)]

/-- Table 17-7: the STATE values in which a command is accepted. -/
def flashStates (cmd : Nat) : List Nat :=
  if cmd = 1 ∨ cmd = 2 then [3, 4, 5] else if cmd = 3 then [3] else if cmd = 4 ∨ cmd = 6 then [3, 5] else [4]

/-- R441: the code that a command's checks give. -/
def State.flashCheck (s : State) (cmd offset : Nat) (bs : List Byte) : Nat :=
  if cmd = 0 ∨ 6 < cmd then 0xE
  else if !(flashStates cmd).contains (s.get F.BOOT_STATUS_STATE) then 2
  else if cmd = 1 then s.fwWriteCheck offset bs.length
  else if cmd = 2 then s.fwCommitCheck
  else if cmd = 3 then 0
  else if cmd = 4 then s.siteWriteCheck bs
  else if cmd = 5 then s.enrolCheck bs
  else s.releaseCheck bs

/-! ## Accepting GO -/

/-- R441: a write of BOOT_CMD. The nonce that a RELEASE draws comes with it, or is free. -/
def State.flashCmd (s : State) (w : Word) (given : Option (BitVec 64)) : State :=
  if !goBit w || s.lk.flashRun.isSome then s
  else
    let cmd := F.BOOT_CMD_CMD.of w
    let offset := (s.reg R.BOOT_CMD_OFFSET).toNat
    let bs := s.staged (s.reg R.BOOT_CMD_LEN).toNat
    let code := s.flashCheck cmd offset bs
    let (nonce, s) := match given with
      | some n => (n, s)
      | none => s.draw
    let run : FlashRun := ⟨cmd, code, offset, bs, nonce⟩
    { s.on F.BOOT_CMD_RESULT_BUSY with lk := { s.lk with flashRun := some run } }

/-- R439. -/
def execFwWrite (w : Word) (s : State) : Result := .next (s.onLk (fun s => s.flashCmd w none))
/-- R439. -/
def execFwCommit (w : Word) (s : State) : Result := .next (s.onLk (fun s => s.flashCmd w none))
/-- R440. -/
def execFwConfirm (w : Word) (s : State) : Result := .next (s.onLk (fun s => s.flashCmd w none))
/-- R441. -/
def execSiteWrite (w : Word) (s : State) : Result := .next (s.onLk (fun s => s.flashCmd w none))
/-- R433. -/
def execEnrol (w : Word) (s : State) : Result := .next (s.onLk (fun s => s.flashCmd w none))
/-- R434. -/
def execRelease (w : Word) (nonce : DWord) (s : State) : Result := .next (s.onLk (fun s => s.flashCmd w (some nonce)))

/-! ## Carrying out -/

/-- R439: FW_WRITE. -/
def State.fwWrite (s : State) (offset : Nat) (bs : List Byte) : State :=
  let p := fwPart s.fwTarget
  (if offset = 0 then s.erasePart p else s).writePart p offset bs

/-- R439: FW_COMMIT. -/
def State.fwCommit (s : State) : State :=
  let t := s.fwTarget
  let seq := if s.fwState (!t) = 0 then 1 else s.fwSeq (!t) + 1
  (s.writePart (fwPart t) (fwRoom + 4) (leBytes 4 seq)).setFwWord t 0x7FFFFFFF

/-- R440: FW_CONFIRM. A running partition that is not TRIAL is left as it is. -/
def State.fwConfirm (s : State) : State :=
  match s.lk.fwRunning with
  | some b =>
    if s.fwState b = 2 then
      ((s.setFwWord b 0x1FFFFFFF).off F.BOOT_STATUS_TRIAL).event 0x0705#16 srcPackage [(8, b.toNat), (32, s.fwVersionIn b)]
    else s
  | none => s

/-- R441: SITE_WRITE. -/
def State.siteWrite (s : State) (bs : List Byte) : State :=
  let p := 2 + s.siteTarget
  (s.erasePart p).writePart p 0 bs

/-- Low 32 bits of the SHA-512 of an owner key (Table 17-10). -/
def ownerMark (key : List Byte) : Nat := ofLe ((sha512 key).take 4)

/-- Table 17-2: an owner record with a certificate as its body. -/
def ownerRecord (cert : List Byte) : List Byte :=
  let h := leBytes 4 3 ++ leBytes 4 0 ++ leBytes 4 0 ++ leBytes 4 3 ++ leBytes 8 cert.length ++ sha512 cert ++
    List.replicate 424 0
  h ++ Config.identitySign h ++ cert

/-- R433: ENROL. -/
def State.enrol (s : State) (cert : List Byte) : State :=
  let s := ((s.erasePart 2).erasePart 3).erasePart 4
  let s := (s.writePart 4 0 (ownerRecord cert)).on F.BOOT_STATUS_OWNED
  s.event 0x0707#16 srcPackage [(32, ((Config.certKey cert).map (fun k => ownerMark k.2)).getD 0)]

/-- R434: RELEASE. -/
def State.release (s : State) : State :=
  let mark := (s.ownerKey.map (fun k => ownerMark k.2)).getD 0
  (((((s.erasePart 4).erasePart 2).erasePart 3).off F.BOOT_STATUS_OWNED)).event 0x0708#16 srcPackage [(32, mark)]

/-- Table 17-7: an accepted command's effect. -/
def State.flashEffect (s : State) (r : FlashRun) : State :=
  if r.cmd = 1 then s.fwWrite r.offset r.bytes
  else if r.cmd = 2 then s.fwCommit
  else if r.cmd = 3 then s.fwConfirm
  else if r.cmd = 4 then s.siteWrite r.bytes
  else if r.cmd = 5 then s.enrol r.bytes
  else s.release

/-- R441: a command ends. A RELEASE, accepted or refused, draws a nonce (R434). -/
def State.endFlash (s : State) (r : FlashRun) : State :=
  let s := { s with lk := { s.lk with flashRun := none } }
  let s := if r.code = 0 then (s.flashEffect r).showFirmware
    else s.event 0x0709#16 srcPackage [(8, r.cmd), (8, r.code)]
  let s := if r.cmd = 6 then s.setReg64 R.BOOT_NONCE r.nonce else s
  ((s.put F.BOOT_CMD_RESULT_CODE r.code).off F.BOOT_CMD_RESULT_BUSY).raise 3

/-- R441. -/
def execFlashCommandDone (s : State) : Result :=
  .next (match s.lk.flashRun with | some r => s.endFlash r | none => s)

/-- R442, Table 17-6: a module reset or loss of power ends a command half way: what it was writing is erased, or, a state
word, BAD (log 47). -/
def State.tearFlash (s : State) : State :=
  match s.lk.flashRun with
  | none => s
  | some r =>
    let s := { s with lk := { s.lk with flashRun := none } }
    if r.code ≠ 0 then s
    else if r.cmd = 1 then s.erasePart (fwPart s.fwTarget)
    else if r.cmd = 2 then s.setFwWord s.fwTarget 0
    else if r.cmd = 3 then
      match s.lk.fwRunning with
      | some b => if s.fwState b = 2 then s.setFwWord b 0 else s
      | none => s
    else if r.cmd = 4 then s.erasePart (2 + s.siteTarget)
    else if r.cmd = 5 then (s.erasePart 2).erasePart 3
    else ((s.erasePart 4).erasePart 2).erasePart 3

end Sys2Proof.Machine
end

