-- ==== Sys2Proof/Machine/Format.lean ====
section
/-! DEFINITION. Codebook loads (R51 to R53), the read that clears (R56), the copies of scale entries and of channel
statistics (R94, R190), and the ends of the work that follows a commit flip (R75, R177, R180, R187, R351). -/

namespace Sys2Proof.Machine

/-- The first index of a list of entries at which `p` fails. -/
def firstBad (p : BitVec 16 → Bool) (es : List (BitVec 16)) : Option Nat := es.findIdx? (fun e => !p e)

/-- Table 02-7, code 0x05. -/
def cbEntryShape (e : BitVec 16) : Bool :=
  if cbZero e then cbSig e == 0 && cbEoff e == 0 else decide (8 ≤ cbSig e) && decide (cbSig e ≤ 15)

/-- Table 02-7, code 0x07. -/
def cbEntryRange (c : Codebook) (e : BitVec 16) : Bool :=
  cbZero e || (decide (-64 ≤ cbExp c e) && decide (cbExp c e ≤ 63))

/-- Table 02-7, codes 0x04 to 0x09: the first check of the content that fails, with its entry; (0, 0) when all hold. -/
def cbContentCheck (c : Codebook) : Nat × Nat :=
  match firstBad (fun e => cbReserved e == 0) c.entries with
  | some i => (4, i)
  | none => match firstBad cbEntryShape c.entries with
    | some i => (5, i)
    | none =>
      if c.entries.headD 1 &&& 0x8003#16 != 1#16 then (6, 0)
      else match firstBad (cbEntryRange c) c.entries with
        | some i => (7, i)
        | none =>
          if 12 < maxInt (cbExps c) - minInt (cbExps c) + 1 ∧ !(cbExps c).isEmpty then (8, 0)
          else if (c.entries.drop 1).all cbNowrite then (9, 0)
          else (0, 0)

/-- Table 02-7: every check, in order. -/
def State.cbCheck (s : State) (ctx id : Nat) (c : Codebook) : Nat × Nat :=
  if id < 2 ∨ 64 ≤ id then (1, 0)
  else if s.flag (F.FORMAT_CB_HDR_VALID id) ∧ s.get (F.FORMAT_CB_HDR_OWNER id) ≠ ctx then (2, 0)
  else if s.ctxState ctx ≠ ctxLoading then (3, 0)
  else cbContentCheck c

/-- R52: a codebook copied into its slot. -/
def State.storeCodebook (s : State) (ctx id : Nat) (c : Codebook) : State :=
  let s := (List.range 8).foldl (fun s i =>
    s.setReg (R.FORMAT_CB_ENT id i) (c.entries.getD (2 * i + 1) 0 ++ c.entries.getD (2 * i) 0)) s
  let s := ((s.put (F.FORMAT_CB_HDR_BASE_EXP id) c.base.toNat).put (F.FORMAT_CB_HDR_OWNER id) ctx).on (F.FORMAT_CB_HDR_VALID id)
  s.setReg64 R.FORMAT_CB_VALID (s.reg64 R.FORMAT_CB_VALID ||| BitVec.twoPow 64 id)

/-- The staged codebook. -/
def State.stagedCodebook (s : State) : Codebook :=
  ⟨BitVec.ofNat 8 (s.get F.FORMAT_CB_STAGE_BASE_BASE_EXP), (List.range 16).map (fun k =>
    BitVec.ofNat 16 (if k % 2 = 0 then s.get (F.FORMAT_CB_STAGE_ENTRY_ENTRY_LO (k / 2))
      else s.get (F.FORMAT_CB_STAGE_ENTRY_ENTRY_HI (k / 2))))⟩

/-- R51, R52: a write of FORMAT_CB_CMD: with GO, and none in progress, a load starts. -/
def State.codebookCmd (s : State) (w : Word) : State :=
  if goBit w && s.lk.codebookLoad.isNone then
    let s := (s.on F.FORMAT_CB_RESULT_BUSY).put F.FORMAT_CB_RESULT_ID (F.FORMAT_CB_CMD_ID.of w)
    { s with lk := { s.lk with codebookLoad := some (F.FORMAT_CB_CMD_CONTEXT.of w * 64 + F.FORMAT_CB_CMD_ID.of w) } }
  else s
def execCodebookLoad (w : Word) (s : State) : Result := .next (s.onDies (fun s => s.codebookCmd w))

/-- R51, R52: the checks end, and the codebook is accepted into its slot or refused with event 0x0220. -/
def execCodebookLoadEnd (s : State) : Result :=
  .next (match s.lk.codebookLoad with
  | none => s
  | some k =>
    let ctx := k / 64
    let id := k % 64
    let cb := s.stagedCodebook
    let r := s.cbCheck ctx id cb
    let s := { s with lk := { s.lk with codebookLoad := none } }
    let s := if r.1 = 0 then s.storeCodebook ctx id cb
      else s.event 0x0220#16 (srcCtx ctx) [(8, id), (8, ctx), (8, r.1), (8, r.2)]
    ((s.put F.FORMAT_CB_RESULT_CODE r.1).put F.FORMAT_CB_RESULT_ENTRY r.2).off F.FORMAT_CB_RESULT_BUSY)

/-- R94: a write of SCALE_RD_SEL; one with GO while BUSY is 1 is ignored. -/
def State.scaleSelect (s : State) (w : Word) : State :=
  if goBit w then
    if s.lk.scaleRead.isSome then s
    else
      let s := (s.hostWrite R.SCALE_RD_SEL w).on F.SCALE_RD_STATUS_BUSY
      { s with lk := { s.lk with scaleRead := some (F.SCALE_RD_SEL_INDEX.of w) } }
  else s.hostWrite R.SCALE_RD_SEL w
def execScaleRead (w : Word) (s : State) : Result := .next (s.onDies (fun s => s.scaleSelect w))

/-- R94: the copy of one entry of both tables is made, and BUSY clears. -/
def execScaleReadCopy (s : State) : Result :=
  .next (match s.lk.scaleRead with
  | none => s
  | some i =>
    let e := s.scale i
    let s := (((s.setReg R.SCALE_RD_H e.h).setReg R.SCALE_RD_C0 e.c0).setReg R.SCALE_RD_C1 e.c1).setReg R.SCALE_RD_AMAX e.amax
    let s := (List.range 16).foldl (fun s j => s.setReg (R.SCALE_RD_HIST j) (tblGet histDefault e.hist j)) s
    { s.off F.SCALE_RD_STATUS_BUSY with lk := { s.lk with scaleRead := none } })

/-- R190: a write of SCALE_CSTAT_RD_SEL; one with GO while BUSY is 1 is ignored. -/
def State.cstatSelect (s : State) (w : Word) : State :=
  if goBit w then
    if s.lk.cstatRead.isSome then s
    else
      let s := (s.hostWrite R.SCALE_CSTAT_RD_SEL w).on F.SCALE_CSTAT_RD_STATUS_BUSY
      let k := F.SCALE_CSTAT_RD_SEL_BANK.of w * 2 ^ 21 + F.SCALE_CSTAT_RD_SEL_INDEX.of w
      { s with lk := { s.lk with cstatRead := some k } }
  else s.hostWrite R.SCALE_CSTAT_RD_SEL w
def execCstatRead (w : Word) (s : State) : Result := .next (s.onDies (fun s => s.cstatSelect w))

/-- The context that claims a Channel Statistics entry. -/
def State.cstatOwner (s : State) (i : Nat) : Option Nat :=
  s.resident.find? (fun c => decide ((s.image c).cstatFirst ≤ i) && decide (i < (s.image c).cstatFirst + (s.image c).cstatCount))

/-- R190: statistics entry `i` stands in its agreement collective: a running CSTAT_AGREE of the context that claims it
covers it. -/
def State.inAgreement (s : State) (i : Nat) : Bool :=
  s.lock.active.any (fun b => b.isRunning && b.cls == 5 && b.op == 7 && s.cstatOwner i == some b.ctx &&
    decide (coFirst b.desc ≤ i) && decide (i < coFirst b.desc + coCount b.desc))

/-- R190: the copy of one statistics entry, its bank read by the role that it has at that instant. While the entry's
agreement collective runs the copy waits. -/
def execCstatReadCopy (s : State) : Result :=
  .next (match s.lk.cstatRead with
  | none => s
  | some k =>
    let i := k % 2 ^ 21
    if s.inAgreement i then s else
    let feed := ((s.cstatOwner i).map (fun c => (s.ctx c).feedBank)).getD (s.flag F.SCALE_CSTAT_STATUS_FEED_BANK)
    let e := s.cstatAt (if k / 2 ^ 21 = 1 then feed else !feed) i
    let s := ((s.setReg R.SCALE_CSTAT_RD_AMAX e.amax).setReg R.SCALE_CSTAT_RD_LEAD e.lead).setReg R.SCALE_CSTAT_RD_ROWS e.rows
    let s := s.setReg R.SCALE_CSTAT_RD_STEP e.step
    { s.off F.SCALE_CSTAT_RD_STATUS_BUSY with lk := { s.lk with cstatRead := none } })

/-- R75, R177, R410: the history and coarse-scale work after a commit flip is complete: block-tensor barges may start, the
sluice swap follows, and a capture that the boundary decided on starts. -/
def execScaleUpdateComplete (c : CtxId) (s : State) : Result :=
  .next (if (s.ctx c).blocksHeld then
    let s := (s.updCtx c (fun x => { x with blocksHeld := false })).sluiceSwap c
    if (s.ctx c).captureDue then s.startCapture c else s
  else s)

/-- R180, R181: the rebuild into the next bank completes. -/
def execSluiceRebuildDone (c : CtxId) (s : State) : Result :=
  .next (if (s.ctx c).rebuilding then
    ((s.rebuild c).updCtx c (fun x => { x with rebuilding := false })).showRebuild
  else s)

/-- R187, R351: the re-timing of the normal lock plan completes. -/
def execPlanRetimeDone (c : CtxId) (s : State) : Result :=
  .next (if (s.ctx c).retiming then
    let im := s.image c
    let x := s.ctx c
    let plan := retime im x.levels (s.windowClk 0) im.plan
    let s := s.setCtx c { x with plan := plan, retiming := false }
    let s := s.setReg R.TRAIN_WIDEN_RETIMED
      (s.reg R.TRAIN_WIDEN_RETIMED + BitVec.ofNat 32 plan.length - BitVec.ofNat 32 x.plan.length)
    s.event 0x0264#16 (srcCtx c) [(8, c), (24, x.plan.length), (24, plan.length)]
  else s)

end Sys2Proof.Machine
end

