-- ==== Sys2Proof/Machine/Ports.lean ====
section
/-! DEFINITION. Ports going down and up (R317, R324): a link declared down, the end of training, and the partner that a HELLO
names; as the link layer, a boot and a device recovery use them. -/

namespace Sys2Proof.Machine

/-- Fields of a port by global port number. -/
def partnerValid (p : Nat) : Fld := F.LINK_PORT_PARTNER_VALID (p / 16) (p % 16)
def partnerPort (p : Nat) : Fld := F.LINK_PORT_PARTNER_PORT (p / 16) (p % 16)
def partnerModule (p : Nat) : Fld := F.LINK_PORT_PARTNER_MODULE (p / 16) (p % 16)

/-- R317: the link of port `p` is declared down, for a cause: its buffers are discarded. -/
def State.linkDown (s : State) (p cause : Nat) : State :=
  let s := (s.setPort p {}).setPortState p portDown
  let s := { s with link := { s.link with eqPort := if s.link.eqPort = some p then none else s.link.eqPort } }
  let s := (s.count (R.LINK_P_DOWN (p / 16) (p % 16)) 1).event 0x0401#16 (source 6 p)
    [(8, p), (8, cause), (16, s.get (partnerModule p))]
  s.checkParents

/-- R324: training completes: its equalisation is saved, and HELLO is sent. -/
def State.linkUp (s : State) (p : Nat) : State :=
  let s := (s.setPort p { phase := (s.port p).phase, helloSent := true }).on (F.LINK_PORT_STATUS_EQ_SAVED (p / 16) (p % 16))
  s.sendControl p 2 (leBytes 2 (s.get F.LINK_ID_MODULE_ID) ++ leBytes 2 (s.get F.LINK_ID_FABRIC_ID) ++ leBytes 1 p)
/-- R324: the partner of port `p` is recorded, and the port is up. -/
def State.partnerUp (s : State) (p m q : Nat) : State :=
  let s := ((s.on (partnerValid p)).put (partnerModule p) m).put (partnerPort p) q
  let s := s.updPort p (fun x => { x with newPartner := none })
  (s.setPortState p portUp).event 0x0402#16 (source 6 p) [(8, p), (16, m), (8, q)]

/-- R324: the port is held. -/
def State.holdPort (s : State) (p st m q : Nat) : State :=
  let s := (s.updPort p (fun x => { x with newPartner := some (BitVec.ofNat 32 (packFields [(16, m), (16, q)])) })).setPortState p st
  s.event 0x0403#16 (source 6 p) [(8, p), (8, st), (16, s.get (partnerModule p)), (16, m)]

/-- R324: the partner is module `m` of fabric `fab`, by its port `q`. -/
def State.meet (s : State) (p m fab q : Nat) : State :=
  if (s.port p).phase ≠ portTraining then s
  else if fab ≠ s.get F.LINK_ID_FABRIC_ID then s.holdPort p portHeldFabric m q
  else if s.flag (partnerValid p) ∧ (s.get (partnerModule p) ≠ m ∨ s.get (partnerPort p) ≠ q) then
    s.holdPort p portHeldPartner m q
  else s.partnerUp p m q

/-- Table 15-5, Table 17-4 step 10: port `p` has trained and its partner is checked, where the report names it; an enabled
port that it does not name stays down. -/
def State.trainPort (s : State) (ps : List PartnerReport) (p : Nat) : State :=
  let s := s.setPort p {}
  if !s.portEnabled p then s.setPortState p portDisabled
  else match ps.find? (fun x => x.port.val == p) with
  | none => s.linkDown p 0
  | some x =>
    let s := ((s.setPort p { training := true }).setPortState p portTraining).linkUp p
    s.meet p x.module_.toNat x.fabric.toNat x.partnerPort.val

/-- Every port in turn. -/
def State.trainPorts (s : State) (ps : List PartnerReport) : State := (List.range 32).foldl (fun s p => s.trainPort ps p) s

/-- R327: the relock of the fabric time that ends a boot or a device recovery: at the tick master, and where a parent port is
up; elsewhere the module stays unlocked. -/
def State.relock (s : State) : State :=
  if s.flag F.LOCK_CTL_TICK_MASTER || s.parentPort.isSome then
    ({ s with link := { s.link with goodEstimates := 16 } } : State).on F.LOCK_STATUS_FTC_LOCKED
  else s

end Sys2Proof.Machine
end

