-- ==== Sys2Proof/Machine/BargeChecks.lean ====
section
/-! DEFINITION. The load checks of one barge, class by class: R24, R26, R41, R118, R150, R151, R166, R209, R219, R242, R251,
R254, R257, R258, R266, R267, R308, R344, R363 to R367. -/

namespace Sys2Proof.Machine

/-- A set of byte ranges: (address, length). -/
abbrev Ranges := List (Nat × Nat)

/-- Two ranges share a byte. -/
def meets (x y : Nat × Nat) : Bool := decide (x.1 < y.1 + y.2) && decide (y.1 < x.1 + x.2)
def anyMeet (xs ys : Ranges) : Bool := xs.any (fun x => ys.any (meets x))

/-- R11: a range that a program image may name: HBM below CAP, the program region of the Basin window, or the boundary
table of a sequence slot that the image claims. -/
def State.namable (s : State) (im : Image) (a n : Nat) : Bool :=
  s.inProgram a n || im.seqSlots.any (fun q =>
    decide (0xFE003E000000 + 0x40000 * q.1.val ≤ a) && decide (a + n ≤ 0xFE003E000000 + 0x40000 * (q.1.val + 1)))
def State.namableAll (s : State) (im : Image) (rs : Ranges) : Bool := rs.all (fun r => s.namable im r.1 r.2)

/-- R80: element plane and scale plane of a tensor as its descriptor places them. -/
def tdPlanes (d : BitVec 512) : Ranges :=
  let v : View := ⟨tdFormat d, codebook0, tdBase d, tdScaleBase d, tdDims d, tdStrides d, one32⟩
  viewRegions v

/-- Every plan of an image: normal, bootstrap, evaluation. -/
def imPlans (im : Image) : List (List Manifest) := im.plan :: im.bootPlan :: im.evals
def imManifests (im : Image) : List Manifest := (imPlans im).flatten

/-- R171: whether a barge feeds the Channel Statistics Table, and the tensor whose positions it feeds. -/
def feedsStats (b : BitVec 1024) : Bool :=
  opStatsEn b && (bClass b == 1 || (bClass b == 2 && [0, 2, 4].contains (bOp b)) || (bClass b == 3 && [0, 1, 5, 6].contains (bOp b)))
def outTensor (b : BitVec 1024) : Nat := if bClass b = 1 then mxC b else if bClass b = 2 then atO b else vbOut b

/-- The member count of a group that the image declares. -/
def groupCount (im : Image) (g : Nat) : Option Nat := im.groups.lookup g

/-! ## The header and the valid codes (R22 to R24, R26) -/

/-- Valid OP values of a class: those below this. -/
def opLimit (cls : Nat) : Nat :=
  if cls = 1 then 3 else if cls = 2 then 5 else if cls = 3 then 7 else if cls = 4 then 3 else if cls = 5 then 8
  else if cls = 6 then 2 else if cls = 7 then 3 else if cls = 8 then 2 else if cls = 9 then 3 else if cls = 0xA then 3 else 0

/-- R26: one barge at position `i` of its manifest, with W for s = 0. -/
def bargeHeaderOk (w i : Nat) (b : BitVec 1024) : Bool :=
  decide (bOp b < opLimit (bClass b)) && bHeaderReserved b == 0 && bIndex b == i && bContext b == 0 &&
    ((bAfterA b).all (fun j => decide (j < i))) && ((bAfterB b).all (fun j => decide (j < i))) &&
    decide (1 ≤ bBudget b) && decide (bBudget b ≤ w) && (bClass b != 9 || recZero b 16 127)

/-- R26, R28, R469: a manifest of an image with SHARE `share` and BARGE_SHARE `most`. -/
def manifestOk (w share most : Nat) (m : Manifest) : Bool :=
  let h := m.header
  let n := m.barges.length
  mhCount h == n && decide (n ≤ 4096) && mhFlagsReserved h == 0 && recZero h 16 63 && m.sectionBytes == 64 + 128 * n &&
    mhCrc h == manifestCrc m.barges && ((List.range n).zip m.barges).all (fun (i, b) => bargeHeaderOk w i b) &&
    fits m.barges (mhPlanEnd h) share && decide (n ≤ most)

/-! ## The output path (R150, R151, R166) -/

/-- The value of an FP32 field is finite. -/
def isFinite32 (w : BitVec 32) : Bool := match fv32 w with | .fin _ _ _ => true | _ => false

/-- R166: a kernel field names a kernel of the image, or the identity kernel. -/
def kernelOk (im : Image) (id : Nat) : Bool := id == 0xFFFF || im.kernels.any (fun k => k.id == id)

/-- R150: the extent produced along dimension 0 is whole segments of the tensor's rotation. -/
def segmentsOk (d : BitVec 512) (extent : Nat) : Bool := extent % rotLen (tdRotSize d) == 0

/-- R166, for a barge that writes tensor `c`; `m`, `n` and `batch` are the extents of its operands. The reserved fields and
SLUICE_OUT are those of Table 06-4 up to byte 99. -/
def outFieldsOk (im : Image) (b : BitVec 1024) (c m n batch : Nat) : Bool :=
  let d := imTd im c
  let bias := imTd im (opTdBias b)
  let elt := imTd im (opTdElt b)
  let aux := imTd im (opTdAux b)
  opEltOp b != 3 && isFinite32 (opAlpha b) && !isNan32 (opClipLo b) && !isNan32 (opClipHi b) &&
    (!opClipEn b || fvGe (fv32 (opClipHi b)) (fv32 (opClipLo b))) && validFormat (tdFormat d) &&
    (if opBiasEn b then (tdFormat bias == 0x20 || tdFormat bias == 0x30) &&
        decide ((if opBiasAxis b = 0 then n else m) ≤ tdDim bias 0) && tdRotation bias == 0
      else opTdBias b == 0) &&
    (if opEltOp b = 0 then opTdElt b == 0
      else decide (tdDim d 0 ≤ tdDim elt 0) && decide (tdDim d 1 ≤ tdDim elt 1) && decide (batch ≤ tdDim elt 2) &&
        tdRotation elt == 0) &&
    (if opAuxEn b then validFormat (tdFormat aux) && tdRotation aux == 0 else opTdAux b == 0) &&
    (if opKernelEn b then kernelOk im (opKernelId b) else opKernelId b == 0) &&
    (!opStatsEn b || (decide (im.cstatFirst ≤ opStatsBase b) &&
      decide (opStatsBase b + tdDim d 0 ≤ im.cstatFirst + im.cstatCount))) &&
    (opSluiceOut b == 0xFFFF || (isDFormat (tdFormat d) && (imSluice im (opSluiceOut b)).isSome)) &&
    recBits b 65 1 7 == 0 && bTdReserved b 80 == 0 && bTdReserved b 84 == 0 && bTdReserved b 88 == 0 &&
    recZero b 94 95 && recBits b 96 21 11 == 0

/-! ## MATRIX (R118) -/

/-- R118, R41, R150, R151 and R166 for a MATRIX barge. -/
def matrixOk (s : State) (im : Image) (b : BitVec 1024) : Bool :=
  let a := imTd im (mxA b)
  let w := imTd im (mxB b)
  let c := imTd im (mxC b)
  let inRange := fun x => decide (1 ≤ x) && decide (x < 2 ^ 31)
  let tasks := mxBatch b * ((mxM b + 127) / 128) * ((mxN b + 127) / 128) * mxSplitK b
  (bOp b != 0 || mxBatch b == 1) && matrixFormat (tdFormat a) && matrixFormat (tdFormat w) &&
    inRange (mxM b) && inRange (mxN b) && inRange (mxK b) && decide (1 ≤ mxBatch b) &&
    decide (mxK b ≤ tdDim a 0) && decide (mxK b ≤ tdDim w 0) && decide (mxM b ≤ tdDim a 1) && decide (mxN b ≤ tdDim w 1) &&
    decide (mxBatch b ≤ tdDim a 2) && decide (mxBatch b ≤ tdDim w 2) && decide (mxBatch b ≤ tdDim c 2) &&
    decide (1 ≤ mxSplitK b) && decide (mxSplitK b ≤ 64) && decide (mxSplitK b ≤ (mxK b + 255) / 256) &&
    !(mxComp b && mxFamily b) && mxTasks b == tasks && decide (tasks < 2 ^ 32) &&
    (if bOp b = 2 then mxCountAddr b % 4 == 0 && s.namable im (mxCountAddr b) (4 * mxBatch b) else mxCountAddr b == 0) &&
    tdRotation a == tdRotation w && tdRotSize c != 3 && !(bOp b == 2 && opTranspose b && tdRotSize c != 0) &&
    segmentsOk c (if opTranspose b then mxM b else mxN b) &&
    bTdReserved b 16 == 0 && bTdReserved b 20 == 0 && bTdReserved b 24 == 0 && recBits b 41 3 5 == 0 &&
    bAddrReserved b 44 == 0 && recZero b 56 63 && outFieldsOk im b (mxC b) (mxM b) (mxN b) (mxBatch b) && recZero b 100 127

/-! ## VECTOR (R209, R219) -/

/-- R209: the output-path fields of a VECTOR barge that writes TD_C. -/
def vecOutOk (im : Image) (b : BitVec 1024) : Bool :=
  let d := imTd im (vbIn b 0)
  !opTranspose b && !opBiasEn b && opEltOp b == 0 && !opKernelEn b && opKernelId b == 0 &&
    opAlpha b == one32 && outFieldsOk im b (vbOut b) (tdDim d 1) (tdDim d 0) (tdDim d 2) && recZero b 100 127

/-- R219: the reduction codes and TOPK_K of a VECTOR barge. -/
def vecCodesOk (b : BitVec 1024) : Bool :=
  let top := fun r => r == 8 || r == 9
  if bOp b = 1 then decide (vbRed1 b ≤ 7) && (decide (vbRed2 b ≤ 7) || vbRed2 b == 0xF) && vbTopK b == 0
  else if bOp b = 2 then decide (vbRed1 b ≤ 9) && vbRed2 b == 0xF &&
    (if top (vbRed1 b) then decide (1 ≤ vbTopK b) && decide (vbTopK b ≤ 64) else vbTopK b == 0)
  else vbRed1 b == 0xF && vbRed2 b == 0xF && vbTopK b == 0

/-- R209, R219: MAP, ROW, REDUCE, ROTATE and UNROTATE. -/
def vecTensorOk (s : State) (im : Image) (b : BitVec 1024) : Bool :=
  let d := imTd im (vbIn b 0)
  let c := imTd im (vbOut b)
  let n := vbInCount b
  let same := fun (t : BitVec 512) => tdDim t 0 == tdDim d 0 && tdDim t 1 == tdDim d 1 && tdDim t 2 == tdDim d 2 &&
    tdDim t 3 == 1 && tdDim t 4 == 1
  let rows := tdDim d 1 * tdDim d 2
  let resLen := if bOp b = 1 then 16 * rows else (if vbTopK b = 0 then 8 else 8 * vbTopK b) * rows
  vecCodesOk b && decide (1 ≤ n) && decide (n ≤ (if bOp b ≤ 2 then 3 else 1)) &&
    (List.range 3).all (fun i => if i < n then validFormat (tdFormat (imTd im (vbIn b i))) && same (imTd im (vbIn b i))
      else vbIn b i == 0) &&
    (List.range 3).all (fun i => kernelOk im (vbKernel b i)) && (bOp b == 1 || vbKernel b 2 == 0xFFFF) &&
    ((bOp b == 1 && vbRed2 b != 0xF) || vbKernel b 1 == 0xFFFF) &&
    (!(bOp b == 1 || bOp b == 2) || decide (rows ≤ 4194304)) && vbRes b % 8 == 0 &&
    (if vbRes b = 0 then bOp b != 2 else s.namable im (vbRes b) (if bOp b = 1 ∨ bOp b = 2 then resLen else 8)) &&
    (List.range 4).all (fun i => bTdReserved b (16 + 4 * i) == 0) && recBits b 39 7 1 == 0 && recBits b 40 2 6 == 0 &&
    recZero b 41 47 && bAddrReserved b 48 == 0 && recZero b 56 63 &&
    (if bOp b = 2 then vbOut b == 0 && recZero b 64 127
      else same c && vecOutOk im b &&
        (if bOp b = 5 then tdRotation d == 0 && tdRotSize c == 3 && segmentsOk c (tdDim d 0)
         else if bOp b = 6 then tdRotSize d != 0 && tdRotation c == 0
         else tdRotSize c != 3 && segmentsOk c (tdDim d 0)))

/-- R209, R219: COMPRESS and EXPAND. -/
def vecListOk (s : State) (im : Image) (b : BitVec 1024) : Bool :=
  let inRange := fun x => decide (1 ≤ x) && decide (x < 2 ^ 31)
  let list := 4 * cxBuckets b * cxCap b
  let idx := if bOp b = 3 then 4 * cxL b else list
  inRange (cxL b) && inRange (cxCap b) && decide (1 ≤ cxBuckets b) && decide (cxBuckets b ≤ 256) &&
    [cxIdx b, cxList b, cxCount b, cxPos b].all (fun a => a % 4 == 0) &&
    s.namableAll im [(cxIdx b, idx), (cxList b, list), (cxCount b, 4 * cxBuckets b)] &&
    (if cxPos b = 0 then bOp b == 3 || s.namable im 0 (4 * cxL b) else s.namable im (cxPos b) (4 * cxL b)) &&
    [16, 24, 32, 40].all (fun k => bAddrReserved b k == 0) && recZero b 54 55 && (bOp b != 3 || cxFill b == 0) &&
    recZero b 64 127

def vectorOk (s : State) (im : Image) (b : BitVec 1024) : Bool :=
  if bOp b = 3 ∨ bOp b = 4 then vecListOk s im b else vecTensorOk s im b

/-! ## ATTENTION (R242) -/

/-- R229: MASK_KIND and MASK_PARAM. -/
def maskFieldsOk (b : BitVec 1024) : Bool :=
  decide (atMask b ≤ 6) &&
    (if 4 ≤ atMask b then decide (1 ≤ atMaskParam b) && decide (atMaskParam b ≤ 4194304) else atMaskParam b == 0)

/-- R242: the fields an OP does not use are 0. -/
def attUnusedOk (b : BitVec 1024) : Bool :=
  let z := fun (l : List Nat) => l.all (· == 0)
  let rope := [atRopeDoc b, atRopeHalves b].all (fun x => !x) && atRopeTable b == 0
  let keys := z [atKtFirst b, atKtCount b, atSplit b, atKPos0 b] && atSmScale b == 0
  match bOp b with
  | 0 => rope && z [atSegBase b, atNseg b, atState b] && atGradScale b == 0
  | 1 => rope && z [atO b, atLse b, atNseg b] && atGradScale b == 0
  | 2 => rope && keys && atSegBase b == 0 && atGradScale b == 0 && !atPD4 b
  | 3 => rope && z [atSegBase b, atNseg b, atState b]
  | _ => keys && z [atK b, atV b, atLse b, atMask b, atMaskParam b, atSegBase b, atNseg b, atState b] && atGradScale b == 0 &&
      !atPD4 b

/-- R242: reserved bits of Table 09-7. -/
def attReservedOk (b : BitVec 1024) : Bool :=
  (List.range 5).all (fun i => bTdReserved b (16 + 4 * i) == 0) && recBits b 36 2 2 == 0 && recBits b 37 3 5 == 0 &&
    recBits b 38 7 1 == 0 && bAddrReserved b 116 == 0 && recZero b 124 127

/-- R242: the operands of every OP but ROPE. -/
def attOperandsOk (im : Image) (b : BitVec 1024) : Bool :=
  let q := imTd im (atQ b)
  let k := imTd im (atK b)
  let v := imTd im (atV b)
  [q, k, v].all (fun t => matrixFormat (tdFormat t) && tdDim t 3 == 1 && tdDim t 4 == 1) &&
    tdDim k 0 == tdDim q 0 && tdDim v 1 == tdDim q 0 && tdDim v 0 == tdDim k 1 && tdDim v 2 == tdDim k 2 &&
    tdDim q 2 % tdDim k 2 == 0 && tdRotation q == tdRotation k && tdRotation v == 0 && maskFieldsOk b

/-- R242: the key tiles of FORWARD, PARTIAL and BACKWARD. -/
def attTilesOk (im : Image) (b : BitVec 1024) : Bool :=
  let k := imTd im (atK b)
  decide (1 ≤ atKtCount b) && decide (atKtFirst b + atKtCount b ≤ (tdDim k 1 + 255) / 256) && decide (1 ≤ atSplit b) &&
    decide (atSplit b ≤ 64) && decide (atSplit b ≤ atKtCount b)

/-- R237, R238: the segment records of `n` segments from `first`. -/
def attArea (im : Image) (b : BitVec 1024) (first n : Nat) : Nat × Nat :=
  let q := imTd im (atQ b)
  let seg := tdDim q 2 * 128 * ((tdDim q 1 + 127) / 128) * (16 + 4 * tdDim q 0)
  (atState b + first * seg, n * seg)

/-- R242: the dimensions of TD_O and TD_LSE. -/
def attOutOk (im : Image) (b : BitVec 1024) (lse : Bool) : Bool :=
  let q := imTd im (atQ b)
  let l := imTd im (atLse b)
  tdDims (imTd im (atO b)) == tdDims q &&
    (!lse || (tdFormat l == 0x30 && decide (tdDim q 1 ≤ tdDim l 0) && decide (tdDim q 2 ≤ tdDim l 1)))

/-- R150, R239, R242: the tensors and the bytes 64 to 99 of BACKWARD. -/
def attBackOk (im : Image) (b : BitVec 1024) : Bool :=
  let dims := fun i => tdDims (imTd im i)
  dims (atDO b) == dims (atQ b) && dims (atDQ b) == dims (atQ b) && dims (atDK b) == dims (atK b) &&
    dims (atDV b) == dims (atV b) && matrixFormat (tdFormat (imTd im (atDO b))) &&
    [atDQ b, atDK b, atDV b].all (fun i => let t := imTd im i
      validFormat (tdFormat t) && tdRotSize t != 3 && segmentsOk t (tdDim t 0)) &&
    [80, 84, 88, 92].all (fun k => bTdReserved b k == 0) && recZero b 64 79 && recZero b 96 99

/-- R228, R242: the positions of the rows of Q, in both runs, and of the keys of K lie below 4,194,304. -/
def attPositionsOk (im : Image) (b : BitVec 1024) : Bool :=
  let n := tdDim (imTd im (atQ b)) 1
  decide (atQPos0 b + atQSplit b ≤ 4194304) && (atQSplit b == n || decide (atQPos1 b + (n - atQSplit b) ≤ 4194304)) &&
    (bOp b == 4 || decide (atKPos0 b + tdDim (imTd im (atK b)) 1 ≤ 4194304))

/-- R242: every condition. -/
def attentionOk (s : State) (im : Image) (b : BitVec 1024) : Bool :=
  let q := imTd im (atQ b)
  let o := imTd im (atO b)
  let out := !opTranspose b && opAlpha b == one32 && opSluiceOut b == 0xFFFF &&
    outFieldsOk im b (atO b) (tdDim q 1) (tdDim q 0) (tdDim q 2) && tdRotSize o != 3 && segmentsOk o (tdDim o 0)
  let area := fun first n => atState b % 512 == 0 && s.namable im (attArea im b first n).1 (attArea im b first n).2
  attReservedOk b && attUnusedOk b && attPositionsOk im b && [64, 128, 256].contains (tdDim q 0) && decide (atQSplit b ≤ tdDim q 1) &&
    im.seqSlots.any (fun x => x.1.val == atSlot b) &&
    (match bOp b with
    | 0 => attOperandsOk im b && attTilesOk im b && attOutOk im b true && out
    | 1 => attOperandsOk im b && attTilesOk im b && area (atSegBase b) (atSplit b) && recZero b 64 99
    | 2 => attOperandsOk im b && decide (1 ≤ atNseg b) && area 0 (atNseg b) && attOutOk im b true && out
    | 3 => attOperandsOk im b && attTilesOk im b && attOutOk im b true && attBackOk im b
    | _ => tdDim q 3 == 1 && tdDim q 4 == 1 && matrixFormat (tdFormat q) && attOutOk im b false && out &&
        im.ropeTables.any (fun t => t.1.toNat == atRopeTable b && t.2.length == tdDim q 0 / 2))

/-! ## TRANSFER and STASH (R251, R254, R308) -/

/-- R307: the rows of a region: base, pitch, bytes, rows. -/
def rowRanges (a pitch n rows : Nat) : Ranges := (List.range rows).map (fun r => (a + r * pitch, n))

/-- R308: row `lo` of `n` bytes meets some row of the region. -/
def rowMeets (a pitch n rows lo : Nat) : Bool :=
  let r := if lo < a + n then 0 else if pitch = 0 then rows else (lo - a - n) / pitch + 1
  decide (r < rows) && decide (a + r * pitch < lo + n)

/-- R308. -/
def transferOk (s : State) (im : Image) (b : BitVec 1024) : Bool :=
  let n := trBytes b
  let rows := trRows b
  let src := rowRanges (trSrc b) (trSrcPitch b) n rows
  let dst := rowRanges (trDst b) (trDstPitch b) n rows
  decide (1 ≤ n) && decide (n ≤ 2 ^ 40) && s.namableAll im dst &&
    (if bOp b = 1 then decide (1 ≤ rows) && decide (rows < 2 ^ 31) && decide (n ≤ trSrcPitch b) && decide (n ≤ trDstPitch b)
      else rows == 1 && trSrcPitch b == 0 && trDstPitch b == 0) &&
    (if bOp b = 2 then recBits b 20 0 16 == 0 && trDst b % 4 == 0 && n % 4 == 0
      else s.namableAll im src && !src.any (fun r => rowMeets (trDst b) (trDstPitch b) n rows r.1)) &&
    bAddrReserved b 16 == 0 && bAddrReserved b 24 == 0 && recBits b 32 41 23 == 0 && recZero b 44 47 &&
    recBits b 48 41 23 == 0 && recBits b 56 41 23 == 0 && recZero b 64 127

/-- R251, R254. -/
def stashOk (s : State) (im : Image) (b : BitVec 1024) : Bool :=
  let n := saBytes b
  let len := fun (area : Bool) => if area then saArea b else n
  saSrc b % 512 == 0 && saDst b % 512 == 0 && n % 4096 == 0 && decide (4096 ≤ n) && decide (n ≤ 2 ^ 40) &&
    decide (64 + 4112 * (n / 4096) ≤ saArea b) &&
    s.namable im (saSrc b) (len (bOp b == 1)) && s.namable im (saDst b) (len (bOp b == 0)) &&
    bAddrReserved b 16 == 0 && bAddrReserved b 24 == 0 && recBits b 32 41 23 == 0 && recBits b 40 41 23 == 0 && recZero b 48 127

/-! ## COLLECTIVE and VOTE (R258, R344) -/

/-- R344: the formats of TD_IN; R257: those of TD_G. -/
def readFormat (f : Nat) : Bool := [0x01, 0x12, 0x20, 0x30].contains f

/-- R344: the fields an OP does not use are 0. -/
def coUnusedOk (b : BitVec 1024) : Bool :=
  (decide (bOp b ≤ 1) || (!coMax b && coIn b == 0 && coOut b == 0)) &&
    ((decide (2 ≤ bOp b) && decide (bOp b ≤ 5)) || (coSrc b == 0 && coDst b == 0 && coBytes b == 0)) &&
    (bOp b == 3 || bOp b == 4 || coArg b == 0) && (decide (6 ≤ bOp b) || (coFirst b == 0 && coCount b == 0))

/-- R344: reserved bits of Table 12-8. -/
def coReservedOk (b : BitVec 1024) : Bool :=
  recBits b 16 10 6 == 0 && recBits b 18 1 7 == 0 && recZero b 19 19 && bTdReserved b 20 == 0 && bTdReserved b 24 == 0 &&
    bAddrReserved b 28 == 0 && bAddrReserved b 36 == 0 && recBits b 44 40 24 == 0 && recBits b 52 13 3 == 0 &&
    recZero b 54 55 && recZero b 64 127

/-- R344. -/
def collectiveOk (s : State) (im : Image) (b : BitVec 1024) : Bool :=
  match groupCount im (coGroup b) with
  | none => false
  | some r =>
    let i := imTd im (coIn b)
    let o := imTd im (coOut b)
    let n := coBytes b
    coReservedOk b && coUnusedOk b && decide (coArg b < r) &&
      (if bOp b ≤ 1 then
        readFormat (tdFormat i) && (tdFormat o == 0x20 || tdFormat o == 0x30) && tdRotation o == tdRotation i &&
          (if bOp b = 0 then linCount i % r == 0 && linCount o == linCount i / r else linCount o == linCount i)
      else if bOp b ≤ 5 then
        let src := (coSrc b, if bOp b = 5 then n * r else n)
        let dst := (coDst b, if bOp b = 2 ∨ bOp b = 5 then n * r else n)
        decide (16 ≤ n) && n % 16 == 0 && s.namableAll im [src, dst] && !meets src dst
      else
        let (first, count) := if bOp b = 6 then (im.coarseFirst, im.coarseCount) else (im.cstatFirst, im.cstatCount)
        decide (1 ≤ coCount b) && decide (first ≤ coFirst b) && decide (coFirst b + coCount b ≤ first + count))

/-- R258: every VOTE barge of the image names the same declared group. -/
def voteOk (s : State) (im : Image) (b : BitVec 1024) : Bool :=
  let named := fun a n k => a == 0 || (a % k == 0 && s.namable im a n)
  (groupCount im (voGroup b)).isSome &&
    (imManifests im).all (fun m => m.barges.all (fun x => bClass x != 8 || voGroup x == voGroup b)) &&
    (bOp b == 0 || (voLoss b == 0 && voGnorm b == 0)) && named (voLoss b) 8 8 && named (voGnorm b) 4 4 &&
    named (voVerdict b) (if bOp b = 0 then 256 else 32) 256 && recZero b 18 19 && bAddrReserved b 20 == 0 &&
    bAddrReserved b 28 == 0 && bAddrReserved b 36 == 0 && recZero b 44 127

/-! ## UPDATE (R257, R266, R267) -/

/-- R267, R269: the regions of an UPDATE in the arena, as offsets: remainders and moment pages. -/
def updateRegions (im : Image) (b : BitVec 1024) : Ranges :=
  let count := linCount (imTd im (upW b))
  let pages := (count + 8191) / 8192 * 8704
  [(upROff b, count), (upMOff b, pages)] ++ (if upSOff b = 0 then [] else [(upSOff b, pages)])

/-- R266, R267, for one barge alone. -/
def updateOk (s : State) (im : Image) (b : BitVec 1024) : Bool :=
  let w := imTd im (upW b)
  let g := imTd im (upG b)
  let size := match im.arena with | some (_, _, n) => n | none => 0
  isArenaTensor im (upW b) && tdFormat w == 0x20 &&
    (if bOp b = 2 then upG b == 0 && upHp b == 0
      else readFormat (tdFormat g) && linCount g == linCount w && tdRotation g == tdRotation w &&
        upHp b % 64 == 0 && s.namable im (upHp b) 64) &&
    (bOp b != 0 || upSOff b != 0) && (bOp b != 1 || upSOff b == 0) && upMOff b % 512 == 0 && upSOff b % 512 == 0 &&
    (updateRegions im b).all (fun r => decide (r.1 + r.2 ≤ size)) &&
    bTdReserved b 16 == 0 && bTdReserved b 20 == 0 && bAddrReserved b 24 == 0 && bAddrReserved b 32 == 0 &&
    bAddrReserved b 40 == 0 && bAddrReserved b 56 == 0 && recBits b 66 2 6 == 0 && recZero b 67 127

/-! ## TEST (R363 to R367) -/

/-- R363 to R367; `step` says that the barge lies in a normal or bootstrap plan. -/
def testOk (s : State) (im : Image) (step : Bool) (b : BitVec 1024) : Bool :=
  let area := fun n => teRes b % 512 == 0 && s.namable im (teRes b) n
  let noEngine := teEngine b == 0
  let noSlices := teFirst b == 0 && teLast b == 0
  let noScrub := teAddr b == 0 && teBytes b == 0
  recBits b 16 11 5 == 0 && recBits b 18 4 4 == 0 && recBits b 19 4 4 == 0 && bAddrReserved b 20 == 0 &&
    bAddrReserved b 28 == 0 && recBits b 36 41 23 == 0 && recZero b 44 127 && decide (teEngine b ≤ 1359) &&
    (match bOp b with
    | 0 => decide (teFirst b ≤ teLast b) && area (16 * 17) && noScrub
    | 1 => !step && noSlices && noScrub && area 163968
    | _ => noEngine && noSlices && area 12 && teAddr b % 512 == 0 && teBytes b % 512 == 0 && decide (512 ≤ teBytes b) &&
        s.namable im (teAddr b) (teBytes b))

/-- Table 18-9, code 0x0B: the load checks of a barge's class. -/
def bargeOk (s : State) (im : Image) (step : Bool) (b : BitVec 1024) : Bool :=
  match bClass b with
  | 1 => matrixOk s im b
  | 2 => attentionOk s im b
  | 3 => vectorOk s im b
  | 4 => transferOk s im b
  | 5 => collectiveOk s im b
  | 6 => stashOk s im b
  | 7 => updateOk s im b
  | 8 => voteOk s im b
  | 0xA => testOk s im step b
  | _ => true

end Sys2Proof.Machine
end

