-- ==== Sys2Proof/Machine/PlanChecks.lean ====
section
/-! DEFINITION. The load checks of a whole plan and of an image's tables: tensor descriptors (R85, R88, R91, R147, R150),
step structure (R247, R256), joins (R238), sluices (R171 to R173, R176, R180), widening (R185), scales (R72 to R74, R79),
evaluation plans (R279), streams (R249), arenas and areas (R264, R407), kernels (R200, R201). -/

namespace Sys2Proof.Machine

/-- What a check answers: the DETAIL of the first failure, or none. -/
abbrev Finding := Option Nat

/-- The DETAIL `d` when `ok` does not hold. -/
def need (ok : Bool) (d : Nat) : Finding := if ok then none else some d

/-- The first finding of a list of checks. -/
def firstOf (l : List Finding) : Finding := l.findSome? id

/-! ## Tensor descriptors -/

/-- R88: BASE, SCALE_BASE and the dimensions. -/
def tdPlacedOk (s : State) (im : Image) (d : BitVec 512) : Bool :=
  tdBase d % 512 == 0 && tdScaleBase d % 512 == 0 && (scaleBytes (tdFormat d) == 0) == (tdScaleBase d == 0) &&
    (tdDims d).all (fun n => decide (1 ≤ n) && decide (n < 2 ^ 31)) && s.namableAll im (tdPlanes d)

/-- R91: an MX descriptor. -/
def tdMxOk (d : BitVec 512) : Bool :=
  !tdFixedCoarse d && !tdAgree d && !tdWidenable d && tdNoHistory d && tdSluice d == 0xFFFF

/-- R88 for one descriptor, with R85 when a barge writes it. -/
def tensorOk (s : State) (im : Image) (i : Nat) (d : BitVec 512) : Bool :=
  let f := tdFormat d
  validFormat f && tdReserved d == 0 && tdPlacedOk s im d &&
    (if f = 1 then decide (tdCodebook d < 2) || im.codebooks.any (fun c => c.id == tdCodebook d) else tdCodebook d == 0) &&
    (isMxFormat f || (decide (im.coarseFirst ≤ tdCoarseIndex d) && decide (tdCoarseIndex d < im.coarseFirst + im.coarseCount))) &&
    (!isMxFormat f || tdMxOk d) &&
    (!(imManifests im).any (fun m => m.barges.any (fun b => (allWritten b).contains i)) ||
      (List.range 3).all (fun k => decide (tdDim d (k + 2) ≤ 1) || tdStride d k != 0)) &&
    (tdRotSize d != 0 || tdRotKey d == 0) && tdDim d 0 % rotLen (tdRotSize d) == 0 &&
    BitVec.ofNat 32 (tdCheck d) == crc32c (leBytes 60 d.toNat)

/-- Table 18-9, code 0x08. -/
def checkTensors (s : State) (im : Image) : Finding :=
  ((List.range im.tensors.length).zip im.tensors).findSome? (fun (i, d) => need (tensorOk s im i d) i)

/-! ## Order within a step -/

/-- A barge of a plan: the position of its manifest, its own, and its descriptor. -/
structure Node where
  m : Nat
  i : Nat
  pos : Nat
  b : BitVec 1024
  deriving DecidableEq, Repr

/-- The barges of a plan in order. -/
def planNodes (plan : List Manifest) : List Node :=
  ((List.range plan.length).zip plan).flatMap (fun (k, m) =>
    ((List.range m.barges.length).zip m.barges).map (fun (i, b) => ⟨k, i, mhPlanPos m.header, b⟩))

/-- R247: `x` is ordered before `y`. -/
def Node.before (x y : Node) : Bool :=
  decide (x.m < y.m) || (x.m == y.m && (bAfterA y.b == some x.i || bAfterB y.b == some x.i || (bFence y.b && decide (x.i < y.i))))

/-- `x` stands before `y` in the plan. -/
def Node.earlier (x y : Node) : Bool := decide (x.m < y.m) || (x.m == y.m && decide (x.i < y.i))

def Node.is (x : Node) (cls op : Nat) : Bool := bClass x.b == cls && bOp x.b == op

/-- Whether a barge's output path may have a sluice (R158). -/
def writesLane (b : BitVec 1024) : Bool := bClass b == 1 || (bClass b == 3 && [0, 1, 5, 6].contains (bOp b))

/-- R175: the lane of a sluice table. -/
def laneArea (t : BitVec 512) : Nat × Nat := (stLaneBase t, 128 * stLaneRows t * stWindows t)

/-- The ranges of memory a barge writes: its tensors, its sluice lane, and what it writes outside tensors. -/
def writesOf (im : Image) (b : BitVec 1024) : Ranges :=
  let n := fun g => (groupCount im g).getD 1
  let q := imTd im (vbIn b 0)
  let rows := tdDim q 1 * tdDim q 2
  let more :=
    if bClass b = 4 then rowRanges (trDst b) (trDstPitch b) (trBytes b) (trRows b)
    else if bClass b = 6 then [(saDst b, if bOp b = 0 then saArea b else saBytes b)]
    else if bClass b = 5 ∧ 2 ≤ bOp b ∧ bOp b ≤ 5 then [(coDst b, if bOp b = 2 ∨ bOp b = 5 then coBytes b * n (coGroup b) else coBytes b)]
    else if bClass b = 8 then [(voVerdict b, if voVerdict b = 0 then 0 else if bOp b = 0 then 256 else 32)]
    else if bClass b = 2 ∧ bOp b = 1 then [attArea im b (atSegBase b) (atSplit b)]
    else if bClass b = 3 ∧ (bOp b = 1 ∨ bOp b = 2) then
      [(vbRes b, if vbRes b = 0 then 0 else if bOp b = 1 then 16 * rows else (if vbTopK b = 0 then 8 else 8 * vbTopK b) * rows)]
    else if bClass b = 3 ∧ bOp b = 3 then
      [(cxList b, 4 * cxBuckets b * cxCap b), (cxCount b, 4 * cxBuckets b), (cxPos b, if cxPos b = 0 then 0 else 4 * cxL b)]
    else if bClass b = 3 ∧ bOp b = 4 then [(cxPos b, 4 * cxL b)]
    else if bClass b = 0xA then [(teRes b, if bOp b = 0 then 16 * 17 else if bOp b = 1 then 163968 else 12)]
    else []
  let lane := if writesLane b then (imSluice im (opSluiceOut b)).toList.map laneArea else []
  (allWritten b).flatMap (fun i => tdPlanes (imTd im i)) ++ more ++ lane

/-- R264: both areas of the parameter arena pair. -/
def arenaAreas (im : Image) : Ranges := match im.arena with | some (a, b, n) => [(a, n), (b, n)] | none => []

/-- R186: where a barge may write tensors that are widened: in the fall-back arena. -/
def widenedOf (im : Image) (b : BitVec 1024) : Ranges :=
  if (allWritten b).any (fun i => tdWidenable (imTd im i) || (bootWritten im).contains i) then [(im.widenBase, im.widenSize)] else []

/-- R264: the planes of the arena tensors, in both arenas of the pair. -/
def arenaPlanes (im : Image) : Ranges :=
  let ps := ((List.range im.tensors.length).filter (isArenaTensor im)).flatMap (fun i => tdPlanes (imTd im i))
  match im.arena with
  | some (a, b, _) => ps ++ ps.map (fun r => (r.1 - a + b, r.2))
  | none => []

/-! ## Step structure (R247, R256) -/

/-- R247: the flags of a plan's manifests. -/
def flagsOk (plan : List Manifest) : Bool :=
  let n := plan.length
  ((List.range n).zip plan).all (fun (k, m) => mhFirst m.header == (k == 0) && mhLast m.header == (k + 1 == n))

/-- R247: the conditions on each barge, given the step vote and the commit vote. -/
def stepBargeOk (im : Image) (sv cv x : Node) : Bool :=
  (bClass x.b != 7 || (sv.before x && x.before cv)) && (!cv.before x || bClass x.b == 9 || bClass x.b == 0xA) &&
    (bClass x.b == 7 || !anyMeet (writesOf im x.b ++ widenedOf im x.b) (arenaAreas im))

/-- R256: a LOAD reads an area that a SAVE ordered before it writes with equal BYTES. -/
def stashOrdered (ns : List Node) (x : Node) : Bool :=
  !x.is 6 1 || ns.any (fun y => y.is 6 0 && saDst y.b == saSrc x.b && saBytes y.b == saBytes x.b && y.before x)

/-- R267: the regions of the UPDATE barges and the arena tensors do not overlap, and each GROUP_ID is used once. -/
def updateAlone (im : Image) (ns : List Node) (x : Node) : Bool :=
  let base := match im.arena with | some (a, _, _) => a | none => 0
  let mine := updateRegions im x.b
  let tensors := (List.range im.tensors.length).filter (isArenaTensor im) |>.flatMap (fun i => tdPlanes (imTd im i))
  bClass x.b != 7 || (!anyMeet (mine.map (fun r => (base + r.1, r.2))) tensors &&
    ((List.range mine.length).zip mine).all (fun (i, r) => !anyMeet [r] (mine.drop (i + 1))) &&
    ns.all (fun y => bClass y.b != 7 || y == x || (!anyMeet mine (updateRegions im y.b) && upGroup y.b != upGroup x.b)))

/-- R238: the PARTIAL barges that write within segment `g` of a JOIN's state area, whatever their own Q is. -/
def partialsOf (im : Image) (ns : List Node) (j : Node) (g : Nat) : List Node :=
  ns.filter (fun x => x.is 2 1 && meets (attArea im x.b (atSegBase x.b) (atSplit x.b)) (attArea im j.b g 1))

/-- R231: the key positions of segment `g` of a PARTIAL barge: from the first to past the last. -/
def segmentKeys (im : Image) (x : Node) (g : Nat) : Nat × Nat :=
  let j := g - atSegBase x.b
  let tile := fun i => atKtFirst x.b + i * atKtCount x.b / atSplit x.b
  (atKPos0 x.b + 256 * tile j, atKPos0 x.b + min (256 * tile (j + 1)) (tdDim (imTd im (atK x.b)) 1))

/-- R238. -/
def joinOk (im : Image) (ns : List Node) (j : Node) : Bool :=
  let ps := (List.range (atNseg j.b)).map (partialsOf im ns j)
  let like := fun (x : Node) => x.before j && atState x.b == atState j.b && atQ x.b == atQ j.b && atSlot x.b == atSlot j.b && atMask x.b == atMask j.b &&
    atMaskParam x.b == atMaskParam j.b && tdDim (imTd im (atK x.b)) 2 == tdDim (imTd im (atK j.b)) 2
  let keys := ((List.range (atNseg j.b)).zip ps).map (fun (g, l) => (l.head?.map (fun x => segmentKeys im x g)).getD (0, 0))
  !j.is 2 2 || (ps.all (fun l => l.length == 1 && l.all like) &&
    (keys.zip (keys.drop 1)).all (fun (a, b) => decide (a.2 ≤ b.1)))

/-- R176: a barge whose B names a table comes after one that writes the table's lane. -/
def laneOrdered (im : Image) (ns : List Node) (x : Node) : Bool :=
  let t := tdSluice (imTd im (mxB x.b))
  bClass x.b != 1 || t == 0xFFFF || (imSluice im t).isNone ||
    ns.any (fun y => writesLane y.b && opSluiceOut y.b == t && y.before x)

/-- R247: a normal or bootstrap plan holds exactly one step. -/
def checkStep (im : Image) (plan : List Manifest) : Finding :=
  let ns := planNodes plan
  let first := match plan with | m :: _ => mhPlanPos m.header | [] => 0
  if plan.isEmpty then none
  else if !flagsOk plan then some first
  else match ns.filter (·.is 8 0), ns.filter (·.is 8 1) with
    | [sv], [cv] =>
      firstOf [need (cv.m + 1 == plan.length && sv.before cv) cv.pos,
        ns.findSome? (fun x => need (stepBargeOk im sv cv x && stashOrdered ns x && joinOk im ns x && laneOrdered im ns x) x.pos),
        need ((List.range im.tensors.length).all (fun i => !isArenaTensor im i ||
          (ns.filter (fun x => bClass x.b == 7 && upW x.b == i)).length == 1)) first]
    | _, _ => some first

/-- Table 18-9, code 0x0C. -/
def checkSteps (im : Image) : Finding := firstOf [checkStep im im.plan, checkStep im im.bootPlan]

/-- Table 18-9, code 0x0B: every barge, with what R267 asks of the UPDATE barges of a step together. -/
def checkBarges (s : State) (im : Image) : Finding :=
  let one := fun (step : Bool) (plan : List Manifest) =>
    let ns := planNodes plan
    ns.findSome? (fun x => need (bargeOk s im step x.b && (!step || updateAlone im ns x)) (x.pos * 4096 + bIndex x.b))
  firstOf ([one true im.plan, one true im.bootPlan] ++ im.evals.map (one false))

/-! ## Sluice tables (R171 to R173, R176, R180) -/

/-- Table 07-2: the ranges of a descriptor's fields, its reserved fields and its CHECK. -/
def sluiceFieldsOk (s : State) (im : Image) (d : BitVec 512) : Bool :=
  decide (1 ≤ stK d) && decide (stK d < 2 ^ 31) && decide (stBudget d ≤ 64) && decide (2 ≤ stLeadMult d) &&
    decide (stLeadMult d ≤ 16) && decide (1 ≤ stKeepMult d) && decide (stKeepMult d ≤ stLeadMult d) && decide (stOvfThr d ≤ 64) &&
    stLaneBase d % 512 == 0 && decide (1 ≤ stLaneRows d) && decide (stLaneRows d < 2 ^ 31) &&
    s.namable im (stLaneBase d) (128 * stLaneRows d * stWindows d) && decide (im.cstatFirst ≤ stFirst d) &&
    decide (stFirst d + stK d ≤ im.cstatFirst + im.cstatCount) && stReserved d == 0 &&
    BitVec.ofNat 32 (recBits d 60 0 32) == crc32c (leBytes 60 d.toNat)

/-- Table 07-3: 128 bytes are a window list of at most `n` channels: valid entries first, offsets rising, others 0. -/
def listOk (bs : List Byte) (n : Nat) : Bool :=
  let es := (List.range 64).map (fun i => genNum bs (2 * i) 2)
  let on := es.takeWhile (fun e => decide (0x8000 ≤ e))
  decide (on.length ≤ n) && on.all (fun e => decide (e < 0x9000)) && (on.zip (on.drop 1)).all (fun (a, b) => decide (a < b)) &&
    (es.drop on.length).all (· == 0)

/-- R173: the INIT lists. -/
def initOk (im : Image) (d : BitVec 512) : Bool :=
  stInit d == 0xFFFFFFFF || (decide (stInit d + 128 * stWindows d ≤ im.raw.length) &&
    (List.range (stWindows d)).all (fun w => listOk ((im.raw.drop (stInit d + 128 * w)).take 128) (stBudget d)))

/-- R171: the agreement collective of a table's range in one plan. -/
def agreedOk (im : Image) (d : BitVec 512) (plan : List Manifest) : Bool :=
  let ns := planNodes plan
  let feeds := ns.filter (fun x => feedsStats x.b &&
    meets (opStatsBase x.b, tdDim (imTd im (outTensor x.b)) 0) (stFirst d, stK d))
  let covers := fun (x : Node) => x.is 5 7 && coGroup x.b == stGroup d && decide (coFirst x.b ≤ stFirst d) &&
    decide (stFirst d + stK d ≤ coFirst x.b + coCount x.b)
  stGroup d == 0xFFFF || feeds.isEmpty || ns.any (fun g => covers g && feeds.all (fun x => x.earlier g) &&
    ns.all (fun v => !v.is 8 0 || g.earlier v))

/-- R176: what writes a table's lane has the table's shape, and the lane overlaps no tensor and no other lane. -/
def laneOk (im : Image) (id : Nat) (d : BitVec 512) : Bool :=
  (imManifests im).all (fun m => m.barges.all (fun b =>
    let c := imTd im (outTensor b)
    !(writesLane b && opSluiceOut b == id) ||
      (tdDim c 0 == stK d && decide (tdDim c 1 * tdDim c 2 ≤ stLaneRows d)))) &&
    !anyMeet [laneArea d] (im.tensors.flatMap tdPlanes) && im.sluices.all (fun t => t.1 == id || !meets (laneArea d) (laneArea t.2))

/-- R180: the normal plan spans the time of a rebuild. -/
def rebuildFits (s : State) (im : Image) : Bool :=
  let windows := (im.sluices.map (fun t => stWindows t.2)).sum
  im.sluices.isEmpty || im.plan.isEmpty || decide (2200 + 64 * windows ≤ clkOf (im.plan.length * s.period))

/-- Table 18-9, code 0x0D. -/
def checkSluices (s : State) (others : List Image) (im : Image) : Finding :=
  let ids := im.sluices.map (·.1)
  firstOf [im.sluices.findSome? (fun t =>
      need (decide (t.1 < 4096) && ids.count t.1 == 1 && !others.any (fun o => (o.sluices.map (·.1)).contains t.1) &&
        sluiceFieldsOk s im t.2 && initOk im t.2 && agreedOk im t.2 im.plan && agreedOk im t.2 im.bootPlan && laneOk im t.1 t.2) t.1),
    im.tensors.findSome? (fun d => need (isMxFormat (tdFormat d) || tdSluice d == 0xFFFF || decide (tdSluice d < 4096)) (tdSluice d)),
    need (rebuildFits s im) (ids.headD 0)]

/-! ## Widening and scales -/

/-- R185: in a plan, a widenable tensor is written before any barge reads it. -/
def writtenFirst (ns : List Node) (i : Nat) : Bool :=
  ns.all (fun r => !(allRead r.b).contains i || ns.any (fun w => (allWritten w.b).contains i && w.earlier r))

/-- R185: the used slots, each with its lowest tensor, in ascending tensor index. -/
def slotFirsts (im : Image) : List (Nat × Nat) :=
  (List.range 1024).filterMap (fun q => (slotTensors im q).head?.map (fun i => (q, i)))

/-- Table 18-9, code 0x0E. -/
def checkWidening (s : State) (im : Image) : Finding :=
  let area := (im.widenBase, im.widenSize)
  let fs := slotFirsts im
  let plans := [planNodes im.plan, planNodes im.bootPlan]
  firstOf [((List.range im.tensors.length).zip im.tensors).findSome? (fun (i, d) =>
      need (!tdWidenable d || (isDFormat (tdFormat d) && plans.all (fun ns => writtenFirst ns i))) (tdWidenSlot d)),
    (fs.zip (fs.drop 1)).findSome? (fun (a, b) => need (decide (a.2 < b.2)) b.1),
    need (im.widenSize == 0 || (im.widenSize % 512 == 0 && s.inHbm im.widenBase im.widenSize &&
      !anyMeet [area] (im.tensors.flatMap tdPlanes))) 0]

/-- R72: in a plan that writes AGREE tensor `i`, an amax agreement of its index comes before the commit vote, and no
barge writes the tensor after it. -/
def agreeOk (ns : List Node) (i idx : Nat) : Bool :=
  let ws := ns.filter (fun x => (allWritten x.b).contains i)
  ws.isEmpty || ns.any (fun g => g.is 5 6 && decide (coFirst g.b ≤ idx) && decide (idx < coFirst g.b + coCount g.b) &&
    ws.all (fun w => w.earlier g) && ns.all (fun v => !v.is 8 1 || g.earlier v))

/-- R74: the value given for a fixed coarse scale is positive and finite. -/
def fixedOk (im : Image) (idx : Nat) : Bool :=
  let ws := im.fixedCoarse.filter (fun e => e.1 == idx)
  !ws.isEmpty && ws.all (fun e => isFinite32 e.2 && !(e.2.getLsbD 31) && e.2 != 0)

/-- Table 18-9, code 0x0F. -/
def checkScales (im : Image) : Finding :=
  let plans := [planNodes im.plan, planNodes im.bootPlan]
  let ts := (List.range im.tensors.length).zip im.tensors
  firstOf [ts.findSome? (fun (i, d) => need (!tdAgree d || plans.all (fun ns => agreeOk ns i (tdCoarseIndex d))) (tdCoarseIndex d)),
    need (decide (im.headroom ≤ 8)) 0,
    ts.findSome? (fun (_, d) => need (!tdFixedCoarse d || fixedOk im (tdCoarseIndex d)) (tdCoarseIndex d)),
    ts.findSome? (fun (_, d) => need (tdFixedCoarse d || !isBlockFormat (tdFormat d) || !im.bootPlan.isEmpty) (tdCoarseIndex d))]

/-! ## Evaluation plans, streams, areas, kernels, groups -/

/-- R279: one barge of an evaluation plan. -/
def evalBargeOk (im : Image) (b : BitVec 1024) : Bool :=
  !([6, 7, 8].contains (bClass b)) && !feedsStats b && !anyMeet (writesOf im b) (arenaPlanes im)

/-- Table 18-9, code 0x10. -/
def checkEvals (im : Image) : Finding :=
  ((List.range im.evals.length).zip im.evals).findSome? (fun (k, p) => need (p.all (fun m =>
    !mhFirst m.header && !mhLast m.header && m.barges.all (evalBargeOk im))) k)

/-- R249: the stream numbers that the RAND instructions of a kernel name. -/
def randStreams (im : Image) (k : KernelImage) : List Nat :=
  (KernelImage.code im k).filterMap (fun w => (decodeVector w).bind (fun i => if i.op = .rand then some i.imm else none))

/-- Table 18-9, code 0x11. -/
def checkStreams (im : Image) : Finding :=
  let ids := im.streams.map (·.2)
  firstOf [im.streams.findSome? (fun p => need (decide (0x20000 ≤ p.2) && decide (p.2 ≤ 0x0FFFFFFF) && ids.count p.2 == 1 &&
      (im.streams.map (·.1)).count p.1 == 1) p.1),
    im.kernels.findSome? (fun k => (randStreams im k).findSome? (fun n => need ((im.streams.lookup n).isSome) n))]

/-- R407: the snapshot area of an image. -/
def snapRange (im : Image) : Ranges := match im.snapBase with | some a => [(a, 4 * slotBytes im)] | none => []

/-- Table 18-9, code 0x12. -/
def checkSnapshots (s : State) (others : List Image) (im : Image) : Finding :=
  let r := snapRange im
  need (r.all (fun x => s.inHbm x.1 x.2) && !anyMeet r (im.tensors.flatMap tdPlanes) && !anyMeet r (arenaAreas im) &&
    !anyMeet r [(im.widenBase, im.widenSize)] && !others.any (fun o => anyMeet r (snapRange o))) 0

/-- Table 18-9, code 0x15: R264. -/
def checkArena (s : State) (im : Image) : Finding :=
  match im.arena with
  | none => none
  | some (a, b, n) =>
    let inside := fun (r : Nat × Nat) => decide (a ≤ r.1) && decide (r.1 + r.2 ≤ a + n)
    need (a % 512 == 0 && b % 512 == 0 && s.inHbm a n && s.inHbm b n && !meets (a, n) (b, n) &&
      im.tensors.all (fun d => (tdPlanes d).all (fun r => !meets r (b, n)) &&
        ((tdPlanes d).all (fun r => !meets r (a, n)) || (tdPlanes d).all inside))) 0

/-- Table 08-5: a kernel's CHECK. -/
def kernelCrc (im : Image) (k : KernelImage) : BitVec 32 :=
  crc32c ((KernelImage.code im k).flatMap (fun w => leBytes 8 w.toNat) ++
    (KernelImage.consts im k).flatMap (fun w => leBytes 4 w.toNat))

/-- R200, R201: one kernel, whose instructions and constants the image's areas hold in full. -/
def kernelValid (im : Image) (k : KernelImage) : Bool :=
  let ins := (KernelImage.code im k).map decodeVector
  decide (k.id < 1024) && decide (1 ≤ k.count) && decide (k.count ≤ 256) && decide (k.constCount ≤ 256) &&
    decide (k.start + k.count ≤ im.kernelArea.length) && decide (k.constStart + k.constCount ≤ im.constArea.length) &&
    ins.all (fun i => match i with
      | some i => !(i.a == .const || i.b == .const || i.c == .const) || decide (i.imm < k.constCount)
      | none => false) &&
    k.check == kernelCrc im k

/-- Table 18-9, code 0x16. -/
def checkKernels (im : Image) : Finding := im.kernels.findSome? (fun k => need (kernelValid im k) k.id)

/-- Table 18-9, code 0x17. -/
def checkGroups (im : Image) : Finding :=
  im.groups.findSome? (fun g => need (decide (g.1 ≤ 1023) && decide (1 ≤ g.2) && decide (g.2 ≤ 8192)) g.1)

end Sys2Proof.Machine
end

