-- ==== Sys2Proof/Machine/Bar2.lean ====
section
/-! DEFINITION. Host accesses to memory through BAR2 (R287, R295, R395, R458, R460): reads, writes, writes that meet running
barges, and accesses held while a channel retrains. -/

namespace Sys2Proof.Machine

/-- R458: the device address of BAR2 offset `x`. -/
def State.bar2 (s : State) (x : Nat) : Nat := (s.reg64 R.GLOBAL_BAR2_WIN).toNat + x

/-- R395, R458: a read of program memory, poisoned where a sector is (Table 11-4), or Completer Abort. -/
def State.bar2Read (s : State) (a n : Nat) : State :=
  if s.diesServe && s.inHbm a n then
    let (s, bad) := s.touch rdHost [(a, n)]
    s.emit (.bar2Reply (s.bytes a n) (!bad.isEmpty))
  else s.emit .completerAbort

/-- R460: the memory that a barge reads or writes. -/
def State.bargeRegions (s : State) (b : Barge) : Ranges :=
  let f := s.frame b
  let d := b.desc
  let src :=
    if b.cls = 4 ∧ b.op ≠ 2 then rowRanges (trSrc d) (trSrcPitch d) (trBytes d) (trRows d)
    else if b.cls = 6 then [(saSrc d, if b.op = 1 then saArea d else saBytes d)]
    else if b.cls = 5 ∧ 2 ≤ b.op ∧ b.op ≤ 5 then [(coSrc d, if b.op = 5 then coBytes d * s.groupSize (coGroup d) else coBytes d)]
    else if b.cls = 2 ∧ b.op = 2 then [attArea f.im d (atSegBase d) (atSplit d)]
    else if b.cls = 3 ∧ b.op = 4 then [(cxList d, 4 * cxBuckets d * cxCap d), (cxCount d, 4 * cxBuckets d)]
    else if b.cls = 7 then (upHp d, 64) :: arenaAreas f.im
    else if b.cls = 0xA ∧ b.op = 2 then [(teAddr d, teBytes d)]
    else []
  (allRead d ++ allWritten d).flatMap (fun i => viewRegions (s.view f i)) ++ writesOf f.im d ++ s.outRegions b ++ src

/-- R460: the bytes of a write that running barges read or write. -/
def State.contested (s : State) (a n : Nat) : Ranges :=
  let live := (s.lock.active ++ s.lock.inFlight).filter Barge.isRunning
  ((live.flatMap (fun b => s.bargeRegions b)).filter (fun r => Machine.meets (a, n) r)).map (fun r =>
    (max a r.1, min (a + n) (r.1 + r.2) - max a r.1))

/-- R287, R395, R458, R460: a write, discarded where the device does not serve it. -/
def State.bar2Write (s : State) (a : Nat) (bs : List Byte) : State :=
  if !s.diesServe then s
  else if s.inHbm a bs.length then (s.writeAt a bs).undefine (s.contested a bs.length)
  else s.count R.LK_BAR2_REFUSED 1

/-! ## Accesses held -/

/-- The bytes that an access names. -/
def HeldAccess.range : HeldAccess → Nat × Nat
  | .read a n => (a, n)
  | .write a bs => (a, bs.length)

/-- An access carried out. -/
def State.serve (s : State) : HeldAccess → State
  | .read a n => s.bar2Read a n
  | .write a bs => s.bar2Write a bs

/-- R295: whether an access needs the channel that retrains. -/
def State.holdsBack (s : State) (r : HeldAccess) : Bool :=
  match s.mem.retraining with
  | some (c, _) => (s.hbmSectors [r.range]).any (fun n => (s.placeOf n).channel == c)
  | none => false

/-- R295: an access of the host: held while its channel retrains. -/
def State.access (s : State) (r : HeldAccess) : State :=
  if s.diesServe && s.holdsBack r then { s with mem := { s.mem with held := s.mem.held ++ [r] } } else s.serve r

/-- R295: the held accesses are carried out in order. -/
def State.releaseHeld (s : State) : State :=
  let s' := { s with mem := { s.mem with held := [] } }
  s.mem.held.foldl (fun s r => s.serve r) s'

end Sys2Proof.Machine
end

