-- ==== Sys2Proof/Machine/Entries.lean ====
section
/-! DEFINITION. 64-bit registers by halves (R5), and the submission queues as the host driver works through them (R463 to
R467): fetching, entries that break their row, and the end of an entry. -/

namespace Sys2Proof.Machine

/-! ## Halves -/

/-- No value is latched or held. -/
def noHalf (_ : Nat) : BitVec 32 := 0

/-- R5: a read of the low half at `a` latches the high half. -/
def State.latch (s : State) (a : Nat) : State :=
  { s with latches := (s.latches.filter (fun e => e.1 != a)) ++ [(a, regReadValue (a + 4) (s.reg (a + 4)))] }

/-- R5: what a read of the high half at `a + 4` returns: the value latched, once, or the register's. -/
def State.highHalf (s : State) (a : Nat) : BitVec 32 :=
  (s.latches.lookup a).getD (regReadValue (a + 4) (s.reg (a + 4)))
def State.unlatch (s : State) (a : Nat) : State := { s with latches := s.latches.filter (fun e => e.1 != a) }

/-- R5: a write to the low half at `a` is held. -/
def State.holdLow (s : State) (a : Nat) (w : BitVec 32) : State :=
  { s with heldLows := (s.heldLows.filter (fun e => e.1 != a)) ++ [(a, w)] }

/-- R5: a write to the high half at `a + 4` commits a held low half with it, or changes the high half alone. -/
def State.commitHigh (s : State) (a : Nat) (w : BitVec 32) : State :=
  let t := { s with heldLows := s.heldLows.filter (fun e => e.1 != a) }
  match s.heldLows.lookup a with
  | some l => (t.hostWrite a l).hostWrite (a + 4) w
  | none => t.hostWrite (a + 4) w

/-! ## Submission queues -/

/-- Table 18-6: the entry names an operation, and its reserved bytes are 0. -/
def entryValid (e : BitVec 512) : Bool := decide (1 ≤ sqOp e) && decide (sqOp e ≤ 6) && sqReserved e == 0

/-- The entry being carried out ends: R463, R465. -/
def State.endEntry (s : State) (c status detail : Nat) : State :=
  match (s.ctx c).sq with
  | e :: es => ((s.updCtx c (fun x => { x with sq := es })).tick R.LK_PROGRESS).complete c (sqTag e) 1 status detail
  | [] => s

/-- R465: entries at the front that break their row end with STATUS 0x80; at most `n` of them. -/
def State.skipBad (s : State) (c : Nat) : Nat → State
  | 0 => s
  | n + 1 =>
    match (s.ctx c).sq with
    | e :: _ => if entryValid e then s else (s.endEntry c 0x80 0).skipBad c n
    | [] => s

/-- The next entry of the ring is taken up. -/
def State.finish (s : State) (c status detail : Nat) : State :=
  let s := s.endEntry c status detail
  s.skipBad c (s.ctx c).sq.length

/-- R466: entries are fetched, unless a reset is in progress. -/
def State.fetch (s : State) (c : Nat) : State :=
  let x := s.ctx c
  if s.flag F.LK_RESET_STATUS_BUSY || x.sqWaiting.isEmpty then s
  else
    let s := s.put (F.LK_SQ_HEAD_HEAD c) ((s.get (F.LK_SQ_HEAD_HEAD c) + x.sqWaiting.length) % max 1 (s.get (F.LK_SQ_SIZE_ENTRIES c)))
    let s := s.setCtx c { x with sq := x.sq ++ x.sqWaiting, sqWaiting := [] }
    s.skipBad c (s.ctx c).sq.length

/-- The entry at the front of context `c`'s queue, where it names operation `op`. -/
def State.entry (s : State) (c op : Nat) : Option (BitVec 512) :=
  match (s.ctx c).sq with
  | e :: _ => if sqOp e = op ∧ entryValid e then some e else none
  | [] => none

/-- The operation `op` at the front of context `c`'s queue is carried out; with another entry in front nothing changes. -/
def State.onEntry (s : State) (c op : Nat) (f : BitVec 512 → State → State) : State :=
  match s.entry c op with
  | some e => f e s
  | none => s

end Sys2Proof.Machine
end

