-- ==== Sys2Proof/Machine/SelfTest.lean ====
section
/-! DEFINITION. The self-test of engines (R359, R360) and the TEST barges (R363 to R366). -/

namespace Sys2Proof.Machine

/-! ## Slices -/

def testDefault (_ : Nat) : EngineTest := {}
def State.test (s : State) (e : Nat) : EngineTest := tblGet testDefault s.health.tests e
def State.setTest (s : State) (e : Nat) (x : EngineTest) : State :=
  { s with health := { s.health with tests := tblSet testDefault s.health.tests e x } }

/-- R382: HEALTH_ENG_STATUS and HEALTH_ENG_PASS of the engine selected. -/
def State.showTest (s : State) : State :=
  let x := s.test (s.get F.HEALTH_ENG_SEL_ENGINE)
  let s := ((s.put F.HEALTH_ENG_STATUS_FAILED x.failed.toNat).put F.HEALTH_ENG_STATUS_FAIL_SLICE x.failSlice).put
    F.HEALTH_ENG_STATUS_NEXT_SLICE x.nextSlice
  s.setReg64 R.HEALTH_ENG_PASS x.pass

def slicesDefault (_ : Nat) : Nat := 0
/-- Slices of the engine's visit in this interval. -/
def State.slicesRun (s : State) (e : Nat) : Nat := tblGet slicesDefault s.health.slicesRun e
def State.setSlices (s : State) (e n : Nat) : State :=
  { s with health := { s.health with slicesRun := tblSet slicesDefault s.health.slicesRun e n } }

/-- R359: slices of a visit. -/
def State.visitSlices (s : State) : Nat := min 16 (s.get F.LOCK_SLOTS_TEST_US)

/-- R360: engine `e` failed slice `k`. -/
def State.failEngine (s : State) (e k : Nat) (x : EngineTest) : State :=
  let s := s.setTest e { x with failed := true, failSlice := k, run := 0 }
  ((s.markOffline e).countField (F.HEALTH_BIST_DIE_FAILS (dieOf e))).event 0x0501#16 (source 1 e)
    [(16, e), (8, k), (32, x.pass.toNat)]

/-- R360: engine `e` passed slice `k`. -/
def State.passSlice (s : State) (e k : Nat) (x : EngineTest) : State :=
  if k = 15 ∧ 15 ≤ x.run then s.setTest e { x with pass := s.reg64 R.LOCK_INDEX, run := 0 }
  else s.setTest e { x with run := x.run + 1 }

/-- R359, R360: the slice that engine `e` runs ends with a signature. -/
def State.endSlice (s : State) (e : Nat) (sig : BitVec 64) : State :=
  let x := s.test e
  let k := x.nextSlice
  let n := s.slicesRun e
  let s := s.at_ (s.lock.tick + 1000 * (n + 2))
  let x := { x with nextSlice := (k + 1) % 16 }
  let s := if s.reg64 (R.HEALTH_BIST_SIG k) = sig then (s.setSlices e (n + 1)).passSlice e k x
    else (s.setSlices e 16).failEngine e k x
  s.showTest

/-- R359: an engine that is withheld, not offline, and not through with its visit ends a slice. -/
def execTestSliceEnd (e : EngineId) (sig : DWord) (s : State) : Result :=
  .next (if s.lock.fired && s.health.withheld.contains e.val && !s.isOffline e.val &&
      decide (s.slicesRun e.val < s.visitSlices) then s.endSlice e.val sig else s)

/-! ## TEST ENGINE -/

/-- A value for each of `n`, drawn one after another (log 3). -/
def State.draws (s : State) : Nat → List Nat × State
  | 0 => ([], s)
  | n + 1 =>
    let (v, s) := s.draw
    let (vs, s) := s.draws n
    (v.toNat :: vs, s)

/-- R364: the header of a TEST ENGINE result. -/
def testHeader (e res n : Nat) : List Byte := leBytes 2 e ++ [BitVec.ofNat 8 res, BitVec.ofNat 8 n] ++ List.replicate 12 0

/-- R364: the 16 bytes of one slice. -/
def sliceBytes (sig : BitVec 64) (ok : Bool) : List Byte :=
  leBytes 8 sig.toNat ++ [BitVec.ofNat 8 ok.toNat] ++ List.replicate 7 0

/-- R364: ENGINE, with the signatures observed; a slice whose signature the command does not give has a free one. -/
def State.testEngine (s : State) (b : Barge) (sigs : List (BitVec 64)) : State :=
  let d := b.desc
  let e := teEngine d
  let ks := (List.range (teLast d + 1 - teFirst d)).map (· + teFirst d)
  let offline := s.isOffline e
  let (free, s) := s.draws (if offline then ks.length - sigs.length else 0)
  let seen := if offline then (ks.zip (sigs ++ free.map (BitVec.ofNat 64))) else []
  let ok := fun (p : Nat × BitVec 64) => s.reg64 (R.HEALTH_BIST_SIG p.1) == p.2
  let mask := (seen.map (fun p => if ok p then 0 else 2 ^ p.1)).sum
  let s := s.writeAt (teRes d) (testHeader e (!offline).toNat seen.length ++ seen.flatMap (fun p => sliceBytes p.2 (ok p)))
  s.event 0x0502#16 (source 1 e) [(16, e), (16, mask), (8, b.ctx)]

/-- R364. -/
def execTestEngine (i : Nat) (sigs : List DWord) (s : State) : Result := s.begin i 0xA 0 (fun b s => s.testEngine b sigs)

/-! ## TEST DRAIN -/

/-- The code of a special state (R365). -/
def specialCode : Special → Nat
  | .none => 0
  | .pinf => 1
  | .ninf => 2
  | .nan => 3

/-- R365: one slot's record. -/
def slotRecord (e slot : Nat) (held : Bool) (task retired expected : Nat) (totals : List (Nat × Nat)) : List Byte :=
  leBytes 2 e ++ [BitVec.ofNat 8 slot, if held then 3 else 0] ++ leBytes 4 task ++ leBytes 4 retired ++ leBytes 4 expected ++
    List.replicate 48 0 ++ totals.flatMap (fun x => leBytes 4 x.1) ++ totals.map (fun x => BitVec.ofNat 8 x.2)

/-- R365: the record of a slot held by a task of no MATRIX barge. -/
def State.otherDrain (s : State) (e slot task elems : Nat) : List Byte × State :=
  let x := s.draws (2 + 2 * elems)
  let ac := (x.1.drop 2).splitAt elems
  (slotRecord e slot true task (x.1.getD 0 0) (x.1.getD 1 0) (ac.1.zip (ac.2.map (· % 4))), x.2)

/-- R365: the record of a slot that no task holds. -/
def State.emptyDrain (s : State) (e slot elems : Nat) : List Byte × State :=
  let x := s.draws (2 * elems)
  let ac := x.1.splitAt elems
  (slotRecord e slot false 0 0 0 (ac.1.zip (ac.2.map (· % 4))), x.2)

/-- R365: the record of a slot of engine `e` that a forced drain has read: a MATRIX tile as of its last completed promotion.
What else a slot holds the spec does not give (log 30); a VECTOR task holds none (R193). -/
def State.slotDrain (s : State) (e slot : Nat) : List Byte × State :=
  match s.arrayBarge, s.array.slots.lookup (slotKey e slot) with
  | some b, some x =>
    if b.cls = 1 then
      let totals := if x.totals.isEmpty then noTotals else x.totals
      (slotRecord e slot true x.task x.retired x.expected (totals.map (fun (y : Total) => (y.hi.toNat, specialCode y.st))), s)
    else if b.cls = 2 then s.otherDrain e slot x.task 16384
    else s.emptyDrain e slot 16384
  | _, _ => s.emptyDrain e slot 16384

/-- R365: the array barge in flight, if any, ends after what `f` reads of its tile slots. -/
def State.drainArray (s : State) (f : State → List Byte × State) : List Byte × State :=
  match s.arrayBarge with
  | none => f s
  | some a =>
    let (r, s) := f (s.forceDrains a)
    let i := s.array.barge.getD 0
    (r, (s.dropArray a).updBarge i (fun x => { x with state := .removed }))

/-- R365: DRAIN. -/
def State.testDrain (s : State) (b : Barge) : State :=
  let e := teEngine b.desc
  let (r, s) := s.drainArray (fun s =>
    let (r0, s) := s.slotDrain e 0
    let (r1, s) := s.slotDrain e 1
    (r0 ++ r1, s))
  s.writeAt (teRes b.desc) r

/-- R365. -/
def execTestDrain (i : Nat) (s : State) : Result := s.begin i 0xA 1 (fun b s => s.testDrain b)

/-! ## TEST SCRUB -/

/-- R366: SCRUB: the sectors read, those rewritten corrected and those found uncorrectable, poisoned ones among them
(log 32). -/
def State.testScrub (s : State) (b : Barge) : State :=
  let d := b.desc
  let (s, fixed, bad) := (s.hbmSectors [(teAddr d, teBytes d)]).foldl (fun (s, fixed, bad) n =>
    match s.scrubSector n with
    | (s, .corrected) => (s, fixed + 1, bad)
    | (s, .uncorrectable) => (s, fixed, bad + 1)
    | (s, .good) => (s, fixed, bad)) (s, 0, 0)
  s.writeAt (teRes d) (leBytes 4 (teBytes d / 512) ++ leBytes 4 fixed ++ leBytes 4 bad)

/-- R366. -/
def execTestScrub (i : Nat) (s : State) : Result := s.begin i 0xA 2 (fun b s => s.testScrub b)

end Sys2Proof.Machine
end

