-- ==== Sys2Proof/Machine/Reset.lean ====
section
/-! DEFINITION. Resets within the device (R389 to R400): orders and their precedence, the start and the drain of a compute
reset and of a device recovery, the capture of R391, the teardown of one context, and what a reset clears. -/

namespace Sys2Proof.Machine

/-! ## Orders -/

/-- Table 18-4: an event of vector 2. -/
def State.resetEvent (s : State) (code src : BitVec 16) (fields : List (Nat × Nat)) : State :=
  (s.event code src fields).raise 2

/-- R390, R400: an order is refused; a teardown of a context that is not resident with RESULT 4. -/
def State.refuseReset (s : State) (kind code : Nat) : State :=
  (s.put F.LK_RESET_STATUS_RESULT code).resetEvent 0x060D#16 srcPackage [(8, kind), (8, code)]

/-- R466: entries fetched and not completed complete with STATUS 0xFE. -/
def State.failEntries (s : State) (c : Nat) : State :=
  let es := (s.ctx c).sq
  let s := s.updCtx c (fun x => { x with sq := [], load := none })
  es.foldl (fun s e => s.complete c (sqTag e) 1 0xFE 0) s

/-- R392, R393: no further barge of a context is issued, and nothing of it is staged. -/
def State.haltCtx (s : State) (c : Nat) : State :=
  let s := s.updCtx c (fun x => { x with run := none, evalNext := [], pauseNext := false })
  if s.occupied c then s.setCtxState c ctxTeardown else s

/-- R392, R393: a compute reset (Table 15-4) or device recovery (Table 15-5) begins. -/
def State.beginReset (s : State) (recovery : Bool) (orderer : Nat) (afterHang : Bool) : State :=
  let s := { s with lk := { s.lk with reset := some ⟨recovery, afterHang, false⟩ } }
  let s := (s.on F.LK_RESET_STATUS_BUSY).put F.LK_RESET_STATUS_KIND (if recovery then 2 else 1)
  let s := if recovery then s.countField F.LK_RESET_COUNT_RECOVERIES else s.countField F.LK_RESET_COUNT_COMPUTE
  let s := s.resetEvent (if recovery then 0x0604#16 else 0x0602#16) srcPackage [(8, orderer)]
  let s := s.forEach (List.range 8) (fun c s => s.failEntries c)
  let steps := (List.range 8).filter (fun c => s.flag (F.TRAIN_CTX_STATUS_IN_STEP c))
  let s := s.forEach steps (fun c s => s.sendAbort c)
  let s := if steps.isEmpty then s else s.on F.LOCK_EVENTS_ABORT_TX
  let s := if s.working.isEmpty then s else s.abortSteps s.working
  s.forEach (List.range 8) (fun c s => s.haltCtx c)

/-- R370: a supervisor pair is in service; with both halted no reset can be ordered from within the device. -/
def State.supervised (s : State) : Bool :=
  !((s.get F.HEALTH_LOCKSTEP_OUT_MAP).testBit 0 && (s.get F.HEALTH_LOCKSTEP_OUT_MAP).testBit 1)

/-- R390: an order of a reset of the whole device. -/
def State.orderReset (s : State) (recovery : Bool) (orderer : Nat) (afterHang : Bool) : State :=
  if !s.supervised then s
  else match s.lk.reset with
  | none => s.beginReset recovery orderer afterHang
  | some r =>
    if r.recovery = recovery then s.put F.LK_RESET_STATUS_RESULT 5
    else if recovery then s.beginReset true orderer afterHang
    else s.refuseReset 1 1

/-- R373, Table 14-4: the Watchtower input of each case: 7, 6, 11 and 12 for cases 1 to 4, and for case 5 the one
HEALTH_RISK names (log 58). -/
def State.causeInput (s : State) (cause : Nat) : Nat :=
  if cause = 1 then 7 else if cause = 2 then 6 else if cause = 3 then 11 else if cause = 4 then 12
  else s.get F.HEALTH_RISK_INPUT

/-- R373: the Watchtower orders device recovery, with the index of its case. -/
def State.orderByWatchtower (s : State) (cause : Nat) : State :=
  (s.event 0x0531#16 srcPackage [(8, cause), (8, s.causeInput cause)]).orderReset true 1 false

/-! ## The capture -/

/-- R391 for context `c`: a flip made here is made once, and no tick makes it again. -/
def State.capture (s : State) (c : Nat) : State :=
  let flip := s.flag (F.TRAIN_ARENA_PENDING c)
  let st := s.reg64 (R.TRAIN_STEP c)
  let s := if flip then
      let s := (s.put (F.TRAIN_ARENA_IN_FORCE c) (1 - s.get (F.TRAIN_ARENA_IN_FORCE c))).off (F.TRAIN_ARENA_PENDING c)
      let s := (s.setReg64 (R.TRAIN_STEP c) (st + 1)).event 0x060C#16 (srcCtx c) [(8, c), (32, st.toNat)]
      s.updCtx c (fun x => { x with boundary := none })
    else s
  let s := (s.setReg64 (R.LK_LAST_STEP c) (s.reg64 (R.TRAIN_STEP c))).setReg64 (R.LK_LAST_COMMIT c) (s.reg64 (R.TRAIN_COMMIT c))
  let s := s.put (F.LK_LAST_STATE_IN_FORCE c) (s.get (F.TRAIN_ARENA_IN_FORCE c))
  (s.on (F.LK_LAST_STATE_VALID c)).put (F.LK_LAST_STATE_FLIPPED c) flip.toNat

/-- A port goes dark and is forgotten but for its partner (Table 15-5). -/
def State.darkPort (s : State) (p : Nat) : State :=
  (s.setPort p {}).setPortState p (if s.portEnabled p then portDown else portDisabled)

/-- R398: barges that a reset or a teardown interrupted end; the bytes they were writing are undefined. -/
def State.interrupt (s : State) (mine : Barge → Bool) : State :=
  let gone := (s.lock.inFlight ++ s.lock.active).filter (fun b => mine b && b.isRunning)
  let s := gone.foldl (fun s b => s.undefine (s.outRegions b)) s
  { s with lock := { s.lock with
    inFlight := s.lock.inFlight.filter (fun b => !mine b)
    active := s.lock.active.map (fun (b : Barge) => if mine b ∧ b.open_ then { b with state := .removed } else b) } }

/-- The drain of a reset has ended: what was in flight has ended, and every context is captured. At a device recovery the
fabric time is kept too, the accesses held are answered as R395 says, and the ports go down. -/
def State.endResetDrain (s : State) (r : ResetRun) : State :=
  let s := { s with lk := { s.lk with reset := some { r with drained := true } } }
  let s := (s.off F.LOCK_STATUS_DRAINING).interrupt (fun _ => true)
  let s := s.forEach (List.range 8) (fun c s => s.capture c)
  if r.recovery then
    let s := (s.setReg64 R.LK_LAST_INDEX (s.reg64 R.LOCK_INDEX)).setReg64 R.LK_LAST_FTC (s.reg64 R.LOCK_FTC)
    let s := s.setReg64 R.LK_LAST_NEXT (s.reg64 R.LOCK_NEXT_TICK)
    let s := ({ s with lock := { s.lock with resetHold := true } } : State).releaseHeld
    (List.range 32).foldl (fun s p => s.darkPort p) s
  else s

/-- R391. -/
def execResetDrainEnd (now : DWord) (s : State) : Result :=
  .next (match s.lk.reset with
  | some r => if r.drained then s else (s.at_ now.toNat).endResetDrain r
  | none => s)

/-! ## Clearing a context -/

/-- R53, R65: the codebooks of context `c` are no longer valid, and their slots read 0. -/
def State.dropCodebooks (s : State) (c : Nat) : State :=
  (List.range 64).foldl (fun s id =>
    if 2 ≤ id ∧ s.flag (F.FORMAT_CB_HDR_VALID id) ∧ s.get (F.FORMAT_CB_HDR_OWNER id) = c then
      let s := (List.range 8).foldl (fun s k => s.setReg (R.FORMAT_CB_ENT id k) 0) (s.setReg (R.FORMAT_CB_HDR id) 0)
      s.setReg64 R.FORMAT_CB_VALID (s.reg64 R.FORMAT_CB_VALID &&& ~~~(BitVec.twoPow 64 id))
    else s) s

/-- R222: the sequence slots of context `c` are unowned. -/
def State.dropSlots (s : State) (c : Nat) : State :=
  (List.range 4).foldl (fun s q =>
    if s.flag (F.ATTN_SLOT_CFG_OWNED q) ∧ s.get (F.ATTN_SLOT_CFG_CONTEXT q) = c then
      (s.setReg (R.ATTN_SLOT_CFG q) 0).setReg (R.ATTN_SLOT_DOCS q) 0
    else s) s

/-- R222, R240: the frequency tables of an image are cleared and no longer valid. -/
def State.dropRopes (s : State) (im : Image) : State :=
  im.ropeTables.foldl (fun s t =>
    let a := (s.reg64 R.ATTN_ROPE_BASE).toNat + t.1.toNat * 0x400
    let s := { s with mem := { s.mem with cells := s.mem.cells.filter (fun c => decide (c.1 < a) || decide (a + 0x400 ≤ c.1)) } }
    let f := F.ATTN_ROPE_VALID_MAP (t.1.toNat / 32)
    if (s.get f).testBit (t.1.toNat % 32) then s.put f (s.get f - 2 ^ (t.1.toNat % 32)) else s) s

/-- R76, R170: the claimed entries of the scale tables and of both statistics banks in their empty state. -/
def State.dropClaims (s : State) (im : Image) : State :=
  let out := fun (first n k : Nat) => decide (k < first) || decide (first + n ≤ k)
  { s with
    scales := s.scales.filter (fun e => out im.coarseFirst im.coarseCount e.1)
    cstat := s.cstat.filter (fun e => out im.cstatFirst im.cstatCount (e.1 % 2 ^ 21)) }

/-- R399: the window lists of an image's tables in both banks. -/
def State.dropLists (s : State) (im : Image) : State :=
  let ids := im.sluices.map (·.1)
  { s with windows := s.windows.filter (fun e => !ids.contains (e.1 % 2 ^ 30 / 2 ^ 18)) }

/-- R8 over the register file. -/
def State.regsReset (s : State) (d : Domain) : State := { s with regs := regsAfterReset d s.regs }

/-- What a context keeps through its teardown: its completion queue and what waits for it, and the count of the interval's
stale packets (R336). -/
def Ctx.torn (x : Ctx) : Ctx :=
  { load := x.load, sq := x.sq, sqWaiting := x.sqWaiting, cqHeld := x.cqHeld, cqDropping := x.cqDropping, cqPhase := x.cqPhase
    epochDrops := x.epochDrops }

/-- R399, steps 3 and 4: context `c`'s tables are cleared and its claims are released. -/
def State.clearTables (s : State) (c : Nat) : State :=
  let im := s.image c
  (((((s.dropCodebooks c).dropSlots c).dropRopes im).dropClaims im).dropLists im).dropStreams c

/-- R399: context `c` holds nothing more, and the registers that show a context follow. -/
def State.clearHeld (s : State) (c : Nat) : State := (s.updCtx c Ctx.torn).showWiden.showVerdicts.layStore

/-- R399: context `c`'s state is cleared, with the registers that a teardown resets (R8). -/
def State.clearCtx (s : State) (c : Nat) : State :=
  ((s.clearTables c).regsReset (.teardown ⟨c % 8, Nat.mod_lt _ (by decide)⟩)).clearHeld c

/-! ## Teardown -/

/-- R397: barges of context `c`: those not started are removed, and those in flight end with the drain. -/
def State.tearBarges (s : State) (c : Nat) : State :=
  let s := if (s.arrayBarge.map Barge.ctx) = some c then s.endArray else s
  let fab := s.lock.active.filter (fun b => b.ctx == c && b.isRunning && (b.cls == 5 || b.cls == 8))
  let s := fab.foldl (fun s b => s.forgetPuts b) s
  { s with lock := { s.lock with active := s.lock.active.map (fun b =>
    if b.ctx = c then (if b.isRunning ∧ b.queue = 0 then { b with state := .removed } else b.abort) else b) } }

/-- R397: the teardown of context `c` begins. -/
def State.beginTeardown (s : State) (c : Nat) : State :=
  let running := s.flag (F.TRAIN_CTX_STATUS_IN_STEP c)
  let s := (s.put F.LK_RESET_STATUS_KIND 3).resetEvent 0x0606#16 (srcCtx c) [(8, c), (8, running.toNat)]
  let s := if running then (s.sendAbort c).on F.LOCK_EVENTS_ABORT_TX else s
  (((s.tearBarges c).haltCtx c).dropStreams c)

/-- R397, R400: a teardown is ordered. -/
def State.orderTeardown (s : State) (c : Nat) : State :=
  if s.lk.reset.isSome then s.refuseReset 3 1
  else if s.ctxState c = ctxTeardown then s.put F.LK_RESET_STATUS_RESULT 5
  else if s.ctxState c = ctxEmpty then s.refuseReset 3 4
  else s.beginTeardown c

/-- R398, R399: the drain of a teardown of context `c` ends, after `us` microseconds. What its interrupted barges were
writing is undefined, an UPDATE's pages after the current one among it (R397, log 84). -/
def State.endTeardown (s : State) (c us : Nat) : State :=
  let s := s.interrupt (fun b => b.ctx == c)
  let s := ((s.capture c).advanceEpoch c).clearCtx c
  let s := (s.setCtxState c ctxEmpty).setReg R.LK_TEARDOWN_US (BitVec.ofNat 32 us)
  ((s.put F.LK_RESET_STATUS_RESULT 0).resetEvent 0x0607#16 (srcCtx c) [(8, c), (32, us), (16, s.epoch c)]).showIdle

/-- R399. -/
def execTeardownDrainEnd (c : CtxId) (us : Word) (s : State) : Result :=
  .next (if s.ctxState c.val = ctxTeardown ∧ s.lk.reset = none then s.endTeardown c.val us.toNat else s)

/-! ## LK_RESET_CMD -/

/-- Table 15-9: a write of LK_RESET_CMD; out of service there is nothing to reset (log 43). -/
def State.resetCmd (s : State) (w : Word) : State :=
  if !goBit w || !s.supervised || s.get F.BOOT_STATUS_STATE != 3 then s
  else
    let kind := F.LK_RESET_CMD_KIND.of w
    if kind = 1 then s.orderReset false 1 false
    else if kind = 2 then s.orderReset true 2 false
    else if kind = 3 then s.orderTeardown (F.LK_RESET_CMD_CONTEXT.of w)
    else s.put F.LK_RESET_STATUS_RESULT 2

/-- R392. -/
def execComputeReset (w : Word) (s : State) : Result := .next (s.onLk (fun s => s.resetCmd w))
/-- R393. -/
def execDeviceRecovery (w : Word) (s : State) : Result := .next (s.onLk (fun s => s.resetCmd w))
/-- R397. -/
def execContextTeardown (w : Word) (s : State) : Result := .next (s.onLk (fun s => s.resetCmd w))

/-! ## What a reset clears -/

/-- Table 15-3, Tables 15-4 and 15-5: a compute reset or device recovery tears down every context without a further drain, and
its epoch advances; one that was EMPTY had nothing more. The registers are those of its own domain: TRAIN_STEP_n, TRAIN_COMMIT_n and TRAIN_ARENA_n stay. -/
def State.tearDown (s : State) (c : Nat) : State :=
  let s := s.advanceEpoch c
  if s.occupied c then (((s.clearTables c).clearHeld c).setCtxState c ctxEmpty).complete c 0xFFFF 6 0 0 else s

/-- Copies and commands in progress on the units that a reset in domain X or D resets. -/
def LkState.unbusy (k : LkState) : LkState :=
  { k with snapRun := none, scaleRead := none, cstatRead := none, recorderRead := none, codebookLoad := none }

/-- Table 15-3: what compute reset and device recovery both do: contexts, units, tables and registers. -/
def State.wipe (s : State) (d : Domain) : State :=
  let s := (s.forEach (List.range 8) (fun c s => s.tearDown c)).regsReset d
  { s with
    array := {}, kernels := {}, lanes := [], scales := [], cstat := [], windows := []
    lock := { s.lock with active := [], header := 0, collective := [] }
    health := { s.health with sram := s.health.sram.filter (fun w => w.memory == .lockkeeper), lostWords := [] }
    link := { s.link with streams := [], outgoing := [], agreement := none, early := [] }
    lk := s.lk.unbusy }

end Sys2Proof.Machine
end

