-- ==== Sys2Proof/Machine/Stack.lean ====
section
/-! DEFINITION. The commands of the stacked memory (R295 to R305, R310): retraining, temperature, margining, translation;
and what a training of the stacks does at boot and at device recovery (R301 to R304). -/

namespace Sys2Proof.Machine

/-! ## Retraining -/

/-- R297: channel `c` is mapped out at the next device recovery. -/
def State.setForMapOut (s : State) (c : Nat) : State :=
  if s.mem.forMapOut.contains c then s else { s with mem := { s.mem with forMapOut := s.mem.forMapOut ++ [c] } }

/-- R297: a failing data lane of pseudo-channel `pc` of channel `c` is marked, or sets the channel for map-out when another
lane of it is marked. -/
def State.failLane (s : State) (c pc lane : Nat) : State :=
  match s.laneMark ⟨c, pc, 0, 0⟩ with
  | none => s.markLane c pc lane 0
  | some l => if l = lane then s else s.setForMapOut c

/-- R297: what a phase on channel `c` found. -/
def State.applyRetrain (s : State) (c : Nat) (r : RetrainReport) : State :=
  let s := r.lanes.foldl (fun s p => s.failLane c p.1.val p.2.toNat) s
  if r.checkLane then s.setForMapOut c else s

/-- R296: the enabled channel after `c`, or the lowest. -/
def State.nextChannel (s : State) (c : Nat) : Nat :=
  let en := (List.range 384).filter (fun x => !s.mappedOut x)
  match en.find? (fun x => decide (c < x)) with
  | some x => x
  | none => en.headD 0

/-- R295, R296: no phase runs; `phaseB` and `channel` are those of the next one, and held accesses go on. -/
def State.retrainIdle (s : State) (phaseB : Bool) (channel : Nat) : State :=
  let s := { s with mem := { s.mem with phaseB := phaseB, nextChannel := channel, retraining := none } }
  ((s.off F.MEM_RETRAIN_ACTIVE).put F.MEM_RETRAIN_CHANNEL channel).releaseHeld

/-- R20, R294: the scrub burst follows the retraining, unless a drain is in progress. -/
def State.retrainOver (s : State) (phaseB : Bool) (channel : Nat) : State :=
  let s := s.retrainIdle phaseB channel
  if s.flag F.LOCK_STATUS_DRAINING then s else s.scrubTask

/-- R295 to R297: a phase of channel `c`, B where `phaseB`, ends after at most 1.5 µs. With both phases in one slot, what is
held stays held until phase B ends (Table 11-5, log 77). -/
def State.endPhase (s : State) (c : Nat) (phaseB : Bool) (r : RetrainReport) : State :=
  let ns := min r.ns 1500
  let s := s.at_ (s.ftc + ns)
  let s := ((s.count R.MEM_RETRAINS 1).count R.MEM_STALL_NS ns).applyRetrain c r
  if phaseB then s.retrainOver false (s.nextChannel c)
  else if s.get F.LOCK_SLOTS_MAINT_US < 3 ∨ s.flag F.LOCK_STATUS_DRAINING then s.retrainOver true c
  else if s.fitsSlot 1500 then
    { s.put F.MEM_RETRAIN_PHASE 1 with mem := { s.mem with phaseB := true, retraining := some (c, true) } }
  else (s.defer 2 c (source 5 c)).retrainOver true c

/-- R289: faults strike stored sectors: symbols of their codewords go wrong by the values given (log 78). -/
def State.strike (s : State) (faults : List (Nat × List (Fin 264 × BitVec 16))) : State :=
  faults.foldl (fun (s : State) f =>
    (s.setSector f.1 { s.sector f.1 with errors := mergeErrors (s.sector f.1).errors f.2 }).settle f.1) s

/-- R295. -/
def execRetrainPhaseEnd (r : RetrainReport) (s : State) : Result :=
  .next (match s.mem.retraining with
  | some (c, phaseB) => (s.strike r.faults).endPhase c phaseB r
  | none => s)

/-! ## Loss of contents -/

/-- R301: HBM has lost its contents, for a cause. -/
def State.loseContents (s : State) (cause : Nat) : State :=
  let s := { s with
    free := s.free + 1
    mem := { s.mem with cells := s.mem.cells.filter (fun e => decide (0xFE0000000000 ≤ e.1)), sectors := [], lost := s.free + 1 } }
  (s.on F.MEM_STATUS_CONTENTS_LOST).event 0x0307#16 srcPackage [(8, cause)]

/-! ## Temperature -/

/-- Table 11-6: the step entered at a temperature, and whether a step is left at it. -/
def stepEntered (t : Nat) : Nat := if 105 ≤ t then 4 else if 100 ≤ t then 3 else if 95 ≤ t then 2 else if 85 ≤ t then 1 else 0
def stepLeft (k t : Nat) : Bool := (k == 1 && decide (t < 82)) || (k == 2 && decide (t < 92)) || (k == 3 && decide (t < 97))

/-- R298: the step after a reading, from step `k`. -/
def thermalStep (k t : Nat) : Nat :=
  if k < stepEntered t then stepEntered t
  else
    let k := if stepLeft k t then k - 1 else k
    let k := if stepLeft k t then k - 1 else k
    if stepLeft k t then k - 1 else k

/-- R298, R299: HOT_STEP, HOT_STACK and MOVER_SLOW from the steps of all stacks. The spec gives MOVER_SLOW no value at
step 4: it is free (log 34). -/
def State.showHot (s : State) : State :=
  let step := fun i => s.get (F.MEM_STACK_STATUS_STEP i)
  let hot := ((List.range 12).map step).foldl max 0
  let stack := ((List.range 12).find? (fun i => step i == hot)).getD 0
  let (v, s) := if 4 ≤ hot then s.draw else (if hot = 3 then 0x80 else if hot = 2 then 0x56 else 0x40, s)
  ((s.put F.MEM_STATUS_HOT_STEP hot).put F.MEM_STATUS_HOT_STACK stack).put F.LOCK_SLOW_MOVER_SLOW v.toNat

/-- R300: stack `i` has reached 105 °C. -/
def State.shutStack (s : State) (i t : Nat) : State :=
  let s := s.abandon s.working
  let s := { s with mem := { s.mem with shut := i :: s.mem.shut.filter (· != i) } }
  let s := (s.on (F.MEM_STACK_STATUS_SHUT i)).event 0x0304#16 (source 4 i) [(8, i), (8, t)]
  (s.loseContents 1).orderByWatchtower 1

/-- R298: stack `i` changes its thermal step. -/
def State.setStep (s : State) (i new t : Nat) : State :=
  let old := s.get (F.MEM_STACK_STATUS_STEP i)
  if new = old then s
  else
    let s := (s.put (F.MEM_STACK_STATUS_STEP i) new).showHot
    s.event 0x0303#16 (source 4 i) [(8, i), (8, old), (8, new), (8, t)]

/-- R298: the temperature of stack `i` is read. -/
def State.readTemperature (s : State) (i t : Nat) : State :=
  let old := s.get (F.MEM_STACK_STATUS_STEP i)
  let new := thermalStep old t
  let s := (s.put (F.MEM_STACK_STATUS_TEMP i) t).put (F.MEM_STACK_STATUS_TEMP_MAX i) (max t (s.get (F.MEM_STACK_STATUS_TEMP_MAX i)))
  let s := s.setStep i new t
  if new = 4 && old != 4 then s.shutStack i t else s

/-- R298. -/
def execStackTemperatureRead (st : StackId) (temp : Byte) (s : State) : Result := .next (s.readTemperature st.val temp.toNat)

/-- R283, Table 11-1: the stack refreshes at once; no state of this model holds a row's charge. -/
def execRefreshManagementRequest (_ : StackId) (s : State) : Result := .next s

/-! ## Margining -/

/-- R305: why a sweep is not accepted; 0 when it is. -/
def State.marginCheck (s : State) : Nat :=
  let c := s.get F.MEM_MARGIN_CTL_CHANNEL
  if s.flag F.LOCK_STATUS_TICKING || !s.resident.isEmpty then 1
  else if 384 ≤ c ∨ s.mappedOut c then 2
  else if 4 ≤ s.get F.MEM_MARGIN_CTL_KIND then 3
  else 0

/-- R305: a write of MEM_MARGIN_CTL. A GO during a sweep starts none (log 35). -/
def State.marginCtl (s : State) (w : Word) : State :=
  let s := s.hostWrite R.MEM_MARGIN_CTL w
  if goBit w && s.mem.sweep.isNone then
    let code := s.marginCheck
    if code = 0 then
      let s := s.on F.MEM_MARGIN_RESULT_BUSY
      { s with mem := { s.mem with sweep := some (s.get F.MEM_MARGIN_CTL_KIND, s.flag F.MEM_MARGIN_CTL_ALL_LANES) } }
    else s.put F.MEM_MARGIN_RESULT_CODE code
  else s
def execMarginSweep (w : Word) (s : State) : Result := .next (s.onDies (fun s => s.marginCtl w))

/-- R305: a step within the range of a sweep's KIND, as MEM_MARGIN_RESULT holds it: −32 to 31 for timing, −24 to 23 for a
reference voltage. -/
def marginStep (kind : Nat) (v : Byte) : Nat :=
  let lo : Int := if kind < 2 then -32 else -24
  let hi : Int := if kind < 2 then 31 else 23
  (BitVec.ofInt 8 (max lo (min hi v.toInt))).toNat

/-- R305: a sweep of KIND `kind`, over all lanes where `all`, ends. -/
def State.endSweep (s : State) (kind : Nat) (all : Bool) (low high : Byte) (worst : BitVec 5) : State :=
  let s := { s with mem := { s.mem with sweep := none } }
  let s := ((s.off F.MEM_MARGIN_RESULT_BUSY).put F.MEM_MARGIN_RESULT_CODE 0).put F.MEM_MARGIN_RESULT_LOW (marginStep kind low)
  let s := s.put F.MEM_MARGIN_RESULT_HIGH (marginStep kind high)
  if all then s.put F.MEM_MARGIN_RESULT_WORST_LANE worst.toNat else s

/-- R305: the sweep in progress ends. -/
def execMarginSweepEnd (low high : Byte) (worst : BitVec 5) (s : State) : Result :=
  .next (match s.mem.sweep with
  | some (kind, all) => s.endSweep kind all low high worst
  | none => s)

/-! ## Translation -/

/-- R310: MEM_XLATE_RESULT for MEM_XLATE_ADDR. -/
def State.showXlate (s : State) : State :=
  let a := (s.reg64 R.MEM_XLATE_ADDR).toNat
  if s.hbmEnd ≤ a then s.setReg R.MEM_XLATE_RESULT 0xFFFFFFFF#32
  else
    let p := locate s.channels a
    s.setReg R.MEM_XLATE_RESULT (BitVec.ofNat 32 (packFields [(22, p.sector), (1, p.pc), (9, p.channel)]))

/-- R310: a write of MEM_XLATE_ADDR, whose bits 63:48 are reserved. -/
def State.xlate (s : State) (addr : DWord) : State := (s.setReg64 R.MEM_XLATE_ADDR (addr &&& 0xFFFFFFFFFFFF#64)).showXlate
def execMemXlate (addr : DWord) (s : State) : Result := .next (s.onDies (fun s => s.xlate addr))

/-! ## Training -/

/-- R285 turned round: the sector of the device address space that is sector `n` of a pseudo-channel. -/
def State.sectorAt (s : State) (channel pc n : Nat) : Option Nat :=
  let l := s.channels
  let e := l.length
  (l.findIdx? (· == channel)).map (fun o =>
    let u := n / 2
    let b := (u ^^^ (u / 8192)) % 8192
    let v := (o + e - b * 89 % e) % e
    4 * (u * e + v) + 2 * (n % 2) + pc)

/-- R302: the sectors of a row are read through the code by the firmware and written back: one that reads correctable as a
good codeword, one that reads uncorrectable poisoned. The count is of those stored poisoned. -/
def State.rewriteRow (s : State) (ns : List Nat) : State × Nat :=
  ns.foldl (fun (p : State × Nat) n =>
    let (s, r) := p.1.readSector n
    if r = .uncorrectable then ((s.uncorrectable rdFirmware n).setSector n { poisoned := true }, p.2 + 1)
    else (s.setSector n {}, p.2)) (s, 0)

/-- R302: a row of a pseudo-channel is repaired. Which sectors it holds is the stack's own (log 76). -/
def State.repairRow (s : State) (channel pc row : Nat) : State :=
  let (s, bad) := s.rewriteRow ((Config.rowSectors channel pc row).filterMap (s.sectorAt channel pc))
  s.event 0x0306#16 (source 5 channel) [(16, channel), (8, pc), (16, bad)]

/-- R443: the row number of a record of the repair log: a channel's rows, those of its two pseudo-channels in turn
(log 76). -/
def logRow (pc row : Nat) : Nat := 2 * row + pc

/-- R302, R443: a row found failing repeatably joins the repair log, unless it stands there. -/
def State.noteRow (s : State) (channel pc row : Nat) : State :=
  if s.lk.repairLog.contains (2, channel, logRow pc row) then s else s.logRepair 2 channel (logRow pc row)

/-- R302: every row that the repair log lists on an enabled channel is repaired, and with a full log the rows found now. -/
def State.repairRows (s : State) (found : List (Fin 384 × Fin 2 × Nat)) : State :=
  let s := found.foldl (fun (s : State) p => s.noteRow p.1.val p.2.1.val p.2.2) s
  let listed := s.lk.repairLog.filterMap (fun e => if e.1 = 2 then some (e.2.1, e.2.2) else none)
  let rows := (listed ++ found.map (fun p => (p.1.val, logRow p.2.1.val p.2.2))).eraseDups
  rows.foldl (fun (s : State) p => if s.mappedOut p.1 then s else s.repairRow p.1 (p.2 % 2) (p.2 / 2)) s

/-- The lane marks of a channel. -/
def State.marksOf (s : State) (c : Nat) : List Nat := [0, 1].filterMap (fun pc => s.laneMark ⟨c, pc, 0, 0⟩)

/-- R303: why an enabled channel is mapped out after a training that failed `failed`; 0 when it is not. -/
def State.mapOutCause (s : State) (failed noSpare : List Nat) (c : Nat) : Nat :=
  if failed.contains c then 1
  else if s.mem.forMapOut.contains c then 2
  else if noSpare.contains c then 3
  else if !(s.marksOf c).isEmpty && !s.flag F.MEM_CTL_KEEP_MARKED then 4
  else 0

/-- R286, R304: the registers of the capacity, from MEM_MAP. -/
def State.showCapacity (s : State) : State :=
  let e := s.channels.length
  let s := ((s.put F.MEM_STATUS_ENABLED e).put F.MEM_STATUS_MAPPED_OUT (384 - e)).put F.MEM_STATUS_BELOW_GUARANTEE
    (if e < 380 then 1 else 0)
  let s := s.put F.MEM_STATUS_MARKED ((List.range 384).any (fun c => !(s.marksOf c).isEmpty)).toNat
  s.setReg64 R.MEM_CAP (BitVec.ofNat 64 (e * 4000000000 - 8000000000))

/-- R303: channel `c` is mapped out: its bit, its marks. -/
def State.mapOut (s : State) (c : Nat) : State :=
  let s := s.put (F.MEM_MAP_OUT (c / 32)) (s.get (F.MEM_MAP_OUT (c / 32)) ||| 2 ^ (c % 32))
  let k := 2 * (c % 32)
  ((s.setReg (R.MEM_LANE_MARK (c / 32) k) 0).setReg (R.MEM_LANE_MARK (c / 32) (k + 1)) 0).showCapacity

/-- R302, R303: a training of the stacks: repairs, marks, and the channels mapped out, each with its event and its record
in the repair log. -/
def State.train (s : State) (r : TrainReport) : State :=
  let s := s.repairRows r.repairs
  let second := r.lanes.filter (fun p => match s.laneMark ⟨p.1.val / 2, p.1.val % 2, 0, 0⟩ with
    | some l => l != p.2.toNat
    | none => r.lanes.any (fun q => q.1 == p.1 && q.2 != p.2))
  let failed := r.failed.map (·.val) ++ second.map (fun p => p.1.val / 2)
  let single := r.lanes.filter (fun p => !second.contains p)
  let s := single.foldl (fun s p => s.markLane (p.1.val / 2) (p.1.val % 2) p.2.toNat 0) s
  let s := s.showCapacity
  let s := ((List.range 384).filter (fun c => !s.mappedOut c)).foldl (fun (s : State) (c : Nat) =>
    let cause := s.mapOutCause failed (r.noSpare.map (·.val)) c
    if cause = 0 then s
    else
      let s := s.mapOut c
      (s.event 0x0305#16 (source 5 c) [(16, c), (8, cause), (16, s.get F.MEM_STATUS_ENABLED)]).logRepair 1 c 0) s
  { s with mem := { s.mem with forMapOut := [] } }

/-- R301: the HBM part of a device recovery: training, and the loss of contents where a channel is mapped out or a whole
stack has failed. -/
def State.retrainStacks (s : State) (r : TrainReport) : State :=
  let e := s.channels.length
  let s := s.train r
  let s := if s.channels.length < e then s.loseContents 0 else s
  let dead := (List.range 12).any (fun i => (List.range 32).all (fun c => (r.failed.map (·.val)).contains (32 * i + c)))
  if dead then s.loseContents 2 else s

end Sys2Proof.Machine
end

