-- ==== Sys2Proof/Machine/Recovery.lean ====
section
/-! DEFINITION. The watchdog of the host driver (R384 to R388), its escalation (Table 15-2), quarantine (R402, R403), and
the ends of a compute reset and of a device recovery (R392 to R396). -/

namespace Sys2Proof.Machine

/-! ## What the watchdog samples -/

/-- Barges not complete: of the active manifest, and of earlier intervals. -/
def State.notComplete (s : State) : List Barge := s.lock.active.filter Barge.open_ ++ s.lock.inFlight

/-- R385: QUEUES. -/
def State.hungQueues (s : State) : Nat :=
  ((List.range 5).map (fun q => if s.notComplete.any (fun b => b.queue == q) then 2 ^ q else 0)).sum

/-- A barge started before FTC `t`. -/
def Barge.startedBefore (b : Barge) (t : Nat) : Bool :=
  match b.state with | .running t0 => decide (t0 < t) | _ => false

/-- Table 15-1: whether a condition holds at a sample. -/
def State.condition (s : State) (k : Nat) : Bool :=
  if k = 1 then s.flag F.LOCK_STATUS_TICKING && s.lk.watchdog.lastIndex == some (s.reg64 R.LOCK_INDEX)
  else if k = 2 then s.notComplete.any (fun b => b.startedBefore s.lock.prevTick)
  else if k = 3 then s.flag F.LOCK_STATUS_DRAINING
  else if k = 4 then (List.range 8).any (fun c => s.ctxState c == ctxTeardown)
  else s.lk.watchdog.lastProgress == some (s.reg R.LK_PROGRESS)

/-- R384: how long each condition has held at every sample, plus 1, in ms. -/
def heldFor (held : List (Nat × Nat)) (holds : List Nat) : List (Nat × Nat) :=
  holds.map (fun k => match held.lookup k with
    | some ms => (k, ms + 100)
    | none => (k, 1))

/-- R385: contexts as a bit map. -/
def ctxMap (cs : List Nat) : Nat := ((List.range 8).map (fun c => if cs.contains c then 2 ^ c else 0)).sum

/-- R385: the suspects. -/
def State.suspectMap (s : State) : Nat :=
  ctxMap (s.lk.watchdog.seen ++ s.ctxsWhere (fun v => v == ctxTeardown))

/-! ## Escalation -/

/-- R387: the heartbeat is stopped, by a row of Table 15-2 counted from 1. -/
def State.stopHeartbeat (s : State) (row : Nat) : State :=
  if s.lk.heartbeatStopped then s
  else ({ s with lk := { s.lk with heartbeatStopped := true } } : State).event 0x060B#16 srcPackage
    [(8, row), (16, (s.reg R.LK_RESET_STATUS).toNat)]

/-- Table 15-2: what a hang with these conditions and queues leads to. -/
def State.escalate (s : State) (conds : List Nat) (queues : Nat) (replay : Bool) : State :=
  if !replay && s.lk.sinceRecoveryMs.any (fun ms => decide (ms ≤ 60000)) then s.stopHeartbeat 2
  else if conds.all (fun k => k == 2 || k == 3 || k == 4) && !queues.testBit 1 && !queues.testBit 2 &&
      (replay || s.lk.sinceComputeMs.all (fun ms => decide (60000 ≤ ms))) then
    s.orderReset false 0 (!replay)
  else s.orderReset true 0 (!replay)

/-- R402, R403: the image of the suspect `c` is quarantined. -/
def State.quarantine (s : State) (c : Nat) : State :=
  let id := s.reg64 (R.LK_IMAGE_ID c)
  let free := (List.range 16).find? (fun k => !(s.get F.LK_QUAR_VALID_MAP).testBit k)
  let s := match free with
    | some k => (s.setReg64 (R.LK_QUAR k) id).put F.LK_QUAR_VALID_MAP (s.get F.LK_QUAR_VALID_MAP ||| 2 ^ k)
    | none => { s with lk := { s.lk with quarantineFull := true } }
  let s := s.event 0x0609#16 (srcCtx c) [(8, c), (8, free.getD 0xFF), (32, id.toNat)]
  ({ s with lk := { s.lk with replayQuarantined := true } } : State).setBit F.LK_REPLAY_PENDING c false

/-- R401, R402: what a hang does to the replay: the suspect named is quarantined, or its own suspects are kept for a replay
after the reset, or it is transient at once. -/
def State.blame (s : State) (suspects : Nat) : State :=
  if s.flag F.LK_REPLAY_ACTIVE then
    let c := s.get F.LK_REPLAY_CONTEXT
    if s.bit F.LK_REPLAY_PENDING c then s.quarantine c else s
  else if suspects = 0 then s.startReplay 0
  else { s with lk := { s.lk with replayNext := some suspects } }

/-- R385: a hang is declared: `holds` are the conditions at this sample, `conds` those that have held over the span. -/
def State.declareHang (s : State) (holds conds : List Nat) : State :=
  let q := s.hungQueues
  let m := s.suspectMap
  let cond := holds.headD 0
  let s := ((s.on F.LK_WD_STATUS_HANG).put F.LK_WD_STATUS_CONDITION cond).put F.LK_WD_STATUS_QUEUES q
  let s := (s.put F.LK_WD_STATUS_SUSPECTS m).setReg64 R.LK_WD_LAST_OK s.lk.watchdog.okIndex
  let s := s.resetEvent 0x0601#16 srcPackage [(8, cond), (8, m), (8, q), (32, s.lk.watchdog.okIndex.toNat)]
  let s := { s with lk := { s.lk with watchdog := { s.lk.watchdog with held := [] } } }
  let replay := s.flag F.LK_REPLAY_ACTIVE
  (s.blame m).escalate conds q replay

/-- R384: one sample. -/
def State.sample (s : State) : State :=
  let holds := [1, 2, 3, 4, 5].filter (fun k => s.condition k)
  let held := heldFor s.lk.watchdog.held holds
  let conds := (held.filter (fun e => decide (s.get F.LK_WD_CTL_PERIOD_MS < e.2))).map (·.1)
  let w := { s.lk.watchdog with
    lastIndex := some (s.reg64 R.LOCK_INDEX), lastProgress := some (s.reg R.LK_PROGRESS), held := held }
  let w := if holds.isEmpty then
      { w with okIndex := s.reg64 R.LOCK_INDEX, seen := (List.range 8).filter (fun c => s.lock.active.any (fun b => b.ctx == c)) }
    else w
  let s := { s with lk := { s.lk with watchdog := w } }
  if conds.isEmpty then s else s.declareHang holds conds

/-- R384, R388: a sample, taken while the watchdog is enabled, a context is resident and no reset is in progress. -/
def execWatchdogSample (s : State) : Result :=
  .next (if s.flag F.LK_WD_CTL_EN && !s.resident.isEmpty && !s.flag F.LK_RESET_STATUS_BUSY then s.sample
    else { s with lk := { s.lk with watchdog := { s.lk.watchdog with
      lastIndex := some (s.reg64 R.LOCK_INDEX), lastProgress := some (s.reg R.LK_PROGRESS), held := [] } } })

/-- R386, first row. -/
def execComputeResetTimeout (s : State) : Result :=
  .next (match s.lk.reset with
  | some r => if r.recovery then s else s.orderReset true 3 false
  | none => s)

/-- R386, second row. -/
def execRecoveryTimeout (s : State) : Result :=
  .next (match s.lk.reset with
  | some r => if r.recovery then s.stopHeartbeat 2 else s
  | none => s)

/-- R403: entries of the quarantine list freed; image loads are accepted again once one is free. -/
def State.freeQuarantine (s : State) (w : Word) : State :=
  let s := s.hostWrite R.LK_QUAR_VALID w
  if s.get F.LK_QUAR_VALID_MAP = 0xFFFF then s else { s with lk := { s.lk with quarantineFull := false } }
def execQuarantineFree (w : Word) (s : State) : Result := .next (s.onLk (fun s => s.freeQuarantine w))

/-! ## The end of a reset -/

/-- R401, R402: what follows the end of a reset: the replay of a hang, or the next suspect of the replay in progress. -/
def State.afterReset (s : State) : State :=
  match s.lk.replayNext with
  | some m => ({ s with lk := { s.lk with replayNext := none } } : State).startReplay m
  | none =>
    if s.flag F.LK_REPLAY_ACTIVE && !s.bit F.LK_REPLAY_PENDING (s.get F.LK_REPLAY_CONTEXT) then s.nameSuspect else s

/-- LK_RESET_STATUS and LK_RESET_LAST_MS when a reset ends, and what may go on then: Idle (R446), and the fetching of
entries (R466). -/
def State.resetOver (s : State) (ms : Word) (result : Nat) : State :=
  let s := { s with lk := { s.lk with reset := none } }
  let s := ((s.off F.LK_RESET_STATUS_BUSY).put F.LK_RESET_STATUS_RESULT result).setReg R.LK_RESET_LAST_MS ms
  s.showIdle.forEach (List.range 8) (fun c s => s.fetch c)

/-- R392, the last row of Table 15-4. -/
def State.endCompute (s : State) (r : ResetRun) (ms : Word) : State :=
  let s := (s.wipe .compute).resetOver ms 0
  let s := if r.afterHang then { s with lk := { s.lk with sinceComputeMs := some 0 } } else s
  (s.resetEvent 0x0603#16 srcPackage [(16, ms.toNat), (8, 0)]).afterReset

/-- R392. -/
def execComputeResetDone (ms : Word) (s : State) : Result :=
  .next (match s.lk.reset with
  | some r => if !r.recovery && r.drained then s.endCompute r ms else s
  | none => s)

/-- R453, R454: LK_STATUS, from the halted pairs. -/
def State.showPairs (s : State) : State :=
  let out := s.get F.HEALTH_LOCKSTEP_OUT_MAP
  let n := ((List.range 24).filter (fun p => decide (3 ≤ p) && !out.testBit p)).length
  let s := (s.put F.LK_STATUS_RUNTIME_PAIRS n).put F.LK_STATUS_DEGRADED (decide (n < 16)).toNat
  s.put F.LK_STATUS_SEC_OUT (out.testBit 2).toNat

/-- R370: halted pairs are retested: those that fail stay out. -/
def State.retestPairs (s : State) (bad : List (Fin 24)) (out : Nat) : State :=
  let still := (List.range 24).filter (fun p => out.testBit p && bad.any (fun b => b.val == p))
  (s.put F.HEALTH_LOCKSTEP_OUT_MAP ((still.map (fun p => 2 ^ p)).sum)).showPairs

/-- R394: the FTC and the lock index restart `ns` after the capture: the index by the whole periods elapsed. The next tick comes
a whole number of periods after the one that was due; at a tick master it has the index that belongs to it. -/
def State.restartTime (s : State) (ns period : Nat) : State :=
  let ftc := (s.reg64 R.LK_LAST_FTC).toNat + ns
  let next := (s.reg64 R.LK_LAST_NEXT).toNat
  let last := s.reg64 R.LK_LAST_INDEX
  let p := max 1 period
  let k := if next < ftc then (ftc - next + p - 1) / p else 0
  let s := (s.setReg64 R.LOCK_FTC (BitVec.ofNat 64 ftc)).setReg64 R.LOCK_NEXT_TICK (BitVec.ofNat 64 (next + k * p))
  let s := s.setReg64 R.LOCK_INDEX (last + BitVec.ofNat 64 (ns / p))
  let due := if s.flag F.LOCK_CTL_TICK_MASTER then some (last + 1 + BitVec.ofNat 64 k) else none
  { s with
    lock := { indexNext := due }
    link := { s.link with goodEstimates := 0, worstOffset := 0 } }

/-- R300: whether stack `i` is shut down and not yet below 90 °C. -/
def State.tooHot (s : State) (i : Nat) : Bool := s.mem.shut.contains i && decide (90 ≤ s.get (F.MEM_STACK_STATUS_TEMP i))

/-- R300: a stack that was shut down and is below 90 °C is powered again, with the thermal step its temperature enters
(log 59). -/
def State.restoreStack (s : State) (i : Nat) : State :=
  if s.mem.shut.contains i && !s.tooHot i then
    let t := s.get (F.MEM_STACK_STATUS_TEMP i)
    (({ s with mem := { s.mem with shut := s.mem.shut.filter (· != i) } } : State).off (F.MEM_STACK_STATUS_SHUT i)).setStep i
      (stepEntered t) t
  else s

/-- R300: the stacks below 90 °C are powered again. -/
def State.restoreStacks (s : State) : State := (List.range 12).foldl (fun (s : State) i => s.restoreStack i) s

/-- Table 15-5: what is reset beside Table 15-3's common part: the Basin SRAM, the link-die logic, the Watchtower's
measures since device recovery and its inputs, and the HBM controllers' retraining, sweep and runs of corrections. -/
def State.wipeBasin (s : State) : State :=
  { s with
    mem := { s.mem with
      cells := s.mem.cells.filter (fun e => decide (e.1 < 0xFE0000000000))
      phaseB := false, nextChannel := 0, retraining := none, sweep := none, laneRuns := [] }
    link := { s.link with ports := [], eqPort := none }
    health := { s.health with uncorrReads := 0, uncorrWords := 0, windows := [], holds := [], level3Ms := 0 } }

/-- R393: units reset and written to their initial state, halted pairs retested, the stacks trained and powered. -/
def State.resumeDies (s : State) (r : RecoveryReport) : State :=
  let out := s.get F.HEALTH_LOCKSTEP_OUT_MAP
  let s := ((s.wipe .recovery).wipeBasin).retestPairs r.badPairs out
  (s.retrainStacks r.training).restoreStacks

/-- R396: E below 376, a stack above 90 °C, or a step that did not complete. -/
def State.recoveryFails (s : State) (r : RecoveryReport) : Bool :=
  decide (s.get F.MEM_STATUS_ENABLED < 376) || (List.range 12).any (fun i => s.tooHot i) || r.stepFailed

/-- R396: the device stays out of service; E below 376 is a cause of Table 17-5. -/
def State.stayStopped (s : State) : State :=
  let s := s.put F.BOOT_STATUS_STATE 5
  if s.get F.MEM_STATUS_ENABLED < 376 then s.put F.BOOT_STATUS_CAUSE 8 else s

/-- R396. -/
def State.failRecovery (s : State) (ms : Word) : State :=
  let e := s.get F.MEM_STATUS_ENABLED
  let s := (s.stayStopped.resetOver ms 3).resetEvent 0x0605#16 srcPackage [(32, ms.toNat), (8, 3), (16, e)]
  s.stopHeartbeat 2

/-- R393, R394, R396: a device recovery ends. -/
def State.endRecovery (s : State) (r : RecoveryReport) : State :=
  let p := s.period
  let s := s.resumeDies r
  if s.recoveryFails r then s.failRecovery r.ms
  else
    let s := ((s.trainPorts r.partners).restartTime r.elapsedNs p).relock
    let s := (s.resetOver r.ms 0).resetEvent 0x0605#16 srcPackage [(32, r.ms.toNat), (8, 0), (16, s.get F.MEM_STATUS_ENABLED)]
    ({ s with lk := { s.lk with sinceRecoveryMs := some 0 } } : State).afterReset

/-- R394. -/
def execDeviceRecoveryDone (r : RecoveryReport) (s : State) : Result :=
  .next (match s.lk.reset with
  | some run => if run.recovery && run.drained then s.endRecovery r else s
  | none => s)

end Sys2Proof.Machine
end

