-- ==== Sys2Proof/Machine/Health.lean ====
section
/-! DEFINITION. The Watchtower (R371 to R373), lockstep pairs (R370, R453, R454), the UCIe links (R358), the SRAM scrub
(R357, R369) and reads of the event recorder (R379). -/

namespace Sys2Proof.Machine

/-! ## Lockstep pairs -/

/-- Table 18-1: a pair's role code. -/
def pairRole (p : Nat) : Nat := if p < 2 then 0 else if p = 2 then 1 else 2

/-- R370, R454: the mismatched pair `p` is halted. With both supervisor pairs halted the heartbeat stops, and nothing is
left to order a reset. -/
def State.haltPair (s : State) (p : Nat) : State :=
  let s := s.put F.HEALTH_LOCKSTEP_OUT_MAP (s.get F.HEALTH_LOCKSTEP_OUT_MAP ||| 2 ^ p)
  let s := ((s.count R.HEALTH_LOCKSTEP_MISMATCH 1).event 0x0520#16 (source 9 p) [(8, p), (8, pairRole p)]).showPairs
  let s := if p = 2 then s.event 0x0633#16 (source 9 p) [(8, p)] else s
  if 2 ≤ p then s
  else if s.supervised then s.orderByWatchtower 4
  else { s with lk := { s.lk with heartbeatStopped := true } }

/-- R370. -/
def execLockstepMismatch (pair : Fin 24) (s : State) : Result :=
  .next (if (s.get F.HEALTH_LOCKSTEP_OUT_MAP).testBit pair.val then s else s.haltPair pair.val)

/-! ## UCIe -/

/-- R358. -/
def execUcieLinkRecovery (link : Byte) (ok : Bool) (s : State) : Result :=
  let s := (s.measure 11 1).event 0x0522#16 srcPackage [(8, link.toNat), (8, if ok then 0 else 1)]
  .next (if ok then s else s.orderByWatchtower 3)

/-! ## SRAM -/

/-- R379: the record at position `k` is lost. -/
def State.loseRecord (s : State) (k : Nat) : State :=
  let rs := s.health.records
  if k < rs.length then
    { s with health := { s.health with records := rs.modify (rs.length - 1 - k) (fun r => { r with unreadable := true }) } }
  else s

/-- R357: the contexts at work whose barges read a word of the Basin die: the claimant of its scale or statistics entry, and
of any other word all of them (log 86). -/
def State.wordReaders (s : State) (a : Nat) : List Nat :=
  s.working.filter (fun c =>
    let im := s.image c
    let claims := fun (first n i : Nat) => decide (first ≤ i) && decide (i < first + n)
    if cstatBase ≤ a ∧ a < sluiceListBase then claims im.cstatFirst im.cstatCount ((a - cstatBase) / 16 % 2 ^ 21)
    else if historyBase ≤ a ∧ a < historyBase + 0x400000 then claims im.coarseFirst im.coarseCount ((a - historyBase) / 64)
    else if coarseBase ≤ a ∧ a < coarseBase + 0x100000 then claims im.coarseFirst im.coarseCount ((a - coarseBase) / 16)
    else true)

/-- R357: an uncorrectable word of the Basin die that the scrub found, as if a barge had met it: the steps that read it are
abandoned, and it is cleared at the end of the drain, at once where none is in progress. -/
def State.scrubLost (s : State) (w : SramWord) : State :=
  let cs := s.wordReaders (wordAddress w)
  let s := s.loseWord w
  let s := if cs.isEmpty then s else s.abandon cs
  if s.flag F.LOCK_STATUS_DRAINING then s else s.clearLost

/-- R357: an uncorrectable word of the Lockkeeper die. -/
def State.lockkeeperLost (s : State) (w : SramWord) : State :=
  let s := match w.record with | some k => s.loseRecord k.val | none => s
  if w.firmware then s.orderByWatchtower 2 else s

/-- R356, R357, R369: the scrub reads a word that holds an error. -/
def State.scrubWord (s : State) (w : SramWord) : State :=
  let s := s.readWord w
  if !w.double then s else if w.memory = .lockkeeper then s.lockkeeperLost w else s.scrubLost w

/-- R369: the scrub of the Basin and Lockkeeper dies reads every word, and rewrites those it can. `arisen`: the errors that have
arisen since in words it has passed, or in the buffers that it does not read; a reader may meet them before its next pass
(log 86). -/
def execSramScrub (arisen : List SramWord) (s : State) : Result :=
  let found := s.health.sram.filter (fun w => decide (2 ≤ memoryNumber w.memory))
  let s := found.foldl (fun s w => s.scrubWord w) s
  let left := s.health.sram.filter (fun w => decide (memoryNumber w.memory < 2) || (w.double && w.memory == .basin))
  .next { s with health := { s.health with sram := left ++ arisen } }

/-! ## The Watchtower -/

/-- A "per 10 s" measure. -/
def Window.total (w : Window) : Nat := w.now + w.past.sum
def State.per10s (s : State) (i : Nat) : Nat := (tblGet measureDefault s.health.windows i).total

/-- Pseudo-channels with a marked lane. -/
def State.markedLanes (s : State) : Nat :=
  ((List.range 12).map (fun i => ((List.range 64).filter (fun k => s.flag (F.MEM_LANE_MARK_VALID i k))).length)).sum

/-- Ports with a saved partner that are not up. -/
def State.lostPorts (s : State) : Nat :=
  ((List.range 32).filter (fun p => s.flag (F.LINK_PORT_PARTNER_VALID (p / 16) (p % 16)) && !s.isUp p)).length

/-- Alarms raised: bit 0 supply warning, bit 1 thermal alert, bit 2 coolant leak. -/
def State.alarms (s : State) : Nat :=
  s.get F.MODULE_STATUS_SUPPLY + 2 * s.get F.MODULE_STATUS_THERMAL + 4 * s.get F.MODULE_STATUS_LEAK

/-- Table 14-4: the measure of input `i`. -/
def State.measured (s : State) (i : Nat) : Nat :=
  match i with
  | 1 => s.health.uncorrReads
  | 2 => s.markedLanes
  | 3 => s.get F.MEM_STATUS_ENABLED
  | 4 => s.health.marked
  | 6 => s.health.uncorrWords
  | 7 => s.get F.MEM_STATUS_HOT_STEP
  | 8 => ((List.range 4).map (fun d => s.get (F.COMPUTE_CLK_FREQ_MHZ d))).foldl min 1100
  | 10 => s.lostPorts
  | 12 => ((List.range 24).filter (fun p => (s.get F.HEALTH_LOCKSTEP_OUT_MAP).testBit p)).length
  | 13 => (s.flag F.LOCK_STATUS_TICKING && !s.flag F.LOCK_STATUS_FTC_LOCKED).toNat
  | 15 => s.alarms
  | 16 => s.get F.RECORDER_STATUS_FULL
  | _ => s.per10s i

/-- Whether a measure meets level `l` of input `i` (Table 14-4). -/
def State.meets (s : State) (i l : Nat) : Bool :=
  let m := s.measured i
  match i, l with
  | 0, 1 => decide (1000 ≤ m)
  | 0, 2 => decide (100000 ≤ m)
  | 1, 2 => decide (1 ≤ m)
  | 1, 3 => decide (16 ≤ m)
  | 2, 1 => decide (1 ≤ m)
  | 2, 2 => decide (4 ≤ m)
  | 3, 2 => decide (m < 380)
  | 4, 2 => decide (1 ≤ m)
  | 4, 3 => (List.range 4).any (fun d => s.flag (F.COMPUTE_DIE_STATUS_BELOW_GUARANTEE d))
  | 5, 1 => decide (100 ≤ m)
  | 5, 2 => decide (10000 ≤ m)
  | 6, 2 => decide (1 ≤ m)
  | 7, 1 => decide (2 ≤ m)
  | 7, 2 => decide (3 ≤ m)
  | 7, 3 => decide (4 ≤ m)
  | 8, 1 => decide (m ≤ 825)
  | 8, 2 => decide (m ≤ 550)
  | 9, 1 => decide (10000 ≤ m)
  | 9, 2 => decide (1000000 ≤ m)
  | 10, 1 => decide (1 ≤ m)
  | 11, 1 => decide (1 ≤ m)
  | 11, 2 => decide (10 ≤ m)
  | 12, 1 => decide (1 ≤ m)
  | 12, 2 => decide (2 ≤ m)
  | 12, 3 => (s.get F.HEALTH_LOCKSTEP_OUT_MAP).testBit 0 || (s.get F.HEALTH_LOCKSTEP_OUT_MAP).testBit 1
  | 13, 1 => m == 1
  | 14, 1 => decide (1 ≤ m)
  | 14, 2 => decide (3 ≤ m)
  | 15, 2 => m % 4 != 0
  | 15, 3 => decide (4 ≤ m)
  | 16, 1 => m == 1
  | _, _ => false

def holdDefault (_ : Nat) : Nat := 0

/-- R371: the evaluations for which input `i` still holds level `l`: 60 s after the last that met it. -/
def State.holdLeft (s : State) (i l : Nat) : Nat :=
  if s.meets i l then 60001 else tblGet holdDefault s.health.holds (4 * i + l) - 1

/-- The inputs and their levels above 0. -/
def inputLevels : List (Nat × Nat) := (List.range 17).flatMap (fun i => [1, 2, 3].map (fun l => (i, l)))

/-- R371: one input evaluated into HEALTH_INPUT_i. -/
def State.showInput (s : State) (i : Nat) : State :=
  let lvl := ([1, 2, 3].filter (fun l => decide (0 < tblGet holdDefault s.health.holds (4 * i + l)))).foldl max 0
  (s.put (F.HEALTH_INPUT_LEVEL i) lvl).put (F.HEALTH_INPUT_VALUE i) (min 0x3FFFFFFF (s.measured i))

/-- R371 to R373: the risk level from the inputs, and how many ms it has held at 3 with AUTO_RECOVER 1. -/
def State.showRisk (s : State) : State :=
  let old := s.get F.HEALTH_RISK_LEVEL
  let lvl := ((List.range 17).map (fun i => s.get (F.HEALTH_INPUT_LEVEL i))).foldl max 0
  let inp := ((List.range 17).find? (fun i => s.get (F.HEALTH_INPUT_LEVEL i) == lvl)).getD 0
  let s := (s.put F.HEALTH_RISK_LEVEL lvl).put F.HEALTH_RISK_INPUT inp
  let held := decide (lvl = 3) && decide (old = 3) && s.flag F.HEALTH_CTL_AUTO_RECOVER
  let s := { s with health := { s.health with level3Ms := if held then s.health.level3Ms + 1 else 0 } }
  if lvl = old then s else (s.event 0x0530#16 srcPackage [(8, old), (8, lvl), (8, inp)]).raise 1

/-- R373, case 5: level 3 has held for GRACE_MS with AUTO_RECOVER set. -/
def State.graceCheck (s : State) : State :=
  if s.flag F.HEALTH_CTL_AUTO_RECOVER ∧ s.get F.HEALTH_RISK_LEVEL = 3 ∧ s.get F.HEALTH_CTL_GRACE_MS ≤ s.health.level3Ms then
    ({ s with health := { s.health with level3Ms := 0 } } : State).orderByWatchtower 5
  else s

/-- R371: every 1 ms. -/
def execWatchtowerEval (s : State) : Result :=
  let holds := inputLevels.filterMap (fun p =>
    let n := s.holdLeft p.1 p.2
    if n = 0 then none else some (4 * p.1 + p.2, n))
  let s := { s with health := { s.health with holds := holds } }
  .next (((List.range 17).foldl (fun (s : State) i => s.showInput i) s).showRisk.graceCheck)

/-- R371: every 1 s. -/
def Window.advance (w : Window) : Window := ⟨0, (w.now :: w.past).take 9⟩
def execWatchtowerWindowAdvance (s : State) : Result :=
  .next { s with health := { s.health with
    windows := (s.health.windows.map (fun e => (e.1, e.2.advance))).filter (fun e => e.2.total != 0) } }

/-- R373. -/
def execGraceExpiry (s : State) : Result := .next s.graceCheck

/-! ## The event recorder -/

/-- R379: a write of RECORDER_RD_SEL; one with GO while BUSY is 1 is ignored. -/
def State.recorderSelect (s : State) (w : Word) : State :=
  if goBit w then
    if s.lk.recorderRead.isSome then s
    else
      let s := (s.hostWrite R.RECORDER_RD_SEL w).on F.RECORDER_RD_STATUS_BUSY
      { s with lk := { s.lk with recorderRead := some (F.RECORDER_RD_SEL_INDEX.of w) } }
  else s.hostWrite R.RECORDER_RD_SEL w

/-- R379. -/
def execRecorderRead (w : Word) (s : State) : Result := .next (s.onLk (fun s => s.recorderSelect w))

/-- RECORDER_RD_WORD_k and RECORDER_RD_STATUS after a copy. -/
def State.showRecord (s : State) (bits : BitVec 256) (empty ecc : Bool) : State :=
  let s := (List.range 8).foldl (fun (s : State) k => s.setReg (R.RECORDER_RD_WORD k) (bits.extractLsb' (32 * k) 32)) s
  ((s.off F.RECORDER_RD_STATUS_BUSY).put F.RECORDER_RD_STATUS_EMPTY empty.toNat).put F.RECORDER_RD_STATUS_ECC ecc.toNat

/-- R357, R379: the firmware reads the words of the record at position `i`. -/
def State.readRecord (s : State) (i : Nat) : State :=
  let ws := s.health.sram.filter (fun w => w.memory == .lockkeeper && w.record.any (fun k => k.val == i))
  ws.foldl (fun s w => if w.double then (s.readWord w).loseRecord i else s.readWord w) s

/-- R379: the copy that was ordered is made. -/
def State.copyRecord (s : State) (i : Nat) : State :=
  let s := ({ s with lk := { s.lk with recorderRead := none } } : State).readRecord i
  let rs := s.health.records
  if rs.length ≤ i then s.showRecord 0 true false
  else match rs[rs.length - 1 - i]? with
    | some r => if r.unreadable then s.showRecord 0 false true else s.showRecord r.bits false false
    | none => s.showRecord 0 true false

/-- R379. -/
def execRecorderReadCopy (s : State) : Result :=
  .next (match s.lk.recorderRead with | some i => s.copyRecord i | none => s)

end Sys2Proof.Machine
end

