-- ==== Sys2Proof/Machine/LoadChecks.lean ====
section
/-! DEFINITION. The load checks of an image as a whole, in the order of Table 18-9: header (Table 18-8), quarantine, period,
shares, capacity, table room, claims, manifests; and the whole list. -/

namespace Sys2Proof.Machine

/-! ## The header -/

/-- A number of the image header (Table 18-8). -/
def imNum (im : Image) (o n : Nat) : Nat := ofLe ((im.raw.drop o).take n)
def imPeriod (im : Image) : Nat := imNum im 16 2
def imShare (im : Image) : Nat := imNum im 20 4
def imAddrTop (im : Image) : Nat := imNum im 24 8
def imBargeShare (im : Image) : Nat := imNum im 40 2

/-- R468: the image identifier. -/
def imIdent (im : Image) : BitVec 64 := BitVec.ofNat 64 (ofLe ((sha512 im.raw).take 8))

/-- Table 18-8: CHECK, over the image with its own four bytes taken as 0. -/
def imCheckOk (im : Image) : Bool :=
  imNum im 252 4 == (crc32c (im.raw.take 252 ++ List.replicate 4 0 ++ im.raw.drop 256)).toNat

/-- Table 18-9, code 0x01. -/
def checkHeader (im : Image) : Finding :=
  firstOf [need (imNum im 0 4 == 0x49585244) 0, need (imNum im 4 4 == 1) 4,
    need (imNum im 8 8 == im.raw.length && decide (im.raw.length ≤ 2 ^ 32)) 8, im.dirError, need (imCheckOk im) 252]

/-! ## What the module has free -/

/-- Table 18-9, code 0x02: R402, R403. -/
def State.checkQuarantine (s : State) (im : Image) : Finding :=
  match (List.range 16).find? (fun k => (s.get F.LK_QUAR_VALID_MAP).testBit k && s.reg64 (R.LK_QUAR k) == imIdent im) with
  | some k => some k
  | none => need (!s.lk.quarantineFull) 0xFF

/-- Table 18-9, codes 0x04 and 0x14: what other images leave of a total, and whether it is enough. -/
def checkRoom (total used asked : Nat) : Finding := need (decide (used + asked ≤ total)) (total - used)

/-- The window lists of an image's sluice tables. -/
def imWindowCount (im : Image) : Nat := (im.sluices.map (fun t => stWindows t.2)).sum

/-- R222: the sequence slots an image claims: each once, and of a length that a slot may have. -/
def slotsOk (im : Image) : Bool :=
  (im.seqSlots.map (·.1)).Nodup && im.seqSlots.all (fun q => q.2 % 256 == 0 && decide (256 ≤ q.2) && decide (q.2 ≤ 4194304))

/-- Table 18-9, code 0x06: the tables and stores over all the images, in order. -/
def checkStores (images : List Image) (im : Image) : Finding :=
  let total := fun (f : Image → Nat) => (images.map f).sum + f im
  firstOf [need (decide (total (fun i => i.tensors.length) ≤ 262144)) 0,
    need (decide (total (·.coarseCount) ≤ 65536) && decide (im.coarseFirst + im.coarseCount ≤ 65536)) 1,
    need (decide (total (·.cstatCount) ≤ 2097152) && decide (im.cstatFirst + im.cstatCount ≤ 2097152)) 2,
    need (decide (total imWindowCount ≤ 131072)) 3,
    need (decide (total (fun i => (i.kernels.map (·.count)).sum) ≤ 16384) &&
      decide (total (fun i => (i.kernels.map (·.constCount)).sum) ≤ 4096)) 4,
    need (decide (total (fun i => (i.groups.map (·.2)).sum) ≤ 1048576)) 5,
    need (decide (total (fun i => i.groups.length) ≤ 1024)) 6,
    need (slotsOk im) 7]

/-- R399: whether two images claim a table entry, a slot or a range of memory in common. -/
def claimsMeet (a b : Image) : Bool :=
  meets (a.coarseFirst, a.coarseCount) (b.coarseFirst, b.coarseCount) ||
  meets (a.cstatFirst, a.cstatCount) (b.cstatFirst, b.cstatCount) ||
  a.seqSlots.any (fun q => b.seqSlots.any (fun r => q.1 == r.1)) ||
  a.ropeTables.any (fun q => b.ropeTables.any (fun r => q.1 == r.1)) ||
  anyMeet ((a.widenBase, a.widenSize) :: arenaAreas a) ((b.widenBase, b.widenSize) :: arenaAreas b)

/-- Table 18-9, code 0x07: the lowest context whose claims meet the image's. -/
def State.checkClaims (s : State) (c : Nat) (im : Image) : Finding :=
  s.resident.find? (fun d => d != c && claimsMeet im (s.image d))

/-- Table 18-9, code 0x09: R51, and an id twice in one image. -/
def State.checkCodebooks (s : State) (c : Nat) (im : Image) : Finding :=
  im.codebooks.findSome? (fun k => need ((s.cbCheck c k.id ⟨k.base, k.entries⟩).1 == 0 &&
    (im.codebooks.map (·.id)).count k.id == 1) k.id)

/-- Table 18-9, code 0x0A. -/
def State.checkManifests (s : State) (im : Image) : Finding :=
  (imManifests im).findSome? (fun m =>
    need (manifestOk (s.windowClk 0) (imShare im) (imBargeShare im) m) (mhPlanPos m.header))

/-! ## The list -/

/-- Table 18-9: the checks of an image for context `c` in order, by code. Code 0x13 is an entry that breaks its row (R465). -/
def State.loadChecks (s : State) (c : Nat) (im : Image) : List (Nat × Finding) :=
  let others := (s.resident.filter (· != c)).map (fun d => s.image d)
  [(0x01, checkHeader im), (0x02, s.checkQuarantine im),
   (0x03, need (imPeriod im == s.get F.LOCK_PERIOD_PERIOD_US) (imPeriod im)),
   (0x04, checkRoom (s.windowClk 0) ((others.map imShare).sum) (imShare im)),
   (0x05, need (decide (imAddrTop im ≤ s.cap)) (s.cap / 2 ^ 30)), (0x06, checkStores others im), (0x07, s.checkClaims c im),
   (0x08, checkTensors s im), (0x09, s.checkCodebooks c im), (0x0A, s.checkManifests im), (0x0B, checkBarges s im),
   (0x0C, checkSteps im), (0x0D, checkSluices s others im), (0x0E, checkWidening s im), (0x0F, checkScales im),
   (0x10, checkEvals im), (0x11, checkStreams im), (0x12, checkSnapshots s others im),
   (0x14, checkRoom 4096 ((others.map imBargeShare).sum) (imBargeShare im)), (0x15, checkArena s im), (0x16, checkKernels im),
   (0x17, checkGroups im)]

/-- R468: code and DETAIL of the first check that fails; none when the image is accepted. -/
def State.loadRefusal (s : State) (c : Nat) (im : Image) : Option (Nat × Nat) :=
  (s.loadChecks c im).findSome? (fun p => p.2.map (fun d => (p.1, d)))

end Sys2Proof.Machine
end

