-- ==== Sys2Proof/Machine/Packets.lean ====
section
/-! DEFINITION. Packets (R320 to R337, R346): forwarding, PUT and PUT_ACK, schedules, stretch requests, aborts, agreements,
and the writes of the group table and of epochs (R336, R423). -/

namespace Sys2Proof.Machine

/-! ## Arrival -/

/-- R321: E2E_CRC is checked at the destination; a packet that fails is dropped and counted. -/
def State.checked (s : State) (pk : Packet) (f : State → State) : State :=
  if pkCrcOk pk then f s else s.count R.LINK_E2E_BAD 1

/-- Whether a packet is for this module. -/
def State.isMine (s : State) (pk : Packet) : Bool := pkDst pk == s.get F.LINK_ID_MODULE_ID

/-- R320, R321: the packet with HOPS decremented. -/
def nextHop (pk : Packet) : Packet := { pk with hdr := setHops pk.hdr (pkHops pk - 1) }

/-- R321: a packet that passes through and has no hop left is dropped and counted. -/
def State.passOn (s : State) (pk : Packet) (f : Packet → State → State) : State :=
  if pkHops pk = 0 then s.count R.LINK_E2E_BAD 1 else f (nextHop pk) s

/-- R322: a packet for another module that arrived on port `p`, on lane `vl`. -/
def State.forward (s : State) (p vl : Nat) (pk : Packet) : State :=
  s.passOn pk (fun pk s => s.routePacket (p / 16) vl pk)

/-- The kinds that are routed by DST; the sync kinds go from neighbour to neighbour. -/
def isRouted (kind : Nat) : Bool := kind == pkPut || kind == pkPutAck || kind == pkAgree || kind == pkMgmt

/-- R322: a packet that arrived on lane `vl` goes on by that lane. -/
def execPacketForward (p : PortId) (pk : LanePacket) (s : State) : Result :=
  .next (if isRouted (pkKind pk.packet) && !s.isMine pk.packet then s.forward p.val pk.vl.val pk.packet else s)

/-! ## PUT -/

/-- R336, R397: a packet of a stale epoch, or for a context in teardown, is dropped and counted. -/
def State.stale (s : State) (pk : Packet) : Bool :=
  decide (s.epoch (pkCtx pk) ≠ pkEpoch pk) || s.ctxState (pkCtx pk) == ctxTeardown

def State.dropStale (s : State) (c : Nat) : State :=
  (s.count R.LINK_EPOCH_DROP 1).updCtx c (fun x => { x with epochDrops := x.epochDrops + 1 })

/-- R337: whether a packet number of a stream has been received. -/
def State.hasPacket (s : State) (k : StreamKey) (n : Nat) : Bool :=
  s.link.streams.any (fun t => t.key == k && (t.packets.lookup n).isSome)

/-- R337: the place of the barge that a stream is for, once it has started. -/
def State.receiver (s : State) (k : StreamKey) : Option Nat :=
  (List.range s.lock.active.length).find? (fun i => match s.barge i with
    | some b => (b.cls == 5 || b.cls == 8) && (b.isRunning || b.state == .done) && s.feeds b k
    | none => false)

/-- R337: a PUT for this module, of the current epoch. -/
def State.takePut (s : State) (pk : Packet) : State :=
  let k := pkKey pk
  if s.hasPacket k (pkPkt pk) then s.count R.LINK_DUP_DROP 1
  else match s.receiver k with
    | some i =>
      let s := { s with link := { s.link with streams := putInto k false (pkPkt pk) pk.payload s.link.streams } }
      (s.ackPut k (pkPkt pk)).progress i
    | none =>
      if 2 ^ 27 < s.stagedBytes + pk.payload.length then s.count R.LINK_STAGE_FULL 1
      else { s with link := { s.link with streams := putInto k true (pkPkt pk) pk.payload s.link.streams } }

/-- R321, R336, R337. -/
def State.receivePut (s : State) (pk : Packet) : State :=
  s.checked pk (fun s => if s.stale pk then s.dropStale (pkCtx pk) else s.takePut pk)

/-- R337. -/
def execPut (_ : PortId) (pk : Packet) (s : State) : Result :=
  .next (if pkKind pk = pkPut ∧ s.isMine pk then s.receivePut pk else s)

/-- Whether a PUT sent is the one that an acknowledgement names. -/
def acks (pk : Packet) (o : Outgoing) : Bool :=
  pkDst o.packet == pkSrc pk && pkCtx o.packet == pkCtx pk && pkGroup o.packet == pkGroup pk &&
    pkBarge o.packet == pkBarge pk && pkPlanPos o.packet == pkPlanPos pk && pkStep o.packet == pkStep pk &&
    pkPhase o.packet == pkPhase pk && pkPkt o.packet == pkPkt pk

/-- R343: a PUT is acknowledged; barges that waited for it alone complete. -/
def State.takeAck (s : State) (pk : Packet) : State :=
  let s := { s with link := { s.link with outgoing := s.link.outgoing.filter (fun o => !acks pk o) } }
  (List.range s.lock.active.length).foldl (fun (s : State) i => match s.barge i with
    | some b => if b.isRunning && (b.cls == 5 || b.cls == 8) && b.ctx == pkCtx pk then s.tryFinish i else s
    | none => s) s

/-- R321, R336, R343. -/
def State.receiveAck (s : State) (pk : Packet) : State :=
  s.checked pk (fun s => if s.stale pk then s.dropStale (pkCtx pk) else s.takeAck pk)

/-- R343. -/
def execPutAck (_ : PortId) (pk : Packet) (s : State) : Result :=
  .next (if pkKind pk = pkPutAck ∧ s.isMine pk then s.receiveAck pk else s)

/-- R337: PUT `n` of this module's own count is still not acknowledged, and goes again by the route in force. -/
def execPutResend (n : Nat) (s : State) : Result :=
  .next (match s.link.outgoing.find? (fun o => o.id == n) with
  | some o => s.routePacket 0 o.lane o.packet
  | none => s)

/-! ## Schedules -/

/-- A little-endian field of a payload. -/
def plNum (pk : Packet) (at_ n : Nat) : Nat := ofLe ((pk.payload.drop at_).take n)

/-- A packet passed on to every child port. -/
def State.toChildren (s : State) (pk : Packet) : State :=
  s.passOn pk (fun pk s => s.childPorts.foldl (fun s q => if s.isUp q then s.queuePacket q 2 pk else s) s)

/-- R330: a schedule that came late or stale: `ns` after P − MAINT_US. -/
def State.noteLate (s : State) (index ns : Nat) : State :=
  (s.count R.LINK_SCHED_LATE 1).event 0x0406#16 srcPackage [(32, index), (32, ns)]

/-- R330: how long after P − MAINT_US of the interval that the tick at `t` opened it is, in ns; 0 before the first tick. -/
def State.lateBy (s : State) (t : Nat) : Nat :=
  if s.lock.fired then s.ftc - (t + s.period - 1000 * s.get F.LOCK_SLOTS_MAINT_US) else 0

/-- R330: whether the tick that a schedule for FTC `next` and index `index` announces has already fired: one under R37 that
has that index, or one that came less than a period before `next` (log 74). -/
def State.tickFired (s : State) (next index : Nat) : Bool :=
  s.lock.fired && (decide (next < s.lock.tick + s.period) || (s.lock.unannounced && s.index == index))

/-- R331: the master's index taken in place of the module's own, `own` being the one expected. -/
def State.takeIndex (s : State) (own index set : Nat) : State :=
  if own = index then s
  else
    let s := (s.event 0x0407#16 srcPackage [(32, own), (32, index)]).setReg64 R.LOCK_INDEX (BitVec.ofNat 64 set)
    if (List.range 8).any (fun c => s.flag (F.TRAIN_CTX_STATUS_IN_STEP c)) then s.overrun 2 else s

/-- R330, R331: a schedule for FTC `next`, index `index`, grant `g`, that arrives now. -/
def State.takeSched (s : State) (next index g : Nat) : State :=
  if s.tickFired next index then (s.noteLate index (s.lateBy s.lock.prevTick)).takeIndex s.index index index
  else if next ≤ s.ftc then (s.noteLate index (s.lateBy s.lock.tick)).takeIndex s.index index index
  else
    let s := s.takeIndex (s.index + 1) index (index + 2 ^ 64 - 1)
    let s : State := { s.setReg64 R.LOCK_NEXT_TICK (BitVec.ofNat 64 next) with
      lock := { s.lock with schedArrived := true } }
    if s.lock.fired ∧ s.lock.tick + s.period < s.ftc + 1000 * s.get F.LOCK_SLOTS_MAINT_US then
      s.noteLate index (s.lateBy s.lock.tick)
    else s.applyGrant g

/-- R330: a SCHED on the parent port in use. -/
def State.receiveSched (s : State) (p : Nat) (pk : Packet) : State :=
  if s.parentPort = some p then
    s.checked pk (fun s => (s.toChildren pk).takeSched (plNum pk 0 8) (plNum pk 8 8) (plNum pk 16 2))
  else s

/-- R330. -/
def execSched (p : PortId) (pk : Packet) (now : DWord) (s : State) : Result :=
  let s := s.at_ now.toNat
  .next (if pkKind pk = pkSched then s.receiveSched p.val pk else s)

/-- R328, R329: a STRETCH_REQ from a child. -/
def State.receiveStretch (s : State) (p : Nat) (pk : Packet) : State :=
  if s.childPorts.contains p then
    s.checked pk (fun s =>
      let need := plNum pk 0 2
      if s.flag F.LOCK_CTL_TICK_MASTER && s.lock.schedArrived then
        (s.count R.LINK_STRETCH_LATE 1).event 0x040A#16 srcPackage [(16, pkSrc pk), (16, need)]
      else s.holdNeed need)
  else s

/-- R328. -/
def execStretchReq (p : PortId) (pk : Packet) (now : DWord) (s : State) : Result :=
  let s := s.at_ now.toNat
  .next (if pkKind pk = pkStretch then s.receiveStretch p.val pk else s)

/-! ## Aborts -/

/-- R333: resident contexts that an ABORT names. -/
def State.abortNames (s : State) (group epoch : Nat) : List Nat :=
  s.resident.filter (fun c => s.jobGroupOf c == group && s.epoch c == epoch)

/-- R35, R333: an ABORT acted on: it is recorded, and ends the steps and plans under way that it names. -/
def State.actAbort (s : State) (src index : Nat) (cs : List Nat) : State :=
  if cs.isEmpty then s
  else
    let s := (({ s with lock := { s.lock with ended := true } } : State).on F.LOCK_EVENTS_ABORT_RX).event 0x0104#16 srcPackage [(16, src), (32, index)]
    let live := cs.filter (fun c => s.working.contains c && !(s.ctx c).stepAborted)
    if live.isEmpty then s else s.abortSteps live

/-- R333: what an ABORT says. -/
def abortId (pk : Packet) : AbortId := ⟨pkSrc pk, BitVec.ofNat 64 (plNum pk 6 8), plNum pk 0 2, plNum pk 2 4⟩

/-- R333: an ABORT is forwarded on every other up port, once for its sender and lock index. -/
def State.passAbort (s : State) (p : Nat) (pk : Packet) : State :=
  let id := abortId pk
  if s.link.abortsSeen.any (fun x => x.src == id.src && x.index == id.index) then s
  else s.passOn pk (fun pk s => s.upPorts.foldl (fun s q => if q = p then s else s.queuePacket q 2 pk) s)

/-- R333: an ABORT is forwarded and acted on; a second copy of one acted on says nothing new (log 75). -/
def State.takeAbort (s : State) (p : Nat) (pk : Packet) : State :=
  let id := abortId pk
  if s.link.abortsSeen.contains id ∨ id.src = s.get F.LINK_ID_MODULE_ID then s
  else
    let s := s.passAbort p pk
    let s := { s with link := { s.link with abortsSeen := s.link.abortsSeen ++ [id] } }
    s.actAbort id.src id.index.toNat (s.abortNames id.group id.epoch)

def State.receiveAbort (s : State) (p : Nat) (pk : Packet) : State := s.checked pk (fun s => s.takeAbort p pk)

/-- R333. -/
def execAbort (p : PortId) (pk : Packet) (s : State) : Result :=
  .next (if pkKind pk = pkAbort then s.receiveAbort p.val pk else s)

/-! ## Agreement (R346) -/

/-- The value agreed on, from the values of every rank. -/
def agreed (minimum : Bool) (vs : List (Nat × BitVec 64)) : BitVec 64 :=
  BitVec.ofNat 64 (match vs with
  | [] => 0
  | v :: vs => vs.foldl (fun a e => if minimum then min a e.2.toNat else max a e.2.toNat) v.2.toNat)

/-- An AGREE packet with a value goes to rank `r`. -/
def State.sendAgree (s : State) (g r : Nat) (v : BitVec 64) : State :=
  let c := s.get (F.LINK_GRP_CFG_CONTEXT g)
  s.sendPacket 1 {
    dst := s.member g r, kind := pkAgree, ctx := c, group := g
    epoch := s.epoch c, payload := leBytes 8 v.toNat }

/-- The agreement ends with a code. -/
def State.endAgree (s : State) (code : Nat) : State :=
  ({ s with link := { s.link with agreement := none } } : State).off F.LINK_AGREE_RESULT_BUSY |>.put F.LINK_AGREE_RESULT_CODE code

/-- The agreement ends with its result. -/
def State.agreeDone (s : State) (v : BitVec 64) : State := (s.setReg64 R.LINK_AGREE_OUT v).endAgree 0

/-- Rank 0 with every value returns the result to every member. -/
def State.tryAgree (s : State) : State :=
  match s.link.agreement with
  | none => s
  | some a =>
    if s.groupRank a.group = 0 ∧ (List.range (s.groupSize a.group)).all (fun r => (a.values.lookup r).isSome) then
      let v := agreed a.minimum a.values
      let s := (List.range (s.groupSize a.group)).foldl (fun (s : State) r => if r = 0 then s else s.sendAgree a.group r v) s
      s.agreeDone v
    else s

/-- A value of rank `r` taken into the agreement under way. -/
def State.addValue (s : State) (r : Nat) (v : BitVec 64) : State :=
  match s.link.agreement with
  | some a =>
    let a := { a with values := a.values.filter (fun e => e.1 != r) ++ [(r, v)] }
    { s with link := { s.link with agreement := some a } }
  | none => s

/-- The agreement starts; rank 0 takes the values that came before. -/
def State.startAgree (s : State) (g : Nat) (minimum : Bool) : State :=
  let v := s.reg64 R.LINK_AGREE_IN
  let r := s.groupRank g
  let mine := s.link.early.filter (fun e => e.1 == g)
  let s : State := { s.on F.LINK_AGREE_RESULT_BUSY with link := { s.link with
    agreement := some ⟨g, minimum, [(r, v)]⟩
    early := s.link.early.filter (fun e => e.1 != g) } }
  if r = 0 then (mine.foldl (fun s e => s.addValue e.2.1 e.2.2) s).tryAgree else s.sendAgree g 0 v

/-- A write of LINK_AGREE_CTL; one with GO while BUSY is 1 is ignored. -/
def State.agreeCtl (s : State) (w : Word) : State :=
  if !goBit w then s.hostWrite R.LINK_AGREE_CTL w
  else if s.link.agreement.isSome then s
  else
    let s := s.hostWrite R.LINK_AGREE_CTL w
    let g := F.LINK_AGREE_CTL_GROUP.of w
    let op := F.LINK_AGREE_CTL_OP.of w
    if 2 ≤ op then s.put F.LINK_AGREE_RESULT_CODE 3
    else if !s.flag (F.LINK_GRP_CFG_VALID g) then s.put F.LINK_AGREE_RESULT_CODE 2
    else s.startAgree g (op == 1)

/-- R346. -/
def execAgreementMax (w : Word) (s : State) : Result := .next (s.onDies (fun s => s.agreeCtl w))
/-- R346. -/
def execAgreementMin (w : Word) (s : State) : Result := .next (s.onDies (fun s => s.agreeCtl w))

/-- The rank of module `m` in group `g`. -/
def State.rankOf (s : State) (g m : Nat) : Option Nat := (List.range (s.groupSize g)).find? (fun r => s.member g r == m)

/-- R346: an AGREE packet of group `g` from rank `r`. -/
def State.takeAgree (s : State) (g r : Nat) (v : BitVec 64) : State :=
  let busy := s.link.agreement.any (fun a => a.group == g)
  if s.groupRank g = 0 then
    if busy then (s.addValue r v).tryAgree
    else { s with link := { s.link with
      early := s.link.early.filter (fun e => e.1 != g || e.2.1 != r) ++ [(g, r, v)] } }
  else if busy ∧ r = 0 then s.agreeDone v else s

def State.receiveAgree (s : State) (pk : Packet) : State :=
  s.checked pk (fun s =>
    if s.flag (F.LINK_GRP_CFG_VALID (pkGroup pk)) then
      match s.rankOf (pkGroup pk) (pkSrc pk) with
      | some r => s.takeAgree (pkGroup pk) r (BitVec.ofNat 64 (plNum pk 0 8))
      | none => s
    else s)

/-- R346. -/
def execAgree (_ : PortId) (pk : Packet) (s : State) : Result :=
  .next (if pkKind pk = pkAgree ∧ s.isMine pk then s.receiveAgree pk else s)

/-- R346: the members whose value, at rank 0, or whose result, elsewhere, did not arrive. -/
def State.agreeMissing (s : State) (a : Agreement) : List Nat :=
  if s.groupRank a.group = 0 then (List.range (s.groupSize a.group)).filter (fun r => (a.values.lookup r).isNone) else [0]

/-- R346: the agreement has not completed within COLL_MS. -/
def execAgreementTimeout (s : State) : Result :=
  .next (match s.link.agreement with
  | some a =>
    let m := s.agreeMissing a
    let s := ((s.endAgree 1).put F.LINK_AGREE_RESULT_MISSING m.length).put F.LINK_AGREE_FIRST_FIRST_MISSING (m.headD 0)
    s.event 0x0409#16 srcPackage [(16, a.group), (16, m.headD 0), (16, m.length)]
  | none => s)

/-! ## The group table and epochs -/

/-- R423: the bound group that a write touches and whose context is in a step. -/
def State.lockedGroup (s : State) : GroupWrite → Option Nat
  | .cfg g | .mem g =>
    if s.flag (F.LINK_GRP_CFG_VALID g.val) && s.flag (F.TRAIN_CTX_STATUS_IN_STEP (s.get (F.LINK_GRP_CFG_CONTEXT g.val))) then
      some g.val else none
  | .member e => (List.range 1024).find? (fun g =>
      let first := s.get (F.LINK_GRP_MEM_MEMBER_FIRST g)
      s.flag (F.LINK_GRP_CFG_VALID g) && decide (first ≤ e.val) && decide (e.val < first + s.groupSize g) &&
        s.flag (F.TRAIN_CTX_STATUS_IN_STEP (s.get (F.LINK_GRP_CFG_CONTEXT g))))

/-- The write itself; a member-store entry takes the low half of the word. -/
def State.groupWrite (s : State) (w : Word) : GroupWrite → State
  | .cfg g => s.hostWrite (R.LINK_GRP_CFG g.val) w
  | .mem g => s.hostWrite (R.LINK_GRP_MEM g.val) w
  | .member e => { s with link := { s.link with members := tblSet memberDefault s.link.members e.val (w.extractLsb' 0 16) } }

/-- R423: a write of the group table or the member store; one to a group in use by a running step is refused. -/
def State.writeGroup (s : State) (t : GroupWrite) (w : Word) : State :=
  match s.lockedGroup t with
  | some g =>
    let c := s.get (F.LINK_GRP_CFG_CONTEXT g)
    s.event 0x061C#16 (srcCtx c) [(16, g), (8, c)]
  | none => s.groupWrite w t
def execGroupTableWrite (t : GroupWrite) (w : Word) (s : State) : Result := .next (s.onDies (fun s => s.writeGroup t w))

/-- R336, Table 12-14: a write of LINK_CTX_EPOCH_n while a plan of the context runs is ignored; one that changes the epoch
makes what the old one sent and received stale, and abandons an export (R414). -/
def State.writeEpoch (s : State) (c : Nat) (w : Word) : State :=
  if s.working.contains c || s.reg (R.LINK_CTX_EPOCH c) == w then s
  else ((s.dropStreams c).setReg (R.LINK_CTX_EPOCH c) w).dropExport c 1
def execCtxEpochWrite (c : CtxId) (w : Word) (s : State) : Result := .next (s.onDies (fun s => s.writeEpoch c.val w))

/-! ## What a module does with a packet it has received -/

/-- A packet that has arrived whole on port `p`, lane `vl`. The spec gives management messages no layout: of one that
arrives in flits only the check of R321 shows; what one says is an operand of MGMT (log 37). -/
def State.packetIn (s : State) (p vl : Nat) (pk : Packet) : State :=
  let k := pkKind pk
  if k = pkSched then s.receiveSched p pk
  else if k = pkStretch then s.receiveStretch p pk
  else if k = pkAbort then s.receiveAbort p pk
  else if !isRouted k then s
  else if !s.isMine pk then s.forward p vl pk
  else if k = pkPut then s.receivePut pk
  else if k = pkPutAck then s.receiveAck pk
  else if k = pkAgree then s.receiveAgree pk
  else s.checked pk (fun s => s)

end Sys2Proof.Machine
end

