-- ==== Sys2Proof/Machine/Link.lean ====
section
/-! DEFINITION. The link layer (R313 to R319, R324, R325, R327): flits received, replay, links going down and up, partners,
TIME flits and equalisation. -/

namespace Sys2Proof.Machine

/-! ## Links going down and up -/

/-- R317: no flit with a passing CRC for 10 µs. -/
def execLinkSilence (p : PortId) (s : State) : Result :=
  .next (if (s.port p.val).helloSent then s.linkDown p.val 2 else s)

/-- R317. -/
def execLinkTrainingFailed (p : PortId) (s : State) : Result :=
  .next (if (s.port p.val).training then s.linkDown p.val 0 else s)

/-- R317: an enabled port that is down starts training again. -/
def execLinkRetrain (p : PortId) (s : State) : Result :=
  .next (if s.portEnabled p.val && (s.port p.val).phase == portDown then
    (s.setPort p.val { training := true }).setPortState p.val portTraining
  else s)

/-- R324. -/
def execLinkUp (p : PortId) (s : State) : Result :=
  .next (if (s.port p.val).training then s.linkUp p.val else s)

/-! ## Flits -/

/-- The port's link is up to carrying flits: it has trained, whether or not its partner is accepted. -/
def State.hears (s : State) (p : Nat) : Bool := (s.port p).helloSent

/-- R315: a discarded flit is counted. -/
def State.badFlit (s : State) (p : Nat) : State := s.count (R.LINK_P_CRC_ERR (p / 16) (p % 16)) 1

/-- R312: a flit arrives at port `p`: eight more blocks are in, and when one of them begins a codeword, `errors` symbols of
that codeword are wrong: up to 15 of the 544 are corrected, more make it uncorrectable (log 73). -/
def State.takeBlocks (s : State) (p errors : Nat) : State :=
  let x := s.port p
  let begins := x.rxBlock == 0 || decide (codewordBlocks < x.rxBlock + 8)
  let s := s.setPort p { x with
    rxBlock := (x.rxBlock + 8) % codewordBlocks, rxErrors := if begins then errors else x.rxErrors }
  if !begins || errors == 0 then s
  else if errors ≤ 15 then s.count (R.LINK_P_FEC_CORR (p / 16) (p % 16)) 1
  else s.count (R.LINK_P_FEC_UNCORR (p / 16) (p % 16)) 1

/-- R312: whether a flit that arrives now touches an uncorrectable codeword: the one under way, or one that begins in it. -/
def Port.spoils (x : Port) (errors : Nat) : Bool :=
  (x.rxBlock != 0 && decide (15 < x.rxErrors)) ||
    ((x.rxBlock == 0 || decide (codewordBlocks < x.rxBlock + 8)) && decide (15 < errors))

/-- R312, R315: a flit arrives at port `p`: `good` when it passes its CRC, `bad` when it is discarded. -/
def State.flitIn (s : State) (p errors : Nat) (f : BitVec 2048) (good bad : State → State) : State :=
  if !s.hears p then s
  else
    let spoilt := (s.port p).spoils errors
    let s := s.takeBlocks p errors
    if spoilt || !flitOk f then bad (s.badFlit p) else good s

/-- Replay entries that an ACK does not cover. -/
def unacked (replay : List Unacked) (ack : Nat) : List Unacked :=
  if replay.any (fun e => e.seq == ack) then (replay.dropWhile (fun e => e.seq != ack)).drop 1 else replay

/-- R315, R316, R318: the ACK and credit fields of a good flit. -/
def State.takeLinkFields (s : State) (p : Nat) (f : BitVec 2048) : State :=
  let s := s.updPort p (fun x =>
    { x with
      replay := unacked x.replay (flAck f)
      credits := tblSet laneBuffer x.credits (flCrVl f) (x.credit (flCrVl f) + flCrCount f) })
  s.pump p (s.port p).waiting.length

/-- R316: one NAK for the sequence number expected. -/
def State.sendNak (s : State) (p : Nat) : State :=
  let x := s.port p
  if x.nakSent || x.equalising then s
  else (s.setPort p { x with nakSent := true }).sendControl p 1 (leBytes 2 x.rxSeq)

/-- The bytes of a lane's packet so far. -/
def partsDefault (_ : Nat) : List Byte := []

/-- A packet from its bytes. -/
def packetOf (bs : List Byte) : Packet := ⟨BitVec.ofNat 256 (ofLe (bs.take 32)), bs.drop 32⟩

/-- R316, R318: a DATA flit accepted in order: it joins its packet, its buffer is freed, and a packet that it ends is
dealt with. An IDLE flit carries the ACK and the credit back (log 38). -/
def State.acceptData (s : State) (p : Nat) (f : BitVec 2048) : State :=
  let x := s.port p
  let vl := flVl f
  let bs := (if flSop f then [] else tblGet partsDefault x.parts vl) ++ flPayload f (flLen f)
  let s := s.setPort p { x with
    rxSeq := (x.rxSeq + 1) % 4096
    nakSent := false
    owed := tblSet owedDefault x.owed vl (x.owes vl + 1)
    parts := tblSet partsDefault x.parts vl (if flEop f then [] else bs) }
  let s := s.sendFlit p 0 0 false false 0 []
  if flEop f then s.packetIn p vl (packetOf bs) else s

/-- R315, R316, R324, R325: a good DATA flit arrives on port `p`. -/
def State.takeData (s : State) (p : Nat) (f : BitVec 2048) : State :=
  if flType f ≠ 1 || (s.port p).equalising || !s.isUp p then s
  else
    let s := s.takeLinkFields p f
    if flSeq f = (s.port p).rxSeq then s.acceptData p f else s.sendNak p

/-- R316. -/
def execDataFlit (p : PortId) (f : Arrival) (s : State) : Result :=
  .next (s.flitIn p.val f.errors f.flit (fun s => s.takeData p.val f.flit) (fun s => s.sendNak p.val))

/-- R325: whether port `p` accepts a CONTROL flit of a kind: during its equalisation step, TIME and EQ alone. -/
def State.heeds (s : State) (p kind : Nat) : Bool := !(s.port p).equalising || decide (3 ≤ kind)

/-- R315: a flit of TYPE `ty`, and for a CONTROL flit of KIND `kind`: a bad one is discarded; a good one that the port
accepts has its ACK and credits taken and then does `g`. -/
def State.controlIn (s : State) (p errors ty kind : Nat) (f : BitVec 2048) (g : State → State) : State :=
  s.flitIn p errors f
    (fun s =>
      if flType f ≠ ty ∨ (ty = 2 ∧ (flKind f ≠ kind ∨ !s.heeds p kind)) then s else g (s.takeLinkFields p f))
    (fun s => s)

/-- R315. -/
def execIdleFlit (p : PortId) (f : Arrival) (s : State) : Result :=
  .next (s.controlIn p.val f.errors 0 0 f.flit (fun s => s))

/-- Bytes of a CONTROL flit's content as a number. -/
def flNum (f : BitVec 2048) (at_ n : Nat) : Nat := ofLe ((List.range n).map (fun i => recByte f (at_ + i)))

/-- R316, R317: every unacknowledged flit from sequence number `n` on is sent again; the eighth replay of one of them takes
the link down. -/
def State.resend (s : State) (p n : Nat) : State :=
  let x := s.port p
  let again := x.replay.dropWhile (fun e => e.seq != n)
  if again.isEmpty then s
  else
    let s := (s.count (R.LINK_P_REPLAYS (p / 16) (p % 16)) 1).measure 9 1
    let s := s.setPort p { x with replay := x.replay.takeWhile (fun e => e.seq != n) }
    let s := again.foldl (fun (s : State) e => s.sendData p e.seq (e.times + 1) e.flit) s
    if again.any (fun e => decide (7 ≤ e.times)) then s.linkDown p 1 else s

/-- R316. -/
def execNak (p : PortId) (f : Arrival) (s : State) : Result :=
  .next (s.controlIn p.val f.errors 2 1 f.flit (fun s => s.resend p.val (flNum f.flit 9 2)))

/-! ## Partners -/

/-- R324. -/
def execHello (p : PortId) (f : Arrival) (s : State) : Result :=
  .next (s.controlIn p.val f.errors 2 2 f.flit (fun s =>
    s.meet p.val (flNum f.flit 9 2 % 8192) (flNum f.flit 11 2) (flNum f.flit 13 1 % 32)))

/-- R324: a write of 1 to LINK_PORT_CTL_p.ACCEPT. -/
def State.acceptPartner (s : State) (p : Nat) : State :=
  match (s.port p).newPartner with
  | some n => if (s.port p).phase = portHeldPartner then s.partnerUp p (n.toNat % 2 ^ 16) (n.toNat / 2 ^ 16) else s
  | none => s
def execPortAccept (p : PortId) (s : State) : Result := .next (s.onDies (fun s => s.acceptPartner p.val))

/-! ## Fabric time -/

/-- R327: an estimate of twice the offset from the parent, in ns. A module that is locked slews its FTC by at most 1 ns in
the 10 µs of an exchange; one that is not locked steps it (log 39). -/
def State.takeEstimate (s : State) (twice : Int) : State :=
  let size := twice.natAbs
  let locked := s.flag F.LOCK_STATUS_FTC_LOCKED
  let off := twice / 2
  let move : Int := if locked then max (-1) (min 1 off) else off
  let s := s.setReg64 R.LOCK_FTC (BitVec.ofInt 64 ((s.ftc : Int) + move))
  let s := { s with link := { s.link with
    worstOffset := max s.link.worstOffset ((size + 1) / 2)
    goodEstimates := if size ≤ 3 then s.link.goodEstimates + 1 else 0 } }
  if 10 < size then s.unlockFtc
  else if 16 ≤ s.link.goodEstimates then s.on F.LOCK_STATUS_FTC_LOCKED else s

/-- R327: a TIME flit: on the parent port in use it ends an exchange; on another port it is answered. -/
def State.timeIn (s : State) (p left arrived : Nat) : State :=
  let now := s.ftc
  let sent := (s.port p).timeSent
  let s := s.updPort p (fun x => { x with timeIn := now, timeSent := none })
  if s.parentPort = some p then
    match sent with
    | some t => s.takeEstimate (((arrived : Int) - t) + ((left : Int) - now))
    | none => s
  else s.sendControl p 3 (leBytes 8 now ++ leBytes 8 now)

/-- R327. -/
def execTime (p : PortId) (f : Arrival) (now : DWord) (s : State) : Result :=
  let s := s.at_ now.toNat
  .next (s.controlIn p.val f.errors 2 3 f.flit (fun s => s.timeIn p.val (flNum f.flit 9 8) (flNum f.flit 17 8)))

/-! ## Equalisation -/

/-- R314: an EQ flit: the port keeps the coefficient request or status of bytes 9 to 16 (log 72). -/
def execEq (p : PortId) (f : Arrival) (s : State) : Result :=
  .next (s.controlIn p.val f.errors 2 4 f.flit (fun s =>
    s.updPort p.val (fun x => { x with eqIn := BitVec.ofNat 64 (flNum f.flit 9 8) })))

/-- R325: an equalisation step ends, and the DATA flits held go out. -/
def State.endEqualisation (s : State) (p : Nat) : State :=
  let s := s.updPort p (fun x => { x with equalising := false })
  let s := { s with link := { s.link with eqPort := none } }
  s.pump p (s.port p).waiting.length
def execEqualisationStepEnd (p : PortId) (s : State) : Result :=
  .next (if s.link.eqPort = some p.val then s.endEqualisation p.val else s)

end Sys2Proof.Machine
end

