-- ==== Sys2Proof/Machine/Snapshot.lean ====
section
/-! DEFINITION. Snapshots (R409 to R422): the commands of LK_SNAP_CMD, captures that complete or expire, exports, ward
copies, seals and restores. -/

namespace Sys2Proof.Machine

/-! ## LK_SNAP_RESULT -/

/-- A snapshot command ends with a code, and vector 3 is raised (R461). -/
def State.snapDone (s : State) (code : Nat) : State :=
  let s := { s with lk := { s.lk with snapRun := none } }
  ((s.off F.LK_SNAP_RESULT_BUSY).put F.LK_SNAP_RESULT_CODE code).raise 3

/-- A snapshot command goes on. -/
def State.snapWait (s : State) (cmd c : Nat) : State :=
  { s.on F.LK_SNAP_RESULT_BUSY with lk := { s.lk with snapRun := some ⟨cmd, ⟨c % 8, Nat.mod_lt _ (by decide)⟩⟩ } }

/-- The context of the command `cmd` in progress. -/
def State.snapIn (s : State) (cmd : Nat) : Option Nat :=
  match s.lk.snapRun with
  | some r => if r.cmd = cmd then some r.ctx.val else none
  | none => none

/-! ## Slots -/

/-- Whether local slot `j` of context `c` holds a whole generation. -/
def State.hasGen (s : State) (c j : Nat) : Bool :=
  (s.ctx c).image.isSome && (s.image c).snapBase.isSome && genValid (s.image c) (s.slotHeader c j) &&
    (s.ctx c).capture.all (fun k => k.slot != j)

/-- The local slot of the newest generation. -/
def State.newestGen (s : State) (c : Nat) : Option Nat :=
  match s.hasGen c 0, s.hasGen c 1 with
  | true, true => some (if genStep (s.slotHeader c 0) < genStep (s.slotHeader c 1) then 1 else 0)
  | true, false => some 0
  | false, true => some 1
  | false, false => none

/-- FLAGS of slot `j`'s header written. -/
def State.setFlags (s : State) (c j flags : Nat) : State := s.writeAt (slotAddr (s.image c) j + 4) (leBytes 4 flags)

/-! ## Captures -/

/-- R410: the capture completes: the generation is in its slot. One whose arena cannot be read whole is abandoned (R293,
log 85). -/
def execCaptureComplete (c : CtxId) (s : State) : Result :=
  .next (match (s.ctx c.val).capture with
  | some k =>
    let x := s.firmwareReads (s.arenaRegion c.val)
    let s := x.1
    if !x.2 then s.abandonCapture c.val
    else
    let s := s.writeAt (slotAddr (s.image c.val) k.slot) (s.generation c.val k.ftc)
    let s := s.put (F.LK_SNAP_SLOT_STATE c.val k.slot) 2
    s.updCtx c.val (fun x => { x with capture := none })
  | none => s)

/-- R412. -/
def execCaptureGapExpiry (c : CtxId) (s : State) : Result := .next (s.abandonCapture c.val)

/-! ## Buddies and exports -/

/-- R413: the module named as buddy. -/
def State.buddy (s : State) (c : Nat) : Nat := s.get (F.LK_SNAP_BUDDY_MODULE c)

def State.setBuddy (s : State) (c : Nat) (ok : Bool) : State := s.updCtx c (fun x => { x with buddyOk := ok })

/-- R413: the buddy is accepted, with a warning for a cause where there is one. -/
def State.acceptBuddy (s : State) (c : Nat) (warning : Option Nat) : State :=
  let s := s.setBuddy c true
  (match warning with
  | some w => s.event 0x0614#16 (srcCtx c) [(8, c), (8, w), (16, s.buddy c)]
  | none => s).snapDone 0

/-- The buddy is refused: an export to it is abandoned. -/
def State.refuseBuddy (s : State) (c code : Nat) : State := ((s.setBuddy c false).dropExport c 2).snapDone code

/-- R413: the decision on a buddy with these tags, power feed and cooling loop. -/
def State.judgeBuddy (s : State) (c : Nat) (tags : Word × Word) : State :=
  let power := s.reg R.BOOT_POWER_FEED
  let cooling := s.reg R.BOOT_COOLING_LOOP
  if power ≠ 0 ∧ power = tags.1 then
    (s.event 0x0615#16 (srcCtx c) [(8, c), (16, s.buddy c), (32, power.toNat)]).refuseBuddy c 0x0D
  else if power = 0 ∨ tags.1 = 0 then s.acceptBuddy c (some 0)
  else if cooling ≠ 0 ∧ cooling = tags.2 then s.acceptBuddy c (some 1)
  else s.acceptBuddy c none

/-- R413: command 4; tags of a buddy that answers at once come with it. With no buddy named, none is accepted. -/
def State.bindBuddy (s : State) (c : Nat) (tags : Option (Word × Word)) : State :=
  if !s.flag (F.LK_SNAP_BUDDY_VALID c) then (s.setBuddy c false).snapDone 0
  else match tags with
    | some t => s.judgeBuddy c t
    | none => s.snapWait 4 c

/-- R413: a management packet; one from the buddy that is awaited, with its tags, ends the command. -/
def State.takeTags (s : State) (src : Nat) (tags : Option (Word × Word)) : State :=
  match s.snapIn 4, tags with
  | some c, some t => if s.buddy c = src then s.judgeBuddy c t else s
  | _, _ => s
def execMgmt (_ : PortId) (pk : Packet) (tags : Option (Word × Word)) (s : State) : Result :=
  .next (if pkKind pk = pkMgmt ∧ s.isMine pk then s.checked pk (fun s => s.takeTags (pkSrc pk) tags) else s)

/-- R413. -/
def execBuddyTimeout (s : State) : Result :=
  .next (match s.snapIn 4 with | some c => s.refuseBuddy c 0x0A | none => s)

/-- R414: the slot to export: COMPLETE and not HELD, the newest first. -/
def State.exportSlot (s : State) (c : Nat) : Option Nat :=
  let st := fun j => s.get (F.LK_SNAP_SLOT_STATE c j)
  if st 0 = 2 ∧ st 1 = 2 then s.newestGen c
  else if st 0 = 2 then some 0 else if st 1 = 2 then some 1 else none

/-- R414: an export starts: the generation leaves for the buddy (log 40), where every sector of it can be read (log 85). -/
def execSnapshotExport (c : CtxId) (s : State) : Result :=
  let x := s.ctx c.val
  .next (match x.image, x.exporting, s.exportSlot c.val with
  | some _, none, some j =>
    if x.buddyOk then
      let r := s.firmwareReads (slotRegion (s.image c.val) j)
      let s := r.1
      if !r.2 then s else
      let s := s.emit (.snapshotSend (s.buddy c.val) (s.slotGen c.val j))
      (s.updCtx c.val (fun x => { x with exporting := some j })).put (F.LK_SNAP_SLOT_STATE c.val j) 3
    else s
  | _, _, _ => s)

/-- R414: the buddy has acknowledged. -/
def execExportAck (c : CtxId) (s : State) : Result :=
  .next (match (s.ctx c.val).exporting with
  | some j =>
    let h := s.slotHeader c.val j
    let s := (s.setFlags c.val j (genFlags h ||| 2)).put (F.LK_SNAP_SLOT_STATE c.val j) 4
    let s := s.updCtx c.val (fun x => { x with exporting := none })
    s.event 0x0612#16 (srcCtx c.val) [(8, c.val), (8, j), (32, genStep h)]
  | none => s)

/-- R414: whether ward slot `j` holds the newest sealed ward generation. -/
def State.wardKept (s : State) (c j : Nat) : Bool :=
  let st := fun i => s.get (F.LK_SNAP_WSLOT_STATE c i)
  let step := fun i => genStep (s.slotHeader c (2 + i))
  st j == 5 && (st (1 - j) != 5 || decide (step (1 - j) ≤ step j))

/-- R414: an export for ward slot `j` of context `c` has come whole. -/
def State.takeWard (s : State) (c j : Nat) (g : List Byte) : State :=
  if g.length ≠ slotBytes (s.image c) ∨ s.wardKept c j then s
  else
    let a := slotAddr (s.image c) (2 + j)
    if digestOk g then
      let s := (s.writeAt a g).setWardSlot c j (if genSealed g then 5 else 4) (genStep g)
      s.emit (.snapshotAck j)
    else (s.writeAt a (List.replicate 8 0 ++ g.drop 8)).setWardSlot c j 0 0

/-- R416: a sealed header replaces that of the copy it belongs to. -/
def State.takeSealed (s : State) (c j : Nat) (h : List Byte) : State :=
  let old := s.slotHeader c (2 + j)
  if genSealed h ∧ (h.drop 176).take 64 = (old.drop 176).take 64 ∧ s.get (F.LK_SNAP_WSLOT_STATE c j) = 4 then
    ((s.writeAt (slotAddr (s.image c) (2 + j)) h).put (F.LK_SNAP_WSLOT_STATE c j) 5).emit (.snapshotAck j)
  else s

/-- R414, R416: what the ward of context `c` sends has come whole: a generation, or the 1,024 bytes of a sealed header. -/
def execWardCopyReceived (c : CtxId) (slot : Fin 2) (bytes : List Byte) (s : State) : Result :=
  .next (if (s.ctx c.val).image.isSome ∧ (s.image c.val).snapBase.isSome ∧ s.flag (F.LK_SNAP_WARD_VALID c.val) then
    if bytes.length = 1024 then s.takeSealed c.val slot.val bytes else s.takeWard c.val slot.val bytes
  else s)

/-! ## Seals -/

/-- R416: the slot is sealed. -/
def State.sealed (s : State) (c j : Nat) : State :=
  let s := s.put (F.LK_SNAP_SLOT_STATE c j) 5
  (s.event 0x0613#16 (srcCtx c) [(8, c), (8, j), (32, genStep (s.slotHeader c j))]).snapDone 0

/-- R416: SEALED set and the header signed. -/
def State.signSlot (s : State) (c j : Nat) : State :=
  let s := s.setFlags c j (genFlags (s.slotHeader c j) ||| 4)
  s.writeAt (slotAddr (s.image c) j + 256) (Config.identitySign ((s.slotHeader c j).take 256))

/-- R416, R454: command 2. With no generation, or none whose header can be read, there is nothing to seal: code 0x02
(log 42). -/
def State.orderSeal (s : State) (c : Nat) : State :=
  match s.newestGen c with
  | none => s.snapDone 2
  | some j =>
    let x := s.firmwareReads (headerRegion (s.image c) j)
    let s := x.1
    if !x.2 then s.snapDone 2
    else if s.flag F.LK_STATUS_SEC_OUT then s.snapDone 6
    else if genSealed (s.slotHeader c j) then s.snapDone 0
    else
      let s := s.signSlot c j
      if s.flag (F.LK_SNAP_BUDDY_VALID c) then
        let s := s.emit (.snapshotSend (s.buddy c) (s.slotHeader c j))
        ({ s with lk := { s.lk with snapRun := none } } : State).snapWait 2 c |>.updCtx c (fun x => { x with sealing := some j })
      else s.sealed c j

/-- R416: the buddy has acknowledged. -/
def execSealAck (s : State) : Result :=
  .next (match s.snapIn 2 with
  | some c => match (s.ctx c).sealing with
    | some j => (s.updCtx c (fun x => { x with sealing := none })).sealed c j
    | none => s
  | none => s)

/-- R416: without the acknowledgement the generation is not sealed. -/
def State.unseal (s : State) (c j : Nat) : State :=
  let s := s.setFlags c j (genFlags (s.slotHeader c j) % 4 + genFlags (s.slotHeader c j) / 8 * 8)
  s.writeAt (slotAddr (s.image c) j + 256) (List.replicate 512 0)
def execSealTimeout (s : State) : Result :=
  .next (match s.snapIn 2 with
  | some c => match (s.ctx c).sealing with
    | some j => ((s.updCtx c (fun x => { x with sealing := none })).unseal c j).snapDone 0x0A
    | none => s
  | none => s)

/-! ## Restores -/

/-- Table 16-3, code 0x08: every group of the generation's GROUPS section is bound with the same size and rank. -/
def State.groupsMatch (s : State) (c : Nat) : Nat → List Byte → Bool
  | 0, _ => true
  | n + 1, bs =>
    if bs.isEmpty then true
    else
      let g := genNum bs 0 2
      let size := genNum bs 2 2
      decide (g < 1024) && s.groupBound c g size && s.groupRank g == genNum bs 4 2 &&
        s.groupsMatch c n (bs.drop (16 + alignUp 16 (2 * size)))

/-- Table 16-3: lengths of ARENA, HISTORY and CSTAT. -/
def sizesMatch (im : Image) (g : List Byte) : Bool :=
  (genSections im).all (fun (k, n) => decide (3 < k) || (genSection g k).length == n)

/-- R418: where the identity certificate is staged. -/
def State.certRegion (s : State) : Nat × Nat := ((s.reg64 R.LK_SNAP_CERT_ADDR).toNat, 16384)

/-- Table 16-3: the first check that fails for a generation given as bytes; 0 when it is restored. A remote generation
must be this member's own: one of another group or rank is none (code 0x02; log 42). `whole`: every byte of it could be read;
`certRead`: every byte of the certificate could (log 85). -/
def State.restoreCheck (s : State) (c : Nat) (g : List Byte) (whole certRead : Bool) : Nat :=
  let im := s.image c
  let ov := s.flag F.LK_SNAP_RESTORE_SRC_OVERRIDE
  let remote := s.flag F.LK_SNAP_RESTORE_SRC_REMOTE
  let own := genNum g 40 2 == jobGroup im && genNum g 42 2 == s.groupRank (jobGroup im)
  let cert := s.bytes s.certRegion.1 s.certRegion.2
  if (s.ctx c).image.isNone || s.working.contains c then 1
  else if genNum g 0 4 ≠ 1 || !genComplete g || (remote && !own) then 2
  else if !whole || !digestOk g then 3
  else if genNum g 32 8 ≠ (s.reg64 (R.LK_IMAGE_ID c)).toNat then 4
  else if !genSealed g && !ov then 5
  else if genSealed g && (s.flag F.LK_STATUS_SEC_OUT || !certRead || !Config.chainVerifies cert (g.take 256) ((g.drop 256).take 512)) then 6
  else if genNum g 48 4 ≠ (s.reg R.BOOT_FW_VERSION).toNat && !ov then 7
  else if !s.groupsMatch c 1024 (genSection g 6) then 8
  else if genNum g 64 8 ≠ genStep g then 9
  else if !sizesMatch im g then 0x0B
  else 0

/-- The words of a section. -/
def secWords (bs : List Byte) : List (BitVec 32) := (List.range (bs.length / 4)).map (fun i => BitVec.ofNat 32 (genNum bs (4 * i) 4))

/-- R419, steps 1 and 2: the arena, the step's registers and LAST_RISK. A step that had been aborted is over. -/
def State.restoreStep (s : State) (c : Nat) (g : List Byte) : State :=
  let n := fun o k => BitVec.ofNat 64 (genNum g o k)
  let s := match (s.image c).arena with
    | some (a, _, _) => s.writeAt a (genSection g 1)
    | none => s
  let s := (s.off (F.TRAIN_ARENA_IN_FORCE c)).off (F.TRAIN_ARENA_PENDING c)
  let s := ((s.setReg64 (R.TRAIN_STEP c) (n 8 8)).setReg64 (R.TRAIN_COMMIT c) (n 16 8)).setReg64 (R.TRAIN_SEED c) (n 24 8)
  let s := s.put (F.TRAIN_CTX_STATUS_SKIP_RUN c) (genNum g 72 2)
  let s := if (s.ctx c).stepAborted then s.off F.LOCK_STATUS_STEP_ABORTED else s
  let s := s.updCtx c (fun x => { x with
    lastRisk := genNum g 74 1 % 4, stepAborted := false, run := none, evalNext := [], boundary := none
    rerun := none, overflowReq := [], overflowSent := false, overflow := 0 })
  ((s.clearStep c).clearAmax c).setReg64 (R.LK_SNAP_DPOS c) (n 56 8)

/-- R419, step 3. -/
def State.restoreHistory (s : State) (c : Nat) (ws : List (BitVec 32)) : State :=
  let s := ((List.range (s.image c).coarseCount).foldl (fun (s : State) i =>
    let idx := (s.image c).coarseFirst + i
    let hist := (List.range 16).foldl (fun t j => tblSet histDefault t j (ws.getD (16 * i + j) 0)) []
    let s := s.setScale idx { s.scale idx with hist := hist, amax := 0 }
    if takesHistory (s.image c) idx then s.rescale c idx else s) s)
  s.showHistory c

/-- The window list of 128 bytes. -/
def listOf (bs : List Byte) : List Nat :=
  ((List.range 64).map (fun i => genNum bs (2 * i) 2)).filterMap (fun e => if 0x8000 ≤ e then some (e % 4096) else none)

/-- R419, step 4: the statistics and the lists; the rebuild into the next bank. -/
def State.restoreLists (s : State) (c : Nat) (stats lists : List Byte) : State :=
  let im := s.image c
  let x := s.ctx c
  let s := (List.range im.cstatCount).foldl (fun (s : State) i =>
    let w := fun k => BitVec.ofNat 32 (genNum stats (16 * i + 4 * k) 4)
    s.setCstat (!x.feedBank) (im.cstatFirst + i) ⟨w 0, w 1, w 2, w 3⟩) s
  let s := s.unfeed c
  let ws := imWindows im
  let s := ((List.range ws.length).zip ws).foldl (fun (s : State) (i, tw) =>
    s.setWindow x.listBank tw.1 tw.2 (listOf ((lists.drop (128 * i)).take 128))) s
  s.rebuild c

/-- R419, step 5: widening; a plan with a level above W0 is re-timed. -/
def State.restoreWiden (s : State) (c : Nat) (ws : List (BitVec 32)) : State :=
  let at_ := fun q => (ws.getD q 0).toNat
  let lv := (List.range 1024).foldl (fun t q => tblSet levelDefault t q (at_ q / 2 ^ 30)) []
  let hd := (List.range 1024).foldl (fun t q => tblSet levelDefault t q (at_ q % 65536)) []
  let s := s.updCtx c (fun x => { x with levels := lv, holds := hd, retiming := !lv.isEmpty, plan := (s.image c).plan })
  s.showWiden

/-- R170, R76: the claimed entries of an image as a load leaves them. -/
def State.freshTables (s : State) (im : Image) : State :=
  let s := s.dropClaims im
  (im.fixedCoarse.filter (fun e => fixedIndex im e.1 && decide (im.coarseFirst ≤ e.1) &&
    decide (e.1 < im.coarseFirst + im.coarseCount))).foldl
    (fun (s : State) e => s.setScale e.1 { s.scale e.1 with c0 := e.2 }) s

/-- R173: both banks of an image's window lists as a load leaves them: the INIT lists, or empty lists. -/
def State.freshLists (s : State) (im : Image) : State :=
  im.sluices.foldl (fun (s : State) t =>
    (List.range (stWindows t.2)).foldl (fun (s : State) w =>
      let l := if stInit t.2 = 0xFFFFFFFF then [] else listOf ((im.raw.drop (stInit t.2 + 128 * w)).take 128)
      (s.setWindow false t.1 w l).setWindow true t.1 w l) s) s

/-- R420: what an unsealed restore leaves: an empty history, unfed statistics, the INIT lists and W0. -/
def State.restoreEmpty (s : State) (c : Nat) : State :=
  let s := ((s.freshTables (s.image c)).freshLists (s.image c)).showHistory c
  (s.updCtx c (fun x => { x with levels := [], holds := [], retiming := false, plan := (s.image c).plan })).showWiden

/-- R419, R420: context `c` is restored from a generation that passed every check. -/
def State.restoreFrom (s : State) (c : Nat) (g : List Byte) : State :=
  let st := genStep g
  let src := if s.flag F.LK_SNAP_RESTORE_SRC_REMOTE then s.get F.LK_SNAP_RESTORE_SRC_MODULE else s.get F.LINK_ID_MODULE_ID
  let s := s.restoreStep c g
  let s := if genSealed g then
      let s := (s.restoreHistory c (secWords (genSection g 2))).restoreLists c (genSection g 3) (genSection g 4)
      let s := (s.restoreWiden c (secWords (genSection g 5))).updCtx c (fun x => { x with
        verify := BitVec.ofNat 512 (genNum g 112 64) })
      s.on (F.LK_SNAP_VERIFY_ARMED c)
    else s.restoreEmpty c
  let s := (s.on (F.LK_SNAP_VERIFY_RESTORED c)).event 0x0616#16 (srcCtx c) [(8, c), (8, (genSealed g).toNat), (16, src), (32, st)]
  s.snapDone 0

/-- R418: a restore is refused. -/
def State.refuseRestore (s : State) (c code : Nat) : State :=
  (s.event 0x0617#16 (srcCtx c) [(8, c), (8, code)]).snapDone code

/-- R418: the generation is checked, with the certificate where it is sealed, and restored. -/
def State.tryRestore (s : State) (c : Nat) (g : List Byte) (whole : Bool) : State :=
  let x := s.firmwareReads (if genSealed g then [s.certRegion] else [])
  let s := x.1
  let code := s.restoreCheck c g whole x.2
  if code = 0 then s.restoreFrom c g else s.refuseRestore c code

/-- R418: command 3, with what the remote source gives, where it answers. -/
def State.orderRestore (s : State) (c : Nat) (remote : Option (List Byte)) : State :=
  if !s.flag F.LK_SNAP_RESTORE_SRC_REMOTE then
    if (s.ctx c).image.isNone then s.refuseRestore c 1
    else if (s.image c).snapBase.isNone then s.refuseRestore c 2
    else
      let j := s.get F.LK_SNAP_RESTORE_SRC_SLOT
      let x := s.firmwareReads (slotRegion (s.image c) j)
      x.1.tryRestore c (x.1.slotGen c j) x.2
  else if (s.ctx c).image.isNone || s.working.contains c then s.refuseRestore c 1
  else match remote with
    | some g => s.tryRestore c g true
    | none => s.snapWait 3 c

/-- R418, code 0x0A. -/
def execRestoreSourceTimeout (s : State) : Result :=
  .next (match s.snapIn 3 with | some c => s.refuseRestore c 0x0A | none => s)

/-! ## LK_SNAP_CMD -/

/-- R421: command 5: the restored step is staged for the tick of lock index LK_SNAP_START. -/
def State.orderStart (s : State) (c : Nat) : State :=
  let l := (s.reg64 R.LK_SNAP_START).toNat
  if !s.flag (F.LK_SNAP_VERIFY_RESTORED c) then s.snapDone 1
  else if l < s.index + 2 then s.snapDone 0x0C
  else
    let s := s.updCtx c (fun x => { x with run := some ⟨.normal, 0, l⟩, started := true, pauseNext := false })
    ((s.off (F.TRAIN_CTX_STATUS_STOPPED c)).setCtxState c ctxRunning).snapDone 0

/-- Table 16-7: a write of LK_SNAP_CMD; one with GO while BUSY is 1 is ignored. -/
def State.snapCmd (s : State) (w : Word) (remote : Option (List Byte)) (tags : Option (Word × Word)) : State :=
  if !goBit w || s.lk.snapRun.isSome then s
  else
    let c := F.LK_SNAP_CMD_CONTEXT.of w
    let cmd := F.LK_SNAP_CMD_CMD.of w
    if cmd = 1 then (s.updCtx c (fun x => { x with captureNext := true })).snapDone 0
    else if cmd = 2 then s.orderSeal c
    else if cmd = 3 then s.orderRestore c remote
    else if cmd = 4 then s.bindBuddy c tags
    else if cmd = 5 then s.orderStart c
    else s.snapDone 0x0E

/-- R409. -/
def execCaptureNext (w : Word) (s : State) : Result :=
  .next (s.onLk (fun s => s.snapCmd w none none))
/-- R416. -/
def execSeal (w : Word) (s : State) : Result :=
  .next (s.onLk (fun s => s.snapCmd w none none))
/-- R418. -/
def execRestore (w : Word) (remote : Option (List Byte)) (s : State) : Result :=
  .next (s.onLk (fun s => s.snapCmd w remote none))
/-- R413. -/
def execBindBuddy (w : Word) (tags : Option (Word × Word)) (s : State) : Result :=
  .next (s.onLk (fun s => s.snapCmd w none tags))
/-- R421. -/
def execSnapshotStart (w : Word) (s : State) : Result :=
  .next (s.onLk (fun s => s.snapCmd w none none))

end Sys2Proof.Machine
end

