-- ==== Sys2Proof/Machine/Queue.lean ====
section
/-! DEFINITION. Submission and completion queues (R465 to R467, R470) and the operations of Table 18-6: loads (R468), START,
EVAL (R279), PAUSE and FENCE. -/

namespace Sys2Proof.Machine

/-! ## Doorbells and queue registers -/

/-- R466: a tail of context `c` not below its SQ's size; the spec gives the count of the event no value (log 44). -/
def State.badTail (s : State) (c : Nat) : State :=
  let (v, s) := s.draw
  s.event 0x0632#16 (srcCtx c) [(8, c), (8, 0), (32, v.toNat)]

/-- R466: the doorbell: `entries` are what the ring holds from the next entry to fetch on. -/
def State.sqDoorbell (s : State) (c : Nat) (w : Word) (entries : List (BitVec 512)) : State :=
  let size := s.get (F.LK_SQ_SIZE_ENTRIES c)
  let tail := F.LK_SQ_TAIL_TAIL c |>.of w
  if size ≤ tail then s.badTail c
  else
    let next := s.get (F.LK_SQ_HEAD_HEAD c) + (s.ctx c).sqWaiting.length
    let n := (tail + size * next - next) % size
    let es := (List.range n).map (fun i => entries.getD i 0)
    ((s.put (F.LK_SQ_TAIL_TAIL c) tail).updCtx c (fun x => { x with sqWaiting := x.sqWaiting ++ es })).fetch c

/-- R466. -/
def execSqDoorbell (c : CtxId) (w : Word) (entries : List (BitVec 512)) (s : State) : Result :=
  .next (s.onLk (fun s => s.sqDoorbell c.val w entries))

/-- R467: the server has read records; held records follow. -/
def State.cqDoorbell (s : State) (c : Nat) (w : Word) : State := (s.hostWrite (R.LK_CQ_HEAD c) w).cqFlush c 256

/-- R467. -/
def execCqHeadDoorbell (c : CtxId) (w : Word) (s : State) : Result := .next (s.onLk (fun s => s.cqDoorbell c.val w))

/-- R470: head and tail of a queue at 0; the first pass of a CQ is the next. -/
def State.restartSq (s : State) (c : Nat) : State :=
  ((s.put (F.LK_SQ_HEAD_HEAD c) 0).put (F.LK_SQ_TAIL_TAIL c) 0).updCtx c (fun x => { x with sq := [], sqWaiting := [] })
def State.restartCq (s : State) (c : Nat) : State :=
  (((s.put (F.LK_CQ_HEAD_HEAD c) 0).put (F.LK_CQ_TAIL_TAIL c) 0).updCtx c (fun x => { x with cqPhase := true })).cqFlush c 256

/-- R470: a write of a queue base or size, while the context is EMPTY. -/
def State.writeQueue (s : State) (c : Nat) (q : QueueSetting) (w : Word) : State :=
  if s.occupied c then s
  else match q with
    | .sqBaseLow => s.holdLow (R.LK_SQ_BASE c) w
    | .sqBaseHigh => (s.commitHigh (R.LK_SQ_BASE c) w).restartSq c
    | .sqSize => (s.hostWrite (R.LK_SQ_SIZE c) w).restartSq c
    | .cqBaseLow => s.holdLow (R.LK_CQ_BASE c) w
    | .cqBaseHigh => (s.commitHigh (R.LK_CQ_BASE c) w).restartCq c
    | .cqSize => (s.hostWrite (R.LK_CQ_SIZE c) w).restartCq c

/-- R470. -/
def execQueueConfigWrite (c : CtxId) (q : QueueSetting) (w : Word) (s : State) : Result :=
  .next (s.onLk (fun s => s.writeQueue c.val q w))

/-! ## Accepting an image -/

/-- R222, R240: the sequence slots and frequency tables of an image. -/
def State.claimSlots (s : State) (c : Nat) (im : Image) : State :=
  let s := im.seqSlots.foldl (fun (s : State) q =>
    let s := ((s.on (F.ATTN_SLOT_CFG_OWNED q.1.val)).put (F.ATTN_SLOT_CFG_CONTEXT q.1.val) c).put
      (F.ATTN_SLOT_CFG_LENGTH_T q.1.val) (q.2 / 256)
    s.setReg (R.ATTN_SLOT_DOCS q.1.val) 0) s
  im.ropeTables.foldl (fun (s : State) t =>
    let s := s.store (placed (0xFE003F000000 + 0x400 * t.1.toNat) (t.2.flatMap (fun f => leBytes 8 f.toNat)))
    let f := F.ATTN_ROPE_VALID_MAP (t.1.toNat / 32)
    s.put f (s.get f ||| 2 ^ (t.1.toNat % 32))) s

/-- R76, R170, R173: scale entries, statistics entries and window lists of an image. -/
def State.claimTables (s : State) (c : Nat) (im : Image) : State :=
  let s := (s.freshTables im).freshLists im
  let s := (s.put (F.SCALE_CTX_HEADROOM c) im.headroom).put (F.SCALE_CTX_RANGE_FIRST c) im.coarseFirst
  let s := (s.put (F.SCALE_CTX_RANGE_COUNT_M1 c) (im.coarseCount - 1)).put (F.SCALE_CSTAT_CLAIM_FIRST_FIRST c) im.cstatFirst
  (s.put (F.SCALE_CSTAT_CLAIM_COUNT_COUNT c) im.cstatCount).showHistory c

/-- R183, R184, R264: thresholds, widening budget and arenas of an image. -/
def State.claimArenas (s : State) (c : Nat) (im : Image) : State :=
  let s := (s.put (F.TRAIN_MON_THR_ZERO_THR c) im.zeroThr).put (F.TRAIN_MON_THR_SAT_THR c) im.satThr
  let s := (s.put (F.TRAIN_WIDEN_CTX_MAX_SLOTS c) im.maxSlots).put (F.TRAIN_WIDEN_CTX_HOLD_STEPS c) im.holdSteps
  let s := s.setReg64 (R.TRAIN_WIDEN_ARENA_BASE c) (BitVec.ofNat 64 im.widenBase)
  let s := s.setReg64 (R.TRAIN_WIDEN_ARENA_SIZE c) (BitVec.ofNat 64 im.widenSize)
  let (a, b, n) := im.arena.getD (0, 0, 0)
  let s := (s.setReg64 (R.TRAIN_ARENA_A c) (BitVec.ofNat 64 a)).setReg64 (R.TRAIN_ARENA_B c) (BitVec.ofNat 64 b)
  s.setReg64 (R.TRAIN_ARENA_SIZE c) (BitVec.ofNat 64 n)

/-- R407: what the header in slot `j` shows: state and step; one that cannot be read shows nothing. -/
def State.readSlot (s : State) (c j : Nat) : State × Nat × Nat :=
  let x := s.touch rdFirmware [(slotAddr (s.image c) j, 1024)]
  let s := x.1
  let h := s.slotHeader c j
  let st := if x.2.isEmpty then genState (s.image c) h else 0
  (s, st, if st = 0 then 0 else genStep h)

/-- R407, R411: the four slots of an image's snapshot area, and the capture gap. -/
def State.readSlots (s : State) (c : Nat) (im : Image) : State :=
  if im.snapBase.isNone then s
  else
    let s := (List.range 2).foldl (fun (s : State) j => let x := s.readSlot c j; x.1.setSlot c j x.2.1 x.2.2) s
    let s := (List.range 2).foldl (fun (s : State) j => let x := s.readSlot c (2 + j); x.1.setWardSlot c j x.2.1 x.2.2) s
    let s := s.put (F.LK_SNAP_GAP_G c) (s.captureGap im)
    s.put (F.LK_SNAP_GAP_SLOT_MIB c) (min 0xFFFF ((slotBytes im + 2 ^ 20 - 1) / 2 ^ 20))

/-- R246: the step of a context just loaded. -/
def State.freshStep (s : State) (c : Nat) : State :=
  ((s.setReg64 (R.TRAIN_STEP c) 0).setReg64 (R.TRAIN_COMMIT c) (BitVec.allOnes 64)).setReg (R.TRAIN_ARENA c) 0

/-- LK_LOAD_RESULT_n and the completion record of a load. -/
def State.loadDone (s : State) (c code detail : Nat) : State :=
  ((s.put (F.LK_LOAD_RESULT_CODE c) code).put (F.LK_LOAD_DETAIL_DETAIL c) detail).finish c code detail

/-- R468: the image is accepted into context `c`. -/
def State.accept (s : State) (c : Nat) (im : Image) : State :=
  let s := im.codebooks.foldl (fun (s : State) k => s.storeCodebook c k.id ⟨k.base, k.entries⟩) s
  let s := s.updCtx c (fun x => { x.torn with load := none, image := some im, plan := im.plan })
  let s := (((s.freshStep c).claimTables c im).claimArenas c im).claimSlots c im
  let s := ((s.readSlots c im).setReg64 (R.LK_IMAGE_ID c) (imIdent im)).setCtxState c ctxLoaded
  (s.layStore.showWiden.event 0x0631#16 (srcCtx c) [(8, c), (32, (imIdent im).toNat)]).loadDone c 0 0

/-- R468: the image is refused. -/
def State.refuseImage (s : State) (c code detail : Nat) : State :=
  let s := ((s.dropCodebooks c).updCtx c (fun x => { x with load := none })).setCtxState c ctxEmpty
  (s.showIdle.event 0x0630#16 (srcCtx c) [(8, c), (8, code), (32, detail)]).loadDone c code detail

/-- R468: the checks, and what follows. -/
def State.judgeImage (s : State) (c : Nat) (im : Image) : State :=
  match s.loadRefusal c im with
  | some (code, detail) => s.refuseImage c code detail
  | none => s.accept c im

/-! ## LOAD and LOAD_HBM -/

/-- R468: the context is LOADING, which leaves Idle (R446). -/
def State.startLoad (s : State) (c : Nat) (hbm : Bool) (e : BitVec 512) : State :=
  let s := s.updCtx c (fun x => { x with load := some ⟨sqTag e, sqAddr e, sqLen e, hbm⟩ })
  (s.setCtxState c ctxLoading).showIdle

/-- R465, R447: a load is accepted in EMPTY, in service. -/
def State.mayLoad (s : State) (c : Nat) : Bool := !s.occupied c && s.get F.BOOT_STATUS_STATE == 3

/-- Table 18-6, LOAD: the image is fetched from the server. -/
def State.orderLoad (s : State) (c : Nat) (e : BitVec 512) : State :=
  if !s.mayLoad c then s.finish c 0x80 0
  else (s.startLoad c false e).emit (.dmaRead (sqAddr e) (sqLen e))

/-- R468. -/
def execLoad (c : CtxId) (s : State) : Result :=
  .next (s.onEntry c.val 1 (fun e s => if (s.ctx c.val).load.isSome then s else s.orderLoad c.val e))

/-- R455, R468: the image has come into image staging, and is checked. A context torn down meanwhile takes none. -/
def State.imageIn (s : State) (c : Nat) (im : Image) : State :=
  match (s.ctx c).load with
  | none => s
  | some _ =>
    if s.ctxState c = ctxLoading then (s.writeAt s.cap (im.raw.take (2 ^ 32))).judgeImage c im
    else (s.updCtx c (fun x => { x with load := none })).finish c 0x80 0

/-- R468. -/
def execImageFetched (c : CtxId) (im : Image) (s : State) : Result := .next (s.imageIn c.val im)

/-- Table 18-6, LOAD_HBM: the image's bytes are those at ADDR; one that cannot be read whole has no valid CHECK. -/
def State.orderLoadHbm (s : State) (c : Nat) (im : Image) (e : BitVec 512) : State :=
  if !s.mayLoad c || !s.inHbm (sqAddr e) (sqLen e) then s.finish c 0x80 0
  else
    let (s, bad) := (s.startLoad c true e).touch rdFirmware [(sqAddr e, sqLen e)]
    if bad.isEmpty then s.judgeImage c { im with raw := s.bytes (sqAddr e) (sqLen e) } else s.refuseImage c 1 252

/-- R468. -/
def execLoadHbm (c : CtxId) (im : Image) (s : State) : Result :=
  .next (s.onEntry c.val 2 (fun e s => s.orderLoadHbm c.val im e))

/-! ## START, EVAL, PAUSE, FENCE -/

/-- Table 18-6, START. -/
def State.orderRun (s : State) (c : Nat) (e : BitVec 512) : State :=
  if s.ctxState c = ctxLoaded ∧ !(s.image c).plan.isEmpty ∧ s.index + 2 ≤ sqArg e then
    let s := s.updCtx c (fun x => { x with run := some ⟨.normal, 0, sqArg e⟩, started := true, pauseNext := false })
    (s.setCtxState c ctxRunning).finish c 0 0
  else s.finish c 0x80 0

/-- R465. -/
def execStart (c : CtxId) (s : State) : Result := .next (s.onEntry c.val 3 (fun e s => s.orderRun c.val e))

/-- Table 18-6, EVAL (R279). -/
def State.orderEval (s : State) (c : Nat) (e : BitVec 512) : State :=
  if (s.image c).evals.length ≤ sqArg e then s.finish c 0x80 0
  else if s.ctxState c = ctxLoaded then
    let s := s.updCtx c (fun x => { x with run := some ⟨.eval (sqArg e), 0, max (s.index + 1) x.earliest⟩ })
    (s.setCtxState c ctxRunning).finish c 0 0
  else if s.ctxState c = ctxRunning then
    (s.updCtx c (fun x => { x with evalNext := x.evalNext ++ [sqArg e] })).finish c 0 0
  else s.finish c 0x80 0

/-- R279. -/
def execEval (c : CtxId) (s : State) : Result := .next (s.onEntry c.val 4 (fun e s => s.orderEval c.val e))

/-- Table 18-6, PAUSE. -/
def State.orderPause (s : State) (c : Nat) : State :=
  if s.ctxState c = ctxRunning then (s.updCtx c (fun x => { x with pauseNext := true })).finish c 0 0
  else s.finish c 0x80 0

/-- R465. -/
def execPause (c : CtxId) (s : State) : Result := .next (s.onEntry c.val 5 (fun _ s => s.orderPause c.val))

/-- Table 18-6, FENCE: entries are carried out one at a time, so every earlier one has completed. -/
def execSqFence (c : CtxId) (s : State) : Result := .next (s.onEntry c.val 6 (fun _ s => s.finish c.val 0 0))

end Sys2Proof.Machine
end

