-- ==== Sys2Proof/Machine/Module.lean ====
section
/-! DEFINITION. The module's management controller (R473 to R487): power and thermal steps of the compute clocks, thermal
trips, sensors, alarms, and the I3C target. -/

namespace Sys2Proof.Machine

/-- Table 14-5: the module as the source of an event. -/
def srcModule : BitVec 16 := source 0xB 0

/-- Whether the management controller runs: whenever the 48 V feed is present. -/
def State.managed (s : State) : Bool := s.module.power != .none
def State.onModule (s : State) (f : State → State) : State := if s.managed then f s else s

/-! ## MODULE_STATUS -/

/-- MODULE_STATUS bits 7:0, and bits 3:0. -/
def State.statusByte (s : State) : Nat := (s.reg R.MODULE_STATUS).toNat % 256
def State.alarmBits (s : State) : Nat := (s.reg R.MODULE_STATUS).toNat % 16

/-- The alarms in MODULE_STATUS, and THERM_ALERT_N (R481). -/
def State.showAlarms (s : State) : State :=
  let has := fun (a : Alarm) => (s.module.raised.contains a).toNat
  let s := ((s.put F.MODULE_STATUS_LEAK (has .leak)).put F.MODULE_STATUS_THERMAL (has .thermal)).put F.MODULE_STATUS_SUPPLY
    (has .supply)
  s.put F.MODULE_STATUS_ALERT (!s.module.raised.isEmpty || s.flag F.MODULE_STATUS_TRIPPED).toNat

/-- R484: what `f` does, and the in-band interrupt where it changed bits 3:0. -/
def State.withInterrupt (s : State) (f : State → State) : State :=
  let t := (f s).showAlarms
  if t.alarmBits ≠ s.alarmBits ∧ t.module.ibiEnabled then t.emit (.i3cInterrupt (BitVec.ofNat 8 t.statusByte)) else t

/-- R480: an alarm is raised, with its event. -/
def State.alarm (s : State) (a : Alarm) (code : BitVec 16) (fields : List (Nat × Nat)) : State :=
  if s.module.raised.contains a then s
  else s.withInterrupt (fun s =>
    ({ s with module := { s.module with raised := s.module.raised ++ [a] } } : State).event code srcModule fields)

/-- MODULE_SENSE_k. -/
def State.sense (s : State) (k : Nat) : Nat := s.get (F.MODULE_SENSE_VALUE k)

/-- The supply warning. -/
def State.supplyAlarm (s : State) : State := s.alarm .supply 0x0803#16 [(16, s.sense 0), (16, s.sense 2)]

/-! ## Clocks -/

/-- R474, R475: the clock of a step. -/
def stepClock (k : Nat) : ClockStep := if k = 0 then .full else if k = 1 then .reduced else .low

def thermalDefault (_ : Nat) : Nat := 0
/-- The thermal step of die `d`, and the step of the lower of its two clocks. -/
def State.thermalOf (s : State) (d : Nat) : Nat := tblGet thermalDefault s.module.thermalSteps d
def State.stepOf (s : State) (d : Nat) : Nat := max s.module.powerStep (s.thermalOf d)

/-- R120: every die runs at the lower of its two clocks. -/
def State.showClocks (s : State) : State := (List.range 4).foldl (fun (s : State) d => s.setClock d (stepClock (s.stepOf d))) s

/-- R474, R475: die `d`'s clock after a change of the power step (0) or of its thermal step (1), recorded (log 48). -/
def State.clockEvent (s : State) (d cause : Nat) : State :=
  s.event 0x0801#16 (source 3 d) [(8, d), (8, cause), (16, clockMhz (stepClock (s.stepOf d)))]

/-- R474: the power step becomes `k`. -/
def State.setPowerStep (s : State) (k : Nat) : State :=
  if s.module.powerStep = k then s
  else
    let s := ({ s with module := { s.module with powerStep := k, calm := 0 } } : State).put F.MODULE_STATUS_PSTEP k
    (List.range 4).foldl (fun (s : State) d => s.clockEvent d 0) s.showClocks

/-- R474: the samples since the last change down; it may go down once in 1 ms, that is, in 10 samples. -/
def State.countSample (s : State) (calm : Bool) : State :=
  let m := s.module
  { s with module := { m with
    sinceDown := min 10 (m.sinceDown + 1)
    calm := if calm then m.calm + 1 else 0 } }
def State.stepDown (s : State) (k : Nat) : State :=
  let s := s.setPowerStep k
  { s with module := { s.module with sinceDown := 0 } }

/-- R480: samples with the power step below 1,100 MHz; after 1 s of them the supply warning is raised. -/
def State.countSlow (s : State) : State :=
  let n := if s.module.powerStep = 0 then 0 else min 10000 (s.module.belowFull + 1)
  let s := { s with module := { s.module with belowFull := n } }
  if n = 10000 then s.supplyAlarm else s

/-- R474: one sample, of the power and of the 10 ms average, in W. -/
def State.powerSample (s : State) (watts avg : Nat) : State :=
  let limit := s.get F.MODULE_PWR_LIMIT_WATTS
  let s := (s.put (F.MODULE_SENSE_VALUE 2) avg).countSample (decide (10 * avg < 9 * limit))
  let k := s.module.powerStep
  (if 3400 < watts then (if k < 2 then s.stepDown 2 else s)
  else if limit < avg ∧ k < 2 ∧ 10 ≤ s.module.sinceDown then s.stepDown (k + 1)
  else if 1000 ≤ s.module.calm ∧ 0 < k then s.setPowerStep (k - 1)
  else s).countSlow

/-- R474. -/
def execPowerSample (watts avg : Half) (s : State) : Result :=
  .next (s.onModule (fun s => s.powerSample watts.toNat avg.toNat))

/-! ## Temperatures -/

/-- R475: the thermal step after a reading of `t` tenths of a degree, from step `k`. -/
def dieStep (k : Nat) (t : Int) : Nat :=
  if 1050 ≤ t then 2
  else if 1000 ≤ t then (if k = 2 ∧ 1020 < t then 2 else 1)
  else if 970 < t ∧ 1 ≤ k then 1
  else 0

/-- Table 19-9: a temperature sensor's threshold in 0.1 °C, where it has one. -/
def alertAt (k : Nat) : Option Int :=
  if 5 ≤ k ∧ k ≤ 12 then some 1000 else if k = 13 then some 1100 else if k = 4 then some 650 else none

/-- R475: die `d` reads `temp`. -/
def State.dieThermal (s : State) (d : Nat) (temp : Half) : State :=
  let k := dieStep (s.thermalOf d) temp.toInt
  if k = s.thermalOf d then s
  else
    let s := { s with module := { s.module with thermalSteps := tblSet thermalDefault s.module.thermalSteps d k } }
    s.showClocks.clockEvent d 1

/-- Table 19-8, R480: sensor `k` reads `v`. -/
def State.readSensor (s : State) (k : Nat) (v : Half) : State :=
  let s := s.put (F.MODULE_SENSE_VALUE k) v.toNat
  let s := if 5 ≤ k ∧ k ≤ 8 then s.dieThermal (k - 5) v else s
  if k = 0 then (if v.toNat < 4200 ∨ 5800 < v.toNat then s.supplyAlarm else s)
  else if k = 14 then (if v = 1 then s.alarm .leak 0x0805#16 [(8, 1)] else s)
  else match alertAt k with
    | some t => if t ≤ v.toInt then s.alarm .thermal 0x0804#16 [(8, k), (16, v.toNat)] else s
    | none => s

/-- R475. -/
def execDieThermalSample (d : DieId) (temp : Half) (s : State) : Result :=
  .next (s.onModule (fun s => s.readSensor (5 + d.val) temp))
/-- R480. -/
def execSensorSample (k : Fin 15) (value : Half) (s : State) : Result :=
  .next (s.onModule (fun s => s.readSensor k.val value))
/-- R480. -/
def execLeakNLow (s : State) : Result := .next (s.onModule (fun s => s.alarm .leak 0x0805#16 [(8, 0)]))

/-- Table 19-9: whether the last samples show a condition of an alarm. A voltage not yet sampled shows none. -/
def State.alarmHolds (s : State) : Alarm → Bool
  | .supply => (s.sense 0 != 0 && (decide (s.sense 0 < 4200) || decide (5800 < s.sense 0))) || s.module.belowFull == 10000
  | .thermal => (List.range 15).any (fun k => (alertAt k).any (fun t => decide (t ≤ (BitVec.ofNat 16 (s.sense k)).toInt)))
  | .leak => s.sense 14 == 1

/-- R480: none of the alarm's conditions has held for 1 s. -/
def State.clearAlarm (s : State) (al : Alarm) : State :=
  if s.alarmHolds al then s
  else s.withInterrupt (fun s => { s with module := { s.module with raised := s.module.raised.filter (· != al) } })
def execAlarmClear (al : Alarm) (s : State) : Result := .next (s.onModule (fun s => s.clearAlarm al))

/-! ## Thermal trips -/

/-- Table 14-5: the source of a die that trips. -/
def tripSource : TripUnit → BitVec 16
  | .compute d => source 3 d.val
  | .linkDie d => source 7 d.val
  | .basin => source 8 0

/-- R476, R477: the dies and stacks have no power: nothing runs, no port is up, HBM holds nothing. -/
def State.diesDark (s : State) : State :=
  let s := { s with
    free := s.free + 1
    array := {}, lanes := []
    lock := { s.lock with active := [], inFlight := [], windowOpen := false, resetHold := true }
    mem := { s.mem with cells := [], sectors := [], lost := s.free + 1 } }
  (List.range 32).foldl (fun (s : State) p => s.darkPort p) s

/-- R476. -/
def State.trip (s : State) (u : TripUnit) (temp : Half) : State :=
  let s := s.withInterrupt (fun (s : State) =>
    (s.on F.MODULE_STATUS_TRIPPED).event 0x0802#16 (tripSource u) [(16, (tripSource u).toNat), (16, temp.toNat)])
  { s.diesDark with module := { s.module with power := .tripped } }

/-- R476: a die at 115 °C, while the dies are powered. -/
def execThermalTrip (u : TripUnit) (temp : Half) (s : State) : Result :=
  .next (if 1150 ≤ temp.toInt ∧ s.module.power = .on then s.trip u temp else s)

/-! ## Settings -/

/-- R474: a write of MODULE_PWR_LIMIT; WATTS outside 1,500 to 2,800 W is ignored. -/
def State.limitPower (s : State) (w : Word) : State :=
  let v := F.MODULE_PWR_LIMIT_WATTS.of w
  if 1500 ≤ v ∧ v ≤ 2800 then s.put F.MODULE_PWR_LIMIT_WATTS v else s
def execPwrLimitWrite (w : Word) (s : State) : Result := .next (s.onLk (fun s => s.limitPower w))

/-- R485: MODULE_CTL.WAKE in Off; the boot follows (BOOT). -/
def State.wakeUp (s : State) (w : Word) : State :=
  if F.MODULE_CTL_WAKE.of w = 1 ∧ s.module.power = .off then { s with module := { s.module with power := .standby } } else s
def execWake (w : Word) (s : State) : Result := .next (s.wakeUp w)

/-! ## The I3C target -/

/-- R483: whether the target serves BAR0 offset `a`. -/
def State.i3cServes (s : State) (a : Nat) : Bool :=
  (decide (0x1C00000 ≤ a) && decide (a < 0x1D00000)) ||
    (s.lkPowered && (decide (a = 0) || decide (a = 4) || decide (a = R.LK_HEARTBEAT) ||
      (decide (0x1800000 ≤ a) && decide (a < 0x1B00000))))

/-- R483: a read of the register at offset `a`; an offset it does not serve reads 0. -/
def execI3cRegisterRead (a : Nat) (s : State) : Result :=
  .next (s.onModule (fun s => s.emit (.i3cReply (if s.i3cServes a then regReadValue a (s.reg a) else 0))))

/-- R483: a write is carried out for MODULE_CTL and RECORDER_RD_SEL. -/
def execI3cRegisterWrite (a : Nat) (w : Word) (s : State) : Result :=
  .next (if a = R.MODULE_CTL then s.wakeUp w
    else if a = R.RECORDER_RD_SEL ∧ s.lkPowered then s.recorderSelect w
    else s)

/-- R483: SETDASA or ENTDAA. -/
def execI3cDynamicAddress (a : BitVec 7) (s : State) : Result :=
  .next (s.onModule (fun s => { s with module := { s.module with dynamicAddress := some a } }))

/-- R484. -/
def execDisec (s : State) : Result :=
  .next (s.onModule (fun s => { s with module := { s.module with ibiEnabled := false } }))

end Sys2Proof.Machine
end

