-- ==== Sys2Proof/Machine/Power.lean ====
section
/-! DEFINITION. Power and module reset (R389, R477, R486), the boot sequence (R436 to R438, R361, R362), Standby and Off
(R447, R448). -/

namespace Sys2Proof.Machine

/-! ## Losing power, and module reset -/

/-- What the flash and the MODULE block's own memory keep through everything but their own loss; `rs` is the recorder. -/
def State.afterOutage (s : State) (regs : List (Nat × BitVec 32)) (rs : List Rec) (m : ModuleState) : State :=
  { pending := s.pending
    free := s.free
    out := s.out
    regs := regs
    health := { records := rs }
    lk := { flash := s.lk.flash, flashErased := s.lk.flashErased }
    module := m }

/-- R486: the registers of the MODULE block. -/
def isModuleReg (a : Nat) : Bool := decide (0x1C00000 ≤ a) && decide (a < 0x1D00000)

/-- R477, Table 15-3: loss of power for every part but the management controller. -/
def State.losePower (s : State) : State :=
  let s := s.tearFlash
  let p := if s.module.power = .off then Power.off else if s.module.power = .none then Power.none else Power.standby
  let regs := regsAfterReset .cold (s.regs.filter (fun e => decide (e.1 < 0x1C00000))) ++ s.regs.filter (fun e => isModuleReg e.1)
  s.afterOutage regs [] { s.module with power := p, tickOut := false }

/-- R477. -/
def execPwrGoodFall (s : State) : Result := .next (s.onModule (fun s => s.losePower.off F.MODULE_STATUS_PWR_GOOD))
/-- R477. -/
def execUndervoltageShutdown (s : State) : Result := .next s.losePower
/-- R477; the boot that follows is BOOT. -/
def execPwrGoodRise (s : State) : Result := .next (s.onModule (fun s => s.on F.MODULE_STATUS_PWR_GOOD))

/-- R486: the 48 V feed is lost: flash alone is kept. -/
def execLossOf48vFeed (s : State) : Result :=
  let t := s.tearFlash
  .next (t.afterOutage [] [] { power := .none, perstN := s.module.perstN })

/-- R477: the standby rail starts. -/
def execColdPowerOn (s : State) : Result :=
  .next (if s.module.power = .none then { s with module := { s.module with power := .standby } } else s)

/-- R389, Table 15-3: module reset keeps flash, the recorder and the management controller; it ends a trip (R476) and leaves
Off (R448). With the dies unpowered it only holds the module (R477). -/
def State.moduleReset (s : State) : State :=
  let s := s.tearFlash
  let p := match s.module.power with | .tripped => Power.on | .off => Power.standby | q => q
  let rs := s.health.records.map (fun r => { r with fresh := false })
  (s.afterOutage (regsAfterReset .moduleReset s.regs) rs { s.module with
    power := p, perstN := false, tickOut := false }).withInterrupt (fun s => s.off F.MODULE_STATUS_TRIPPED)

/-- R389, R477. -/
def execPerstNAssert (s : State) : Result :=
  .next (if s.flag F.MODULE_STATUS_PWR_GOOD then s.moduleReset else { s with module := { s.module with perstN := false } })

/-! ## The boot sequence -/

/-- R437: the sequence stops at step `k`. -/
def State.stopBoot (s : State) (k cause st : Nat) : State :=
  let s := ((s.put F.BOOT_STATUS_STEP k).put F.BOOT_STATUS_CAUSE cause).put F.BOOT_STATUS_STATE st
  (s.event 0x0702#16 srcPackage [(8, cause), (8, k)]).raise 0

/-- A measurement of R445. -/
def State.measureBlock (s : State) (i : Nat) (digest : List Byte) : State :=
  { s with lk := { s.lk with measurements := s.lk.measurements ++ [(i, digest)] } }

/-- R487: events held while the Lockkeeper was unpowered are stored, and those beyond 64 counted. -/
def State.storeHeld (s : State) : State :=
  let m := s.module
  let s := { s with module := { m with held := [], heldLost := 0 } }
  (m.held.foldl (fun (s : State) e => s.recordEvent e) s).count R.RECORDER_LOST m.heldLost

/-- Table 17-4, step 1: the Lockkeeper starts; pairs that fail their self-test are out of service. -/
def State.startRom (s : State) (r : BootReport) : State :=
  let s := { s with module := { s.module with power := .on, perstN := true } }
  let s := (s.storeHeld.setReg64 R.BOOT_NONCE r.nonce).measureBlock 1 Config.romDigest
  let bad := (List.range 24).filter (fun p => r.badPairs.any (fun b => b.val == p))
  let s := (s.put F.HEALTH_LOCKSTEP_OUT_MAP ((bad.map (2 ^ ·)).sum)).showPairs
  if bad.contains 2 then s.event 0x0633#16 (source 9 2) [(8, 2)] else s

/-- R435: the copy of `js` in use, with event 0x0706 for each that is refused. -/
def State.chooseSite (s : State) : List Nat → State × Option Nat
  | [] => (s, none)
  | j :: js =>
    if siteOk (hdBody (s.siteBytes j)) then (s, some j)
    else (s.event 0x0706#16 srcPackage [(8, j), (32, s.siteSeq j)]).chooseSite js

/-- Table 17-4, step 4: the registers that the copy in use loads at once. -/
def State.takeSite (s : State) (j : Nat) : State :=
  let b := hdBody (s.siteBytes j)
  let w := fun o => BitVec.ofNat 32 (siteNum b o 4)
  let s := (s.put F.BOOT_STATUS_SITE_COPY j).setReg R.BOOT_SITE_SEQ (BitVec.ofNat 32 (s.siteSeq j))
  let s := (s.setReg R.BOOT_POWER_FEED (w 36)).setReg R.BOOT_COOLING_LOOP (w 40)
  ((s.setReg R.BOOT_MIN_FW (w 44)).setReg R.BOOT_FW_PIN (w 48)).measureBlock 4 (sha512 (s.siteBytes j))

/-- R438: a partition marked BAD. -/
def State.markBad (s : State) (b : Bool) : State :=
  (s.setFwWord b 0).event 0x0703#16 srcPackage [(8, b.toNat), (32, s.fwVersionIn b)]

/-- R438: `select`. -/
def State.selectFirmware (s : State) : State × Option Bool :=
  let s := [false, true].foldl (fun (s : State) b => if s.fwState b = 2 then s.markBad b else s) s
  let held := fun (s : State) (b : Bool) => s.fwState b == 1 || s.fwState b == 3
  let s := [false, true].foldl (fun (s : State) b => if held s b && !s.fwValid b then s.markBad b else s) s
  let cand := [false, true].filter (fun b => held s b && s.fwAllowed (s.fwVersionIn b))
  match cand with
  | [] => (s, none)
  | x :: ys =>
    let b := ys.foldl (fun m y => if s.fwSeq m < s.fwSeq y then y else m) x
    if s.fwState b = 1 then
      ((s.setFwWord b 0x3FFFFFFF).event 0x0704#16 srcPackage [(8, b.toNat), (32, s.fwVersionIn b)], some b)
    else (s, some b)

/-- Table 17-4, step 5: firmware slot `b` runs. -/
def State.startFirmware (s : State) (b : Bool) : State :=
  let s := { s with lk := { s.lk with fwRunning := some b } }
  let s := (s.setReg R.BOOT_FW_VERSION (BitVec.ofNat 32 (s.fwVersionIn b))).put F.BOOT_STATUS_FW_SLOT b.toNat
  let s := (s.put F.BOOT_STATUS_TRIAL (s.fwState b == 2).toNat).showFirmware
  let s := s.measureBlock 2 (sha512 (s.partBytes (fwPart b)))
  s.measureBlock 6 (sha512 (leBytes 8 (s.reg R.BOOT_FW_VERSION).toNat ++ leBytes 4 (s.reg R.BOOT_FW_STATE).toNat))

/-- Table 17-3: the RWL fields of a site configuration. -/
def State.writeSite (s : State) (b : List Byte) : State :=
  let n := siteNum b
  let s := (s.put F.LINK_ID_FABRIC_ID (n 0 2)).put F.LINK_ID_MODULE_ID (n 2 2)
  let s := (s.put F.LOCK_PERIOD_PERIOD_US (n 4 2)).put F.LOCK_SLOTS_STRETCH_LIMIT (n 6 1)
  let s := (s.put F.LOCK_SLOTS_TEST_US (n 7 1)).put F.LOCK_SLOTS_MAINT_US (n 8 1)
  let s := (s.put F.LOCK_STRETCH_TIMING_LEAD_US (n 9 1)).put F.LOCK_STRETCH_TIMING_CUTOFF_US (n 10 1)
  let s := (s.setReg R.LOCK_CTL (BitVec.ofNat 32 (n 11 1))).setReg R.LINK_TICK_CFG (BitVec.ofNat 32 (n 12 4))
  let s := s.setReg R.LINK_TICK_CHILD (BitVec.ofNat 32 (n 16 4))
  let s := (List.range 32).foldl (fun (s : State) p =>
    (s.put (F.LINK_PORT_CTL_EN (p / 16) (p % 16)) (bitsAt (n 20 4) p 1)).put (F.LINK_PORT_CTL_PMD (p / 16) (p % 16))
      (bitsAt (n 24 4) p 1)) s
  (s.setReg R.COMPUTE_STEAL (BitVec.ofNat 32 (n 28 4))).put F.HEALTH_SCRUB_CTL_EN (n 32 1)

/-- R121: COMPUTE_DISABLED from the disabled-unit map. -/
def State.writeDisabled (s : State) : State :=
  let m := Config.disabledMap s.makerBody
  (List.range 4).foldl (fun (s : State) d =>
    let s := (List.range 20).foldl (fun (s : State) c => s.put (F.COMPUTE_DISABLED_MAP d c) (m d c).toNat) s
    s.put (F.COMPUTE_DIE_STATUS_ENABLED d) ((dieEngines d).filter (fun e => s.isEnabled e)).length) s

/-- R121: every cluster has at least 16 enabled engines. -/
def State.mapAccepted (s : State) : Bool :=
  (List.range 80).all (fun g => decide (16 ≤ ((clusterEngines g).filter (fun e => s.isEnabled e)).length))

/-- R362: the golden signatures. -/
def State.writeGolden (s : State) (sigs : List (BitVec 64)) : State :=
  ((List.range 16).zip sigs).foldl (fun (s : State) p => s.setReg64 (R.HEALTH_BIST_SIG p.1) p.2) s

/-- R303: the map-outs of the manufacturing partition and of the repair log. -/
def State.knownMapOuts (s : State) : List Nat :=
  (Config.factoryMapOuts s.makerBody ++ (s.lk.repairLog.filter (fun e => e.1 == 1)).map (fun e => e.2.1)).filter (fun c => decide (c < 384))

/-- Table 17-4, step 8: every sector of HBM is a good codeword of zeros, and Basin holds nothing written before. -/
def State.zeroHbm (s : State) : State := { s with mem := { s.mem with cells := [], sectors := [], lost := 0 } }

/-- Table 17-4, step 8: the stacks train, and every sector of program memory is written as zeros. -/
def State.bringUpHbm (s : State) (r : TrainReport) : State :=
  let s := s.knownMapOuts.foldl (fun (s : State) c => s.mapOut c) s
  let s := s.train r
  (s.on F.MEM_STATUS_CONTENTS_LOST).zeroHbm

/-- R361: an engine that fails a slice at boot. -/
def State.failAtBoot (s : State) (e k : Nat) : State :=
  let s := (s.setTest e { s.test e with failed := true, failSlice := k }).markOffline e
  (s.countField (F.HEALTH_BIST_DIE_FAILS (dieOf e))).event 0x0501#16 (source 1 e) [(16, e), (8, k), (32, 0xFFFFFFFF)]

/-- Table 17-4, step 9. -/
def State.bootTests (s : State) (fails : List (EngineId × Fin 16)) : State :=
  let s := (fails.filter (fun f => s.isEnabled f.1.val)).foldl (fun (s : State) f => s.failAtBoot f.1.val f.2.val) s
  let s := (List.range 4).foldl (fun (s : State) d =>
    let n := ((dieEngines d).filter (fun e => s.isEnabled e && !s.isOffline e)).length
    let s := s.put (F.COMPUTE_DIE_STATUS_AVAILABLE d) n
    (if n < 319 then s.on (F.COMPUTE_DIE_STATUS_BELOW_GUARANTEE d) else s).showEngine d) s
  { s.showTest with health := { s.health with marked := 0 } }

/-- Table 17-4, steps 10 to 12. -/
def State.enterService (s : State) (r : BootReport) : State :=
  let s := ((s.trainPorts r.partners).setReg64 R.LOCK_FTC r.ftc).relock
  let s := ((s.put F.BOOT_STATUS_STEP 12).put F.BOOT_STATUS_STATE 3).setReg R.BOOT_MS r.ms
  ((s.event 0x0701#16 srcPackage [(32, r.ms.toNat), (32, (s.reg R.BOOT_FW_VERSION).toNat)]).raise 0).showIdle

/-- Table 17-4, steps 7 to 12. -/
def State.bootDies (s : State) (r : BootReport) : State :=
  if !r.diesUp then s.stopBoot 7 9 5
  else
    let s := (s.showClocks).bringUpHbm r.training
    if s.get F.MEM_STATUS_ENABLED < 376 then s.stopBoot 8 8 5
    else (s.bootTests r.engineFails).enterService r

/-- Table 17-4, step 6 and on, for firmware slot `b` and site copy `j`. -/
def State.bootFirmware (s : State) (r : BootReport) (b : Bool) (j : Nat) : State :=
  let s := (((s.startFirmware b).put F.BOOT_STATUS_STEP 6).writeSite (hdBody (s.siteBytes j))).writeDisabled
  if !s.mapAccepted then s.stopBoot 6 6 5
  else match Config.goldenSigs s.makerBody with
    | none => s.stopBoot 6 7 5
    | some sigs => ((s.writeGolden sigs).readLog).bootDies r

/-- Table 17-4, steps 4 and 5. -/
def State.bootOwned (s : State) (r : BootReport) : State :=
  let (s, site) := s.chooseSite s.siteOrder
  match site with
  | none => s.stopBoot 4 5 5
  | some j =>
    let (s, fw) := (s.takeSite j).selectFirmware
    let s := s.showFirmware
    match fw with
    | none => s.stopBoot 5 3 5
    | some b => s.bootFirmware r b j

/-- R436: the whole sequence. -/
def State.bootSequence (s : State) (r : BootReport) : State :=
  let s := (s.startRom r).showFirmware
  if r.badPairs.any (fun b => decide (b.val < 2)) then s.stopBoot 1 0xA 5
  else if !s.makerValid then s.stopBoot 3 1 5
  else
    let s := s.measureBlock 3 (sha512 (s.partBytes 0))
    if !Config.identityChecks s.makerBody then s.stopBoot 3 2 5
    else if s.ownerValid then ((s.on F.BOOT_STATUS_OWNED).measureBlock 5 (sha512 (s.partBytes 4))).bootOwned r
    else (s.measureBlock 5 (sha512 (List.replicate 64 0))).stopBoot 4 4 4

/-- R436, R476, R477: PERST_N is released with PWR_GOOD high. -/
def State.mayBoot (s : State) : Bool :=
  s.flag F.MODULE_STATUS_PWR_GOOD && !s.flag F.MODULE_STATUS_TRIPPED &&
    (s.module.power == .standby || (s.module.power == .on && !s.module.perstN))

/-- R436. -/
def execBoot (r : BootReport) (s : State) : Result := .next (if s.mayBoot then s.bootSequence r else s)

/-! ## Standby and Off -/

/-- R447, R448: why a request for a low-power state is refused; 0 when it is not. -/
def State.powerCheck (s : State) (off : Bool) : Nat :=
  if s.get F.BOOT_STATUS_STATE ≠ 3 then 4
  else if s.anyOccupied then 1
  else if s.flag F.LK_RESET_STATUS_BUSY then 2
  else if off ∧ s.lk.flashRun.isSome then 3
  else 0

/-- R448: a refused request. -/
def State.refusePower (s : State) (req code : Nat) : State :=
  (s.put F.BOOT_PWR_RESULT code).event 0x0709#16 srcPackage [(8, req), (8, code)]

/-- R447: the time is kept for the restart of R394, and the dies lose power; HBM is in self-refresh. -/
def State.enterStandby (s : State) : State :=
  let s := (s.setReg64 R.LK_LAST_INDEX (s.reg64 R.LOCK_INDEX)).setReg64 R.LK_LAST_FTC (s.reg64 R.LOCK_FTC)
  let s := s.setReg64 R.LK_LAST_NEXT (s.reg64 R.LOCK_NEXT_TICK)
  let s := { s with
    array := {}, lanes := []
    lock := { s.lock with active := [], inFlight := [], windowOpen := false, resetHold := true } }
  let s := (List.range 32).foldl (fun (s : State) p => s.darkPort p) s
  ((s.put F.BOOT_STATUS_STATE 6).put F.BOOT_PWR_RESULT 0).setLowPower 2

/-- R448: power leaves every die and stack. -/
def State.enterOff (s : State) : State :=
  let s := (s.setLowPower 3).losePower
  { s with module := { s.module with power := .off } }

/-- R447: REQ = 0; what follows in Standby is the exit, which ends with LEAVE_STANDBY_DONE. -/
def State.requestActive (s : State) : State := s.put F.BOOT_PWR_RESULT 0

/-- BOOT_PWR.REQ: a write of the register (R447, R448). REQ 1 is invalid and asks for nothing. -/
def State.powerRequest (s : State) (req : Nat) : State :=
  let s := s.put F.BOOT_PWR_REQ req
  if req = 0 then s.requestActive
  else if req = 1 then s
  else
    let code := s.powerCheck (req == 3)
    if code ≠ 0 then s.refusePower req code else if req = 2 then s.enterStandby else s.enterOff

/-- R447. -/
def execEnterStandby (s : State) : Result := .next (s.onLk (fun s => s.powerRequest 2))
/-- R447. -/
def execLeaveStandby (s : State) : Result := .next (s.onLk (fun s => s.powerRequest 0))
/-- R448. -/
def execEnterOff (s : State) : Result := .next (s.onLk (fun s => s.powerRequest 3))

/-- R447: the exit from Standby has run the rows of Table 15-5; a failure leaves the device out of service (R396). -/
def State.leaveStandby (s : State) (r : RecoveryReport) : State :=
  let s := s.resumeDies r
  if s.recoveryFails r then s.stayStopped.setLowPower 0
  else ((((s.trainPorts r.partners).restartTime r.elapsedNs s.period).relock).put F.BOOT_STATUS_STATE 3).showIdle

/-- R447. -/
def execLeaveStandbyDone (r : RecoveryReport) (s : State) : Result :=
  .next (if s.get F.BOOT_STATUS_STATE = 6 ∧ s.get F.BOOT_PWR_REQ = 0 then s.leaveStandby r else s)

end Sys2Proof.Machine
end

