-- ==== Sys2Proof/Machine/Spdm.lean ====
section
/-! DEFINITION. The DOE mailbox (R444, R445, R454): discovery, and SPDM 1.3 without secured messages. The fields of a request
are those of DMTF SPDM 1.3 (PRESUMED, log 46). -/

namespace Sys2Proof.Machine

/-- A byte of a request. -/
def reqByte (req : List Byte) (i : Nat) : Nat := (req.getD i 0).toNat

/-- A reply leaves, while the endpoint is up. -/
def State.answer (s : State) (r : DoeReply) : State := s.onLk (fun s => s.emit (.doeReply r))

/-- R454: an SPDM reply; while the security pair is halted every request is answered with Unspecified. -/
def State.spdm (s : State) (r : DoeReply) : State :=
  s.answer (if s.flag F.LK_STATUS_SEC_OUT then .unspecified else r)

/-- R432: the chain in slot 0. -/
def State.chain (s : State) : List Byte := Config.identityChain s.makerBody

/-- R444. -/
def execDoeDiscovery (_ : List Byte) (s : State) : Result := .next (s.answer .protocols)
/-- R444. -/
def execGetVersion (_ : List Byte) (s : State) : Result := .next (s.spdm .version)
/-- R444. -/
def execGetCapabilities (_ : List Byte) (s : State) : Result := .next (s.spdm .capabilities)

/-- R444: TPM_ALG_RSAPSS_4096 and TPM_ALG_SHA_512 are among those offered. -/
def offersAlgorithms (req : List Byte) : Bool := (reqByte req 8).testBit 6 && (reqByte req 12).testBit 2

/-- R444. -/
def execNegotiateAlgorithms (req : List Byte) (s : State) : Result :=
  .next (s.spdm (if offersAlgorithms req then .algorithms else .unsupportedRequest))

/-- R444: the digest of the one chain, in slot 0. -/
def execGetDigests (_ : List Byte) (s : State) : Result := .next (s.spdm (.digests (sha512 s.chain)))

/-- R444: part of the chain of slot 0, by offset and length, and what is left of it. -/
def State.certificate (s : State) (req : List Byte) : DoeReply :=
  if reqByte req 2 % 16 ≠ 0 then .unsupportedRequest
  else
    let part := (s.chain.drop (hdNum req 4 2)).take (hdNum req 6 2)
    .certificate part (s.chain.length - hdNum req 4 2 - part.length)
def execGetCertificate (req : List Byte) (s : State) : Result := .next (s.spdm (s.certificate req))

/-- R431: a response's signature. -/
def spdmSign (req content : List Byte) : List Byte := Config.identitySign (Config.spdmTranscript req content)

/-- R444: the key of slot 0 signs the challenge. -/
def State.challenge (s : State) (req : List Byte) : DoeReply :=
  if reqByte req 2 ≠ 0 then .unsupportedRequest else .challengeAuth (sha512 s.chain) (spdmSign req (sha512 s.chain))
def execChallenge (req : List Byte) (s : State) : Result := .next (s.spdm (s.challenge req))

/-- R445: the blocks asked for: all of them, or one. -/
def State.measurements (s : State) (req : List Byte) : DoeReply :=
  let k := reqByte req 3
  if k = 0 then .measurementCount s.lk.measurements.length
  else
    let blocks := s.lk.measurements.filter (fun b => k == 0xFF || b.1 == k)
    if blocks.isEmpty then .unsupportedRequest
    else .measurements blocks (if (reqByte req 2).testBit 0 then
      some (spdmSign req (blocks.flatMap (fun b => BitVec.ofNat 8 b.1 :: b.2))) else none)
def execGetMeasurements (req : List Byte) (s : State) : Result := .next (s.spdm (s.measurements req))

/-- R444: every other request. -/
def execSpdmUnsupportedRequest (_ : List Byte) (s : State) : Result := .next (s.spdm .unsupportedRequest)

end Sys2Proof.Machine
end

