-- ==== Sys2Proof/Machine/HostAccess.lean ====
section
/-! DEFINITION. The PCIe endpoint (R3 to R5, R395, R457 to R462): register accesses by size, alignment and half, BAR2, MSI-X
messages and the heartbeat. -/

namespace Sys2Proof.Machine

/-! ## The heartbeat -/

/-- R462: the host driver's timer, from boot step 6 on; R386: time since a recovery and since a compute reset. -/
def execHeartbeat (s : State) : Result :=
  .next (if s.lkPowered && !s.lk.heartbeatStopped && decide (6 ≤ s.get F.BOOT_STATUS_STEP) then
    { s.tick R.LK_HEARTBEAT with lk := { s.lk with
      sinceRecoveryMs := s.lk.sinceRecoveryMs.map (· + 100)
      sinceComputeMs := s.lk.sinceComputeMs.map (· + 100) } }
  else s)

/-! ## MSI-X -/

/-- R461: the causes that wait on vector `v` share one message; masked meanwhile, they set its PBA bit. -/
def State.sendMsix (s : State) (v : Nat) : State :=
  if s.lk.msixPending.contains v then
    let s := { s with lk := { s.lk with msixPending := s.lk.msixPending.filter (· != v) } }
    if s.flag (F.MSIX_CTL_MASK v) then s.setReg64 R.MSIX_PBA (s.reg64 R.MSIX_PBA ||| BitVec.twoPow 64 v)
    else s.emit (.msix v)
  else s
def execMsixMessage (v : Fin 64) (s : State) : Result := .next (s.onLk (fun s => s.sendMsix v.val))

/-- R461: a write of a vector's control word; once unmasked, what its PBA bit holds waits to be sent. -/
def State.writeMsixCtl (s : State) (v : Nat) (w : Word) : State :=
  let s := s.hostWrite (R.MSIX_CTL v) w
  if !s.flag (F.MSIX_CTL_MASK v) && (s.reg64 R.MSIX_PBA).getLsbD v then
    (s.setReg64 R.MSIX_PBA (s.reg64 R.MSIX_PBA &&& ~~~(BitVec.twoPow 64 v))).raise v
  else s

/-! ## BAR2 -/

/-- R295, R458. -/
def execBar2Read (x : Nat) (len : Nat) (s : State) : Result :=
  .next (s.onLk (fun s => s.access (.read (s.bar2 x) len)))
/-- R295, R458. -/
def execBar2Write (x : Nat) (bytes : List Byte) (s : State) : Result :=
  .next (s.onLk (fun s => s.access (.write (s.bar2 x) bytes)))

/-! ## Link and configuration space -/

/-- R457: a hot reset resets the link and configuration space, of which this model holds nothing; the device works on. -/
def execHotReset (s : State) : Result := .next s
/-- R457: D0 stays in force. -/
def execPmcsrWrite (_ : Word) (s : State) : Result := .next s

/-! ## Registers -/

/-- Table 00-2, Table 17-4 step 2: the blocks that the Lockkeeper serves alone. -/
def lkBlock (a : Nat) : Bool := decide (a < 0x100000) || (decide (0x1800000 ≤ a) && decide (a < 0x4000000))

/-- R3, R395: whether offset `a` is served. -/
def State.served (s : State) (a : Nat) : Bool := s.lkServes && (lkBlock a || s.diesServe)

/-- What a write of a register does beyond its access code, by the base offset of its row: the row's indices and the word. -/
def writeEffects : List (Nat × (List Nat → Word → State → State)) := [
  (R.FORMAT_CB_CMD, fun _ w s => s.codebookCmd w),
  (R.SCALE_RD_SEL, fun _ w s => s.scaleSelect w),
  (R.SCALE_CSTAT_RD_SEL, fun _ w s => s.cstatSelect w),
  (R.COMPUTE_ENG_SEL 0, fun i w s => (s.hostWrite (R.COMPUTE_ENG_SEL (i.headD 0)) w).showEngine (i.headD 0)),
  (R.TRAIN_WIDEN_SEL, fun _ w s => (s.hostWrite R.TRAIN_WIDEN_SEL w).showWiden),
  (R.TRAIN_VERDICT_SEL, fun _ w s => (s.hostWrite R.TRAIN_VERDICT_SEL w).showVerdicts),
  (R.VECTOR_KERNEL_SEL, fun _ w s => (s.hostWrite R.VECTOR_KERNEL_SEL w).showKernels),
  (R.TRAIN_CTL, fun _ w s => s.trainCtl w),
  (R.MEM_MARGIN_CTL, fun _ w s => s.marginCtl w),
  (R.LINK_CTX_EPOCH 0, fun i w s => s.writeEpoch (i.headD 0) w),
  (R.LINK_AGREE_CTL, fun _ w s => s.agreeCtl w),
  (R.LINK_GRP_CFG 0, fun i w s => s.writeGroup (.cfg (Fin.ofNat 1024 (i.headD 0))) w),
  (R.LINK_GRP_MEM 0, fun i w s => s.writeGroup (.mem (Fin.ofNat 1024 (i.headD 0))) w),
  (R.LINK_PORT_CTL 0 0, fun i w s =>
    if w.getLsbD 29 then s.acceptPartner (16 * i.headD 0 + i.getD 1 0) else s),
  (R.HEALTH_ENG_SEL, fun _ w s => (s.hostWrite R.HEALTH_ENG_SEL w).showTest),
  (R.RECORDER_RD_SEL, fun _ w s => s.recorderSelect w),
  (R.LK_RESET_CMD, fun _ w s => s.resetCmd w),
  (R.LK_QUAR_VALID, fun _ w s => s.freeQuarantine w),
  (R.LK_SNAP_CMD, fun _ w s => s.snapCmd w none none),
  (R.BOOT_CMD, fun _ w s => s.flashCmd w none),
  (R.BOOT_CMD_OFFSET, fun _ w s => if s.lk.flashRun.isSome then s else s.hostWrite R.BOOT_CMD_OFFSET w),
  (R.BOOT_CMD_LEN, fun _ w s => if s.lk.flashRun.isSome then s else s.hostWrite R.BOOT_CMD_LEN w),
  (R.BOOT_STAGE 0, fun i w s => if s.lk.flashRun.isSome then s else s.hostWrite (R.BOOT_STAGE (i.headD 0)) w),
  (R.BOOT_PWR, fun _ w s => s.powerRequest (F.BOOT_PWR_REQ.of w)),
  (R.LK_SQ_SIZE 0, fun i w s => s.writeQueue (i.headD 0) .sqSize w),
  (R.LK_CQ_SIZE 0, fun i w s => s.writeQueue (i.headD 0) .cqSize w),
  (R.LK_SQ_TAIL 0, fun _ _ s => s),
  (R.LK_CQ_HEAD 0, fun i w s => s.cqDoorbell (i.headD 0) w),
  (R.MODULE_CTL, fun _ w s => s.wakeUp w),
  (R.MODULE_PWR_LIMIT, fun _ w s => s.limitPower w),
  (R.MSIX_CTL 0, fun i w s => s.writeMsixCtl (i.headD 0) w)]

/-- What a commit of a 64-bit register does beyond R5. -/
def commitEffects : List (Nat × (List Nat → State → State)) := [
  (R.MEM_XLATE_ADDR, fun _ s => s.showXlate),
  (R.LK_SQ_BASE 0, fun i s => s.restartSq (i.headD 0)),
  (R.LK_CQ_BASE 0, fun i s => s.restartCq (i.headD 0))]

/-- R470: a queue base is not written while its context is not EMPTY. -/
def State.baseLocked (s : State) (base : Nat) (is : List Nat) : Bool :=
  (base == R.LK_SQ_BASE 0 || base == R.LK_CQ_BASE 0) && s.occupied (is.headD 0)

/-- R3, R5, Table 00-3: an aligned 32-bit write at offset `a` of a block that is served. -/
def State.writeRegister (s : State) (a : Nat) (w : Word) : State :=
  match regRow a with
  | none => s
  | some (r, is, h) =>
    if s.baseLocked r.base is then s
    else if r.wide then
      if h = 0 then s.holdLow a w
      else
        let s := s.commitHigh (a - 4) w
        match commitEffects.lookup r.base with
        | some f => f is s
        | none => s
    else match writeEffects.lookup r.base with
      | some f => f is w s
      | none => s.hostWrite a w

/-- R4: a write of 4 bytes, aligned, to a block that is served; any other has no effect. -/
def State.hostStore (s : State) (a size : Nat) (w : Word) : State :=
  if size = 4 ∧ a % 4 = 0 ∧ s.served a then s.writeRegister a w else s

/-- R4. -/
def execRegisterWrite (a : Nat) (size : Nat) (w : Word) (s : State) : Result := .next (s.hostStore a size w)
/-- R5. -/
def execReg64LowHalfWrite (a : Nat) (w : Word) (s : State) : Result := .next (s.hostStore a 4 w)
/-- R5. -/
def execReg64HighHalfWrite (a : Nat) (w : Word) (s : State) : Result := .next (s.hostStore a 4 w)

/-- R3 to R5, R7: a read of `size` bytes at offset `a`: what it returns, and what it leaves. -/
def State.readRegister (s : State) (a size : Nat) : State :=
  if size ≠ 4 || a % 4 != 0 || !s.served a then s.emit (.busReply 0)
  else match wideHalf a with
    | some 0 => (s.emit (.busReply (regReadValue a (s.reg a)))).latch a
    | some _ => (s.emit (.busReply (s.highHalf (a - 4)))).unlatch (a - 4)
    | none => (s.emit (.busReply (regReadValue a (s.reg a)))).setReg a (regAfterRead a (s.reg a))

/-- R4, R5. -/
def execReg64LowHalfRead (a : RegRead) (s : State) : Result := .next (s.onLk (fun s => s.readRegister a.offset a.size))
/-- R4, R5. -/
def execReg64HighHalfRead (a : RegRead) (s : State) : Result := .next (s.onLk (fun s => s.readRegister a.offset a.size))

/-- Table 02-16: an RC register: the read returns the count and clears it. -/
def execNonfiniteOutRead (s : State) : Result := .next (s.onLk (fun s => s.readRegister R.FORMAT_NONFINITE_OUT 4))

end Sys2Proof.Machine
end

