-- ==== Sys2Proof/Machine/Tasks.lean ====
section
/-! DEFINITION. The end of a task (R136): its tile slot is read, its part of the barge's work done, and the slot is free. -/

namespace Sys2Proof.Machine

/-- R109, R136, R206, R231: task `t` in slot `key` finishes its work. -/
def State.drainTask (s : State) (b : Barge) (key t : Nat) : State :=
  if b.cls = 1 then s.drainProduct b key t
  else if b.cls = 2 then s.drainAttention b (key / 2) t
  else s.drainVector b t

/-- R356: the words of on-chip memory that a task of engine `e` reads: its operand buffer, its cluster's buffer, and the
partials of its barge. -/
def State.taskWord (s : State) (e : EngineId) (w : SramWord) : Bool :=
  match w.memory with
  | .operand x => x == e
  | .cluster g => g.val == clusterOf e.val
  | _ => !s.array.partials.isEmpty && wordIn [splitKArea] w

/-- R136: the drain of a tile slot whose task has issued its last product, held until the retire counter reaches the expected
count; then the slot is read and free. -/
def execTileDrain (e : EngineId) (slot : Fin 2) (s : State) : Result :=
  .next (match s.arrayBarge, s.array.slots.lookup (slotKey e.val slot.val) with
  | some b, some x => s.readingWords b (s.taskWord e) (fun s =>
      ((s.drainTask b (slotKey e.val slot.val) x.task).retire e.val slot.val x.task).secondPass b)
  | _, _ => s)

end Sys2Proof.Machine
end

