-- ==== Sys2Proof/Machine/Lanes.lean ====
section
/-! DEFINITION. The vector instructions (R192 to R199), each issued by one engine to its 64 lanes. -/

namespace Sys2Proof.Machine

/-- Lane `l` of engine `e`. -/
def State.lane (s : State) (e l : Nat) : Lane := tblGet laneDefault s.lanes (64 * e + l)
def State.setLane (s : State) (e l : Nat) (x : Lane) : State :=
  { s with lanes := tblSet laneDefault s.lanes (64 * e + l) x }

/-- Table 08-2: a source field as a source. -/
def srcOf (n : Fin 33) : VSrc := if h : n.val < 32 then .reg ⟨n.val, h⟩ else .const

/-- Sources that an operation uses (Table 08-3). -/
def vopUses (o : VOp) : Nat := ((vopTable.find? (fun r => r.2.1 == o)).map (fun r => r.2.2.2)).getD 0

/-- R195, R196, Table 08-1: an unused source is 0, a compare names one of eight mask registers, SEL is not predicated. -/
def validFields (o : VOp) (f : VFields) : Bool :=
  (decide (1 ≤ vopUses o) || f.a == 0) && (decide (2 ≤ vopUses o) || f.b == 0) && (decide (3 ≤ vopUses o) || f.c == 0) &&
    (!isCompare o || decide (f.dst.val < 8)) && (o != .sel || !f.maskEn)

/-- The instruction that an operation and its fields make. -/
def vinsOf (o : VOp) (f : VFields) : VIns :=
  ⟨o, f.dst, srcOf f.a, srcOf f.b, srcOf f.c, f.maskEn, f.maskSel, f.imm.val⟩

/-- R195, R199: what an instruction of a context's kernel reads beside registers: every lane sees the constant alike. -/
def State.issueEnv (s : State) (f : VFields) : VEnv :=
  { s.venv f.ctx.val with consts := List.replicate (f.imm.val + 1) f.pool }

/-- R192: one vector issue: engine `e` runs an instruction in its 64 lanes. A disabled engine has no lanes, and an
instruction that R201 refuses reaches none. -/
def State.issue (s : State) (e : EngineId) (o : VOp) (f : VFields) : State :=
  if s.isEnabled e.val && validFields o f then
    (List.range 64).foldl (fun s' l => s'.setLane e.val l (laneStep (s.issueEnv f) (vinsOf o f) (s.lane e.val l))) s
  else s

/-- R197, Table 08-3. -/
def execAdd (e : EngineId) (f : VFields) (s : State) : Result := .next (s.issue e .add f)
/-- R197, Table 08-3. -/
def execSub (e : EngineId) (f : VFields) (s : State) : Result := .next (s.issue e .sub f)
/-- R197, Table 08-3. -/
def execMul (e : EngineId) (f : VFields) (s : State) : Result := .next (s.issue e .mul f)
/-- R197, Table 08-3. -/
def execFma (e : EngineId) (f : VFields) (s : State) : Result := .next (s.issue e .fma f)
/-- R197, Table 08-3. -/
def execMin (e : EngineId) (f : VFields) (s : State) : Result := .next (s.issue e .min f)
/-- R197, Table 08-3. -/
def execMax (e : EngineId) (f : VFields) (s : State) : Result := .next (s.issue e .max f)
/-- R197, Table 08-3. -/
def execAbs (e : EngineId) (f : VFields) (s : State) : Result := .next (s.issue e .abs f)
/-- R197, Table 08-3. -/
def execNeg (e : EngineId) (f : VFields) (s : State) : Result := .next (s.issue e .neg f)
/-- R197, Table 08-3. -/
def execCopysign (e : EngineId) (f : VFields) (s : State) : Result := .next (s.issue e .copysign f)
/-- R198, Table 08-3. -/
def execMov (e : EngineId) (f : VFields) (s : State) : Result := .next (s.issue e .mov f)
/-- R197, Table 08-3. -/
def execDiv (e : EngineId) (f : VFields) (s : State) : Result := .next (s.issue e .div f)
/-- R197, Table 08-3. -/
def execSqrt (e : EngineId) (f : VFields) (s : State) : Result := .next (s.issue e .sqrt f)
/-- R197, Table 08-3. -/
def execRcp (e : EngineId) (f : VFields) (s : State) : Result := .next (s.issue e .rcp f)
/-- R197, Table 08-3. -/
def execRsqrt (e : EngineId) (f : VFields) (s : State) : Result := .next (s.issue e .rsqrt f)
/-- R197, Table 08-3. -/
def execExp2 (e : EngineId) (f : VFields) (s : State) : Result := .next (s.issue e .exp2 f)
/-- R197, Table 08-3. -/
def execLog2 (e : EngineId) (f : VFields) (s : State) : Result := .next (s.issue e .log2 f)
/-- R197, Table 08-3. -/
def execExp (e : EngineId) (f : VFields) (s : State) : Result := .next (s.issue e .exp f)
/-- R197, Table 08-3. -/
def execLog (e : EngineId) (f : VFields) (s : State) : Result := .next (s.issue e .log f)
/-- R197, Table 08-3. -/
def execTanh (e : EngineId) (f : VFields) (s : State) : Result := .next (s.issue e .tanh f)
/-- R197, Table 08-3. -/
def execSigmoid (e : EngineId) (f : VFields) (s : State) : Result := .next (s.issue e .sigmoid f)
/-- R197, Table 08-3. -/
def execErf (e : EngineId) (f : VFields) (s : State) : Result := .next (s.issue e .erf f)
/-- R197, Table 08-3. -/
def execSinpi (e : EngineId) (f : VFields) (s : State) : Result := .next (s.issue e .sinpi f)
/-- R197, Table 08-3. -/
def execCospi (e : EngineId) (f : VFields) (s : State) : Result := .next (s.issue e .cospi f)
/-- R198, Table 08-3. -/
def execCmpeq (e : EngineId) (f : VFields) (s : State) : Result := .next (s.issue e .cmpeq f)
/-- R198, Table 08-3. -/
def execCmpne (e : EngineId) (f : VFields) (s : State) : Result := .next (s.issue e .cmpne f)
/-- R198, Table 08-3. -/
def execCmplt (e : EngineId) (f : VFields) (s : State) : Result := .next (s.issue e .cmplt f)
/-- R198, Table 08-3. -/
def execCmple (e : EngineId) (f : VFields) (s : State) : Result := .next (s.issue e .cmple f)
/-- R198, Table 08-3. -/
def execCmpun (e : EngineId) (f : VFields) (s : State) : Result := .next (s.issue e .cmpun f)
/-- R196, Table 08-3. -/
def execSel (e : EngineId) (f : VFields) (s : State) : Result := .next (s.issue e .sel f)
/-- R198, Table 08-3. -/
def execIadd (e : EngineId) (f : VFields) (s : State) : Result := .next (s.issue e .iadd f)
/-- R198, Table 08-3. -/
def execIsub (e : EngineId) (f : VFields) (s : State) : Result := .next (s.issue e .isub f)
/-- R198, Table 08-3. -/
def execImul (e : EngineId) (f : VFields) (s : State) : Result := .next (s.issue e .imul f)
/-- R198, Table 08-3. -/
def execAnd (e : EngineId) (f : VFields) (s : State) : Result := .next (s.issue e .and f)
/-- R198, Table 08-3. -/
def execOr (e : EngineId) (f : VFields) (s : State) : Result := .next (s.issue e .or f)
/-- R198, Table 08-3. -/
def execXor (e : EngineId) (f : VFields) (s : State) : Result := .next (s.issue e .xor f)
/-- R198, Table 08-3. -/
def execShl (e : EngineId) (f : VFields) (s : State) : Result := .next (s.issue e .shl f)
/-- R198, Table 08-3. -/
def execShr (e : EngineId) (f : VFields) (s : State) : Result := .next (s.issue e .shr f)
/-- R198, Table 08-3. -/
def execIcmplt (e : EngineId) (f : VFields) (s : State) : Result := .next (s.issue e .icmplt f)
/-- R198, Table 08-3. -/
def execIcmpeq (e : EngineId) (f : VFields) (s : State) : Result := .next (s.issue e .icmpeq f)
/-- R197, Table 08-3. -/
def execCvtif (e : EngineId) (f : VFields) (s : State) : Result := .next (s.issue e .cvtif f)
/-- R197, Table 08-3. -/
def execCvtfi (e : EngineId) (f : VFields) (s : State) : Result := .next (s.issue e .cvtfi f)
/-- R197, Table 08-3. -/
def execRndbf16 (e : EngineId) (f : VFields) (s : State) : Result := .next (s.issue e .rndbf16 f)
/-- R197, Table 08-3. -/
def execRndf16 (e : EngineId) (f : VFields) (s : State) : Result := .next (s.issue e .rndf16 f)
/-- R199, Table 08-3. -/
def execRand (e : EngineId) (f : VFields) (s : State) : Result := .next (s.issue e .rand f)

end Sys2Proof.Machine
end

