-- ==== Sys2Proof/Machine/Dispatch.lean ====
section
/-! DEFINITION. Which meaning each command has: one arm per constructor, one direct call per arm. -/

namespace Sys2Proof.Machine

def exec (i : Instr) (s : State) : Host.Outcome State Fault Refusal :=
  match i with
  | .lockTick => Sys2Proof.Machine.execLockTick s
  | .workWindowOpen => Sys2Proof.Machine.execWorkWindowOpen s
  | .projectEndEvaluation now => Sys2Proof.Machine.execProjectEndEvaluation now s
  | .workWindowClose => Sys2Proof.Machine.execWorkWindowClose s
  | .drainEnd now => Sys2Proof.Machine.execDrainEnd now s
  | .bargeComplete pos now => Sys2Proof.Machine.execBargeComplete pos now s
  | .tickInEdge now => Sys2Proof.Machine.execTickInEdge now s
  | .schedSend => Sys2Proof.Machine.execSchedSend s
  | .timeExchange now => Sys2Proof.Machine.execTimeExchange now s
  | .ftcSyncTimeout now => Sys2Proof.Machine.execFtcSyncTimeout now s
  | .nop pos => Sys2Proof.Machine.execNop pos s
  | .notify pos => Sys2Proof.Machine.execNotify pos s
  | .controlFence pos => Sys2Proof.Machine.execControlFence pos s
  | .codebookLoad w => Sys2Proof.Machine.execCodebookLoad w s
  | .codebookLoadEnd => Sys2Proof.Machine.execCodebookLoadEnd s
  | .nonfiniteOutRead => Sys2Proof.Machine.execNonfiniteOutRead s
  | .scaleRead w => Sys2Proof.Machine.execScaleRead w s
  | .scaleReadCopy => Sys2Proof.Machine.execScaleReadCopy s
  | .scaleUpdateComplete c => Sys2Proof.Machine.execScaleUpdateComplete c s
  | .sluiceRebuildDone c => Sys2Proof.Machine.execSluiceRebuildDone c s
  | .planRetimeDone c => Sys2Proof.Machine.execPlanRetimeDone c s
  | .product pos => Sys2Proof.Machine.execProduct pos s
  | .batched pos => Sys2Proof.Machine.execBatched pos s
  | .counted pos => Sys2Proof.Machine.execCounted pos s
  | .taskClaim e => Sys2Proof.Machine.execTaskClaim e s
  | .taskSteal e => Sys2Proof.Machine.execTaskSteal e s
  | .stealRetry e => Sys2Proof.Machine.execStealRetry e s
  | .splitkSlotRetry e => Sys2Proof.Machine.execSplitkSlotRetry e s
  | .tileDrain e slot => Sys2Proof.Machine.execTileDrain e slot s
  | .computeClockChange d clock => Sys2Proof.Machine.execComputeClockChange d clock s
  | .map pos => Sys2Proof.Machine.execMap pos s
  | .row pos => Sys2Proof.Machine.execRow pos s
  | .rowStageStart pos => Sys2Proof.Machine.execRowStageStart pos s
  | .reduce pos => Sys2Proof.Machine.execReduce pos s
  | .compress pos => Sys2Proof.Machine.execCompress pos s
  | .expand pos => Sys2Proof.Machine.execExpand pos s
  | .rotate pos => Sys2Proof.Machine.execRotate pos s
  | .unrotate pos => Sys2Proof.Machine.execUnrotate pos s
  | .add e f => Sys2Proof.Machine.execAdd e f s
  | .sub e f => Sys2Proof.Machine.execSub e f s
  | .mul e f => Sys2Proof.Machine.execMul e f s
  | .fma e f => Sys2Proof.Machine.execFma e f s
  | .min e f => Sys2Proof.Machine.execMin e f s
  | .max e f => Sys2Proof.Machine.execMax e f s
  | .abs e f => Sys2Proof.Machine.execAbs e f s
  | .neg e f => Sys2Proof.Machine.execNeg e f s
  | .copysign e f => Sys2Proof.Machine.execCopysign e f s
  | .mov e f => Sys2Proof.Machine.execMov e f s
  | .div e f => Sys2Proof.Machine.execDiv e f s
  | .sqrt e f => Sys2Proof.Machine.execSqrt e f s
  | .rcp e f => Sys2Proof.Machine.execRcp e f s
  | .rsqrt e f => Sys2Proof.Machine.execRsqrt e f s
  | .exp2 e f => Sys2Proof.Machine.execExp2 e f s
  | .log2 e f => Sys2Proof.Machine.execLog2 e f s
  | .exp e f => Sys2Proof.Machine.execExp e f s
  | .log e f => Sys2Proof.Machine.execLog e f s
  | .tanh e f => Sys2Proof.Machine.execTanh e f s
  | .sigmoid e f => Sys2Proof.Machine.execSigmoid e f s
  | .erf e f => Sys2Proof.Machine.execErf e f s
  | .sinpi e f => Sys2Proof.Machine.execSinpi e f s
  | .cospi e f => Sys2Proof.Machine.execCospi e f s
  | .cmpeq e f => Sys2Proof.Machine.execCmpeq e f s
  | .cmpne e f => Sys2Proof.Machine.execCmpne e f s
  | .cmplt e f => Sys2Proof.Machine.execCmplt e f s
  | .cmple e f => Sys2Proof.Machine.execCmple e f s
  | .cmpun e f => Sys2Proof.Machine.execCmpun e f s
  | .sel e f => Sys2Proof.Machine.execSel e f s
  | .iadd e f => Sys2Proof.Machine.execIadd e f s
  | .isub e f => Sys2Proof.Machine.execIsub e f s
  | .imul e f => Sys2Proof.Machine.execImul e f s
  | .and e f => Sys2Proof.Machine.execAnd e f s
  | .or e f => Sys2Proof.Machine.execOr e f s
  | .xor e f => Sys2Proof.Machine.execXor e f s
  | .shl e f => Sys2Proof.Machine.execShl e f s
  | .shr e f => Sys2Proof.Machine.execShr e f s
  | .icmplt e f => Sys2Proof.Machine.execIcmplt e f s
  | .icmpeq e f => Sys2Proof.Machine.execIcmpeq e f s
  | .cvtif e f => Sys2Proof.Machine.execCvtif e f s
  | .cvtfi e f => Sys2Proof.Machine.execCvtfi e f s
  | .rndbf16 e f => Sys2Proof.Machine.execRndbf16 e f s
  | .rndf16 e f => Sys2Proof.Machine.execRndf16 e f s
  | .rand e f => Sys2Proof.Machine.execRand e f s
  | .forward pos => Sys2Proof.Machine.execForward pos s
  | .partialSegments pos => Sys2Proof.Machine.execPartialSegments pos s
  | .join pos => Sys2Proof.Machine.execJoin pos s
  | .backward pos => Sys2Proof.Machine.execBackward pos s
  | .rope pos => Sys2Proof.Machine.execRope pos s
  | .copy pos => Sys2Proof.Machine.execCopy pos s
  | .copy2d pos => Sys2Proof.Machine.execCopy2d pos s
  | .fill pos => Sys2Proof.Machine.execFill pos s
  | .stashSave pos => Sys2Proof.Machine.execStashSave pos s
  | .stashLoad pos => Sys2Proof.Machine.execStashLoad pos s
  | .adam pos => Sys2Proof.Machine.execAdam pos s
  | .momentum pos => Sys2Proof.Machine.execMomentum pos s
  | .updateCopy pos => Sys2Proof.Machine.execUpdateCopy pos s
  | .voteStep pos => Sys2Proof.Machine.execVoteStep pos s
  | .voteCommit pos => Sys2Proof.Machine.execVoteCommit pos s
  | .stepVerdict c v => Sys2Proof.Machine.execStepVerdict c v s
  | .commitVerdict c v => Sys2Proof.Machine.execCommitVerdict c v s
  | .reduceScatter pos => Sys2Proof.Machine.execReduceScatter pos s
  | .allReduce pos => Sys2Proof.Machine.execAllReduce pos s
  | .allGather pos => Sys2Proof.Machine.execAllGather pos s
  | .broadcast pos => Sys2Proof.Machine.execBroadcast pos s
  | .shift pos => Sys2Proof.Machine.execShift pos s
  | .allToAll pos => Sys2Proof.Machine.execAllToAll pos s
  | .amaxAgree pos => Sys2Proof.Machine.execAmaxAgree pos s
  | .cstatAgree pos => Sys2Proof.Machine.execCstatAgree pos s
  | .testEngine pos sigs => Sys2Proof.Machine.execTestEngine pos sigs s
  | .testDrain pos => Sys2Proof.Machine.execTestDrain pos s
  | .testScrub pos => Sys2Proof.Machine.execTestScrub pos s
  | .testSliceEnd e sig => Sys2Proof.Machine.execTestSliceEnd e sig s
  | .resumeContext w => Sys2Proof.Machine.execResumeContext w s
  | .clearSkipRun w => Sys2Proof.Machine.execClearSkipRun w s
  | .cstatRead w => Sys2Proof.Machine.execCstatRead w s
  | .cstatReadCopy => Sys2Proof.Machine.execCstatReadCopy s
  | .retrainPhaseEnd r => Sys2Proof.Machine.execRetrainPhaseEnd r s
  | .stackTemperatureRead st temp => Sys2Proof.Machine.execStackTemperatureRead st temp s
  | .refreshManagementRequest st => Sys2Proof.Machine.execRefreshManagementRequest st s
  | .marginSweep w => Sys2Proof.Machine.execMarginSweep w s
  | .marginSweepEnd low high worst => Sys2Proof.Machine.execMarginSweepEnd low high worst s
  | .memXlate addr => Sys2Proof.Machine.execMemXlate addr s
  | .dataFlit p f => Sys2Proof.Machine.execDataFlit p f s
  | .idleFlit p f => Sys2Proof.Machine.execIdleFlit p f s
  | .nak p f => Sys2Proof.Machine.execNak p f s
  | .hello p f => Sys2Proof.Machine.execHello p f s
  | .time p f now => Sys2Proof.Machine.execTime p f now s
  | .eq p f => Sys2Proof.Machine.execEq p f s
  | .linkSilence p => Sys2Proof.Machine.execLinkSilence p s
  | .linkTrainingFailed p => Sys2Proof.Machine.execLinkTrainingFailed p s
  | .linkRetrain p => Sys2Proof.Machine.execLinkRetrain p s
  | .linkUp p => Sys2Proof.Machine.execLinkUp p s
  | .portAccept p => Sys2Proof.Machine.execPortAccept p s
  | .equalisationStepEnd p => Sys2Proof.Machine.execEqualisationStepEnd p s
  | .packetForward p pk => Sys2Proof.Machine.execPacketForward p pk s
  | .put p pk => Sys2Proof.Machine.execPut p pk s
  | .putAck p pk => Sys2Proof.Machine.execPutAck p pk s
  | .putResend n => Sys2Proof.Machine.execPutResend n s
  | .sched p pk now => Sys2Proof.Machine.execSched p pk now s
  | .stretchReq p pk now => Sys2Proof.Machine.execStretchReq p pk now s
  | .abort p pk => Sys2Proof.Machine.execAbort p pk s
  | .agree p pk => Sys2Proof.Machine.execAgree p pk s
  | .mgmt p pk tags => Sys2Proof.Machine.execMgmt p pk tags s
  | .agreementMax w => Sys2Proof.Machine.execAgreementMax w s
  | .agreementMin w => Sys2Proof.Machine.execAgreementMin w s
  | .agreementTimeout => Sys2Proof.Machine.execAgreementTimeout s
  | .groupTableWrite t w => Sys2Proof.Machine.execGroupTableWrite t w s
  | .ctxEpochWrite c w => Sys2Proof.Machine.execCtxEpochWrite c w s
  | .lockstepMismatch pair => Sys2Proof.Machine.execLockstepMismatch pair s
  | .ucieLinkRecovery link ok => Sys2Proof.Machine.execUcieLinkRecovery link ok s
  | .watchtowerEval => Sys2Proof.Machine.execWatchtowerEval s
  | .watchtowerWindowAdvance => Sys2Proof.Machine.execWatchtowerWindowAdvance s
  | .graceExpiry => Sys2Proof.Machine.execGraceExpiry s
  | .recorderRead w => Sys2Proof.Machine.execRecorderRead w s
  | .recorderReadCopy => Sys2Proof.Machine.execRecorderReadCopy s
  | .watchdogSample => Sys2Proof.Machine.execWatchdogSample s
  | .computeResetTimeout => Sys2Proof.Machine.execComputeResetTimeout s
  | .recoveryTimeout => Sys2Proof.Machine.execRecoveryTimeout s
  | .computeReset w => Sys2Proof.Machine.execComputeReset w s
  | .deviceRecovery w => Sys2Proof.Machine.execDeviceRecovery w s
  | .contextTeardown w => Sys2Proof.Machine.execContextTeardown w s
  | .resetDrainEnd now => Sys2Proof.Machine.execResetDrainEnd now s
  | .computeResetDone ms => Sys2Proof.Machine.execComputeResetDone ms s
  | .deviceRecoveryDone r => Sys2Proof.Machine.execDeviceRecoveryDone r s
  | .teardownDrainEnd c us => Sys2Proof.Machine.execTeardownDrainEnd c us s
  | .quarantineFree w => Sys2Proof.Machine.execQuarantineFree w s
  | .captureNext w => Sys2Proof.Machine.execCaptureNext w s
  | .seal w => Sys2Proof.Machine.execSeal w s
  | .sealAck => Sys2Proof.Machine.execSealAck s
  | .sealTimeout => Sys2Proof.Machine.execSealTimeout s
  | .restore w remote => Sys2Proof.Machine.execRestore w remote s
  | .restoreSourceTimeout => Sys2Proof.Machine.execRestoreSourceTimeout s
  | .bindBuddy w tags => Sys2Proof.Machine.execBindBuddy w tags s
  | .buddyTimeout => Sys2Proof.Machine.execBuddyTimeout s
  | .snapshotStart w => Sys2Proof.Machine.execSnapshotStart w s
  | .captureComplete c => Sys2Proof.Machine.execCaptureComplete c s
  | .captureGapExpiry c => Sys2Proof.Machine.execCaptureGapExpiry c s
  | .snapshotExport c => Sys2Proof.Machine.execSnapshotExport c s
  | .exportAck c => Sys2Proof.Machine.execExportAck c s
  | .wardCopyReceived c slot bytes => Sys2Proof.Machine.execWardCopyReceived c slot bytes s
  | .fwWrite w => Sys2Proof.Machine.execFwWrite w s
  | .fwCommit w => Sys2Proof.Machine.execFwCommit w s
  | .fwConfirm w => Sys2Proof.Machine.execFwConfirm w s
  | .siteWrite w => Sys2Proof.Machine.execSiteWrite w s
  | .enrol w => Sys2Proof.Machine.execEnrol w s
  | .release w nonce => Sys2Proof.Machine.execRelease w nonce s
  | .flashCommandDone => Sys2Proof.Machine.execFlashCommandDone s
  | .enterStandby => Sys2Proof.Machine.execEnterStandby s
  | .leaveStandby => Sys2Proof.Machine.execLeaveStandby s
  | .leaveStandbyDone r => Sys2Proof.Machine.execLeaveStandbyDone r s
  | .enterOff => Sys2Proof.Machine.execEnterOff s
  | .doeDiscovery req => Sys2Proof.Machine.execDoeDiscovery req s
  | .getVersion req => Sys2Proof.Machine.execGetVersion req s
  | .getCapabilities req => Sys2Proof.Machine.execGetCapabilities req s
  | .negotiateAlgorithms req => Sys2Proof.Machine.execNegotiateAlgorithms req s
  | .getDigests req => Sys2Proof.Machine.execGetDigests req s
  | .getCertificate req => Sys2Proof.Machine.execGetCertificate req s
  | .challenge req => Sys2Proof.Machine.execChallenge req s
  | .getMeasurements req => Sys2Proof.Machine.execGetMeasurements req s
  | .spdmUnsupportedRequest req => Sys2Proof.Machine.execSpdmUnsupportedRequest req s
  | .sqDoorbell c w entries => Sys2Proof.Machine.execSqDoorbell c w entries s
  | .cqHeadDoorbell c w => Sys2Proof.Machine.execCqHeadDoorbell c w s
  | .queueConfigWrite c q w => Sys2Proof.Machine.execQueueConfigWrite c q w s
  | .load c => Sys2Proof.Machine.execLoad c s
  | .imageFetched c im => Sys2Proof.Machine.execImageFetched c im s
  | .loadHbm c im => Sys2Proof.Machine.execLoadHbm c im s
  | .start c => Sys2Proof.Machine.execStart c s
  | .eval c => Sys2Proof.Machine.execEval c s
  | .pause c => Sys2Proof.Machine.execPause c s
  | .sqFence c => Sys2Proof.Machine.execSqFence c s
  | .heartbeat => Sys2Proof.Machine.execHeartbeat s
  | .msixMessage v => Sys2Proof.Machine.execMsixMessage v s
  | .bar2Read x len => Sys2Proof.Machine.execBar2Read x len s
  | .bar2Write x bytes => Sys2Proof.Machine.execBar2Write x bytes s
  | .hotReset => Sys2Proof.Machine.execHotReset s
  | .pmcsrWrite w => Sys2Proof.Machine.execPmcsrWrite w s
  | .registerWrite a size w => Sys2Proof.Machine.execRegisterWrite a size w s
  | .reg64LowHalfRead a => Sys2Proof.Machine.execReg64LowHalfRead a s
  | .reg64HighHalfRead a => Sys2Proof.Machine.execReg64HighHalfRead a s
  | .reg64LowHalfWrite a w => Sys2Proof.Machine.execReg64LowHalfWrite a w s
  | .reg64HighHalfWrite a w => Sys2Proof.Machine.execReg64HighHalfWrite a w s
  | .coldPowerOn => Sys2Proof.Machine.execColdPowerOn s
  | .pwrGoodFall => Sys2Proof.Machine.execPwrGoodFall s
  | .undervoltageShutdown => Sys2Proof.Machine.execUndervoltageShutdown s
  | .perstNAssert => Sys2Proof.Machine.execPerstNAssert s
  | .boot r => Sys2Proof.Machine.execBoot r s
  | .powerSample watts avg => Sys2Proof.Machine.execPowerSample watts avg s
  | .dieThermalSample d temp => Sys2Proof.Machine.execDieThermalSample d temp s
  | .thermalTrip u temp => Sys2Proof.Machine.execThermalTrip u temp s
  | .sensorSample k value => Sys2Proof.Machine.execSensorSample k value s
  | .leakNLow => Sys2Proof.Machine.execLeakNLow s
  | .alarmClear al => Sys2Proof.Machine.execAlarmClear al s
  | .i3cRegisterRead a => Sys2Proof.Machine.execI3cRegisterRead a s
  | .i3cRegisterWrite a w => Sys2Proof.Machine.execI3cRegisterWrite a w s
  | .i3cDynamicAddress a => Sys2Proof.Machine.execI3cDynamicAddress a s
  | .disec => Sys2Proof.Machine.execDisec s
  | .wake w => Sys2Proof.Machine.execWake w s
  | .pwrLimitWrite w => Sys2Proof.Machine.execPwrLimitWrite w s
  | .sramScrub arisen => Sys2Proof.Machine.execSramScrub arisen s
  | .pwrGoodRise => Sys2Proof.Machine.execPwrGoodRise s
  | .lossOf48vFeed => Sys2Proof.Machine.execLossOf48vFeed s

end Sys2Proof.Machine
end

