-- ==== Sys2Proof/Machine/Step.lean ====
section
/-! DEFINITION. One step of the block: the command at the front of its queue takes effect; with no command waiting, one
nanosecond of the Fleet Time Counter passes (log 4). -/

namespace Sys2Proof.Machine

/-- The front command on the state with the queue's rest; on an empty queue the clock runs. -/
def step (s : State) : Host.Outcome State Fault Refusal :=
  match s.pending with
  | [] => .next s.passTime
  | i :: rest => exec i { s with pending := rest }

/-- `s` with the command that a word spells put at the front of its queue; `s` where it spells none. -/
def State.withFetchWord (s : State) (nbits w : Nat) : State :=
  match decodeTableWord nbits w with
  | some i => { s with pending := i :: s.pending }
  | none => s

end Sys2Proof.Machine
end

