-- ==== Sys2Proof/Safety.lean ====
section
/-! DEFINITION. What counts as a well-formed state, in the terms that claims use: every sparse table in its canonical
form, so that equal contents are equal data. And the words in which claims say what a command leaves alone. -/

namespace Sys2Proof.Machine

/-- The register file is canonical: rising offsets, no entry equal to its reset value. -/
def State.regsWf (s : State) : Bool := tblWf regDefault s.regs

/-- Memory is canonical: rising addresses, no entry equal to what an unlisted byte reads as. -/
def Memory.wf (s : State) : Bool := tblWf (memDefault s.mem.lost) s.mem.cells

/-- Both. -/
def State.wf (s : State) : Bool := s.regsWf && Memory.wf s

/-- The registers that the event recorder and the interrupt path write (R375 to R377, R461). -/
def postingReg (a : Nat) : Bool :=
  [R.RECORDER_UPDATES, R.RECORDER_COUNT, R.RECORDER_STATUS, R.RECORDER_LOST, R.RECORDER_FIRST_LOST,
    R.RECORDER_FIRST_LOST + 4, R.MSIX_PBA, R.MSIX_PBA + 4].contains a

/-- Every register keeps its word but those in `changed` and, where an event or an interrupt is among what happened, those
of the recorder and the interrupt path. -/
def SameRegs (s t : State) (changed : List Nat) : Prop :=
  ∀ a, postingReg a = false → a ∉ changed → t.reg a = s.reg a

/-- Every byte of memory outside the listed ranges (address, length) reads as before. -/
def SameBytes (s t : State) (changed : List (Nat × Nat)) : Prop :=
  ∀ a, (∀ r ∈ changed, ¬ (r.1 ≤ a ∧ a < r.1 + r.2)) → t.byte a = s.byte a

/-- The commands that start a barge: its position in the active manifest, its CLASS and its OP (Tables 01-4, 04-9, 08-14,
09-1, 10-1, 11-7, 12-6, 14-5 and R24). -/
def startOf : Instr → Option (Nat × Nat × Nat)
  | .nop i => some (i, 9, 0)
  | .notify i => some (i, 9, 1)
  | .controlFence i => some (i, 9, 2)
  | .product i => some (i, 1, 0)
  | .batched i => some (i, 1, 1)
  | .counted i => some (i, 1, 2)
  | .forward i => some (i, 2, 0)
  | .partialSegments i => some (i, 2, 1)
  | .join i => some (i, 2, 2)
  | .backward i => some (i, 2, 3)
  | .rope i => some (i, 2, 4)
  | .map i => some (i, 3, 0)
  | .row i => some (i, 3, 1)
  | .reduce i => some (i, 3, 2)
  | .compress i => some (i, 3, 3)
  | .expand i => some (i, 3, 4)
  | .rotate i => some (i, 3, 5)
  | .unrotate i => some (i, 3, 6)
  | .copy i => some (i, 4, 0)
  | .copy2d i => some (i, 4, 1)
  | .fill i => some (i, 4, 2)
  | .reduceScatter i => some (i, 5, 0)
  | .allReduce i => some (i, 5, 1)
  | .allGather i => some (i, 5, 2)
  | .broadcast i => some (i, 5, 3)
  | .shift i => some (i, 5, 4)
  | .allToAll i => some (i, 5, 5)
  | .amaxAgree i => some (i, 5, 6)
  | .cstatAgree i => some (i, 5, 7)
  | .stashSave i => some (i, 6, 0)
  | .stashLoad i => some (i, 6, 1)
  | .adam i => some (i, 7, 0)
  | .momentum i => some (i, 7, 1)
  | .updateCopy i => some (i, 7, 2)
  | .voteStep i => some (i, 8, 0)
  | .voteCommit i => some (i, 8, 1)
  | .testEngine i _ => some (i, 10, 0)
  | .testDrain i => some (i, 10, 1)
  | .testScrub i => some (i, 10, 2)
  | _ => none

/-- R290, R356: no word of the Basin die in some regions (address, length) holds two wrong bits. -/
def State.wordsFine (s : State) (regions : List (Nat × Nat)) : Prop :=
  ∀ w ∈ s.health.sram, wordIn regions w = true → w.double = false

/-- R290, R356: a read of some regions (address, length) finds no HBM sector in error, and no word of the Basin die that it
cannot correct. -/
def State.clean (s : State) (regions : List (Nat × Nat)) : Prop :=
  (∀ n ∈ s.hbmSectors regions, s.sector n = {}) ∧ s.wordsFine regions

/-- Barge `b` stands at position `i`, it may start now (R25), it is of that CLASS and OP, and the tables of the Basin die that
it reads hold no word beyond correction (R357). -/
def State.ready (s : State) (i cls op : Nat) (b : Barge) : Prop :=
  s.barge i = some b ∧ s.mayStart i = true ∧ b.cls = cls ∧ b.op = op ∧ s.wordsFine (s.tableReads b)

/-- Barge `i` has started in `t`: it runs from the fabric time of `s`, and nothing else of the interval has changed. -/
def Started (s t : State) (i : Nat) : Prop := t.lock = (s.updBarge i (fun b => { b with state := .running s.ftc })).lock

/-- The array as the start of barge `i`, `b`, leaves it before its tasks are dealt out: COMPUTE_ARRAY, the counts of tasks, and
nothing of a barge before. -/
def HoldsArray (t : State) (i : Nat) (b : Barge) (total stage : Nat) : Prop :=
  t.array.barge = some i ∧ t.array.stage = stage ∧ t.array.slots = [] ∧ t.array.queues = [] ∧ t.array.finished = [] ∧
    t.flag F.COMPUTE_ARRAY_BUSY = true ∧ t.flag F.COMPUTE_ARRAY_ABORTED = false ∧ t.get F.COMPUTE_ARRAY_CONTEXT = b.ctx ∧
    t.get F.COMPUTE_ARRAY_BARGE_INDEX = b.ownIndex % 4096 ∧ t.reg R.COMPUTE_TASKS_TOTAL = BitVec.ofNat 32 total ∧
    ∀ d < 4, t.reg (R.COMPUTE_TASKS_DONE d) = 0

/-- The memory that an array barge reads as it starts. -/
def State.arrayReads (s : State) (b : Barge) : List (Nat × Nat) :=
  let f := s.frame b
  let d := b.desc
  if b.cls = 1 then s.matrixReads f d
  else if b.cls = 2 then
    if b.op = 0 then s.qkvReads f d ++ s.epiReads f d
    else if b.op = 1 then s.qkvReads f d
    else if b.op = 2 then s.stateReads f d ++ s.epiReads f d
    else if b.op = 3 then s.qkvReads f d ++ [atO d, atLse d, atDO d].flatMap (fun t => wholeRegions (s.view f t))
    else wholeRegions (s.view f (atQ d)) ++ s.epiReads f d
  else if b.op = 3 then [(cxIdx d, 4 * cxL d)]
  else if b.op = 4 then s.expandReads d
  else s.vecReads f d

/-- The counts that a COUNTED barge reads. -/
def State.countsRead (s : State) (b : Barge) : List Nat :=
  if b.cls = 1 ∧ b.op = 2 then (List.range (mxBatch b.desc)).map (fun q => s.num (mxCountAddr b.desc + 4 * q) 4) else []

/-- The tasks that an array barge deals out as it starts (R102, R206, R216, R231). -/
def State.arrayTasks (s : State) (b : Barge) : List Nat :=
  if b.cls = 1 then (s.productOf (s.frame b) b.desc (s.countsRead b)).live (mxBatch b.desc)
  else if b.cls = 2 then
    let j := s.attJob (s.frame b) b.desc []
    List.range (attTasks j.q j.split)
  else List.range (s.stageTasks b)

/-- The tasks of all stages, and the stage that an array barge starts in. -/
def State.arrayTotal (s : State) (b : Barge) : Nat := (s.arrayTasks b).length * (if b.cls = 3 then vecStages b.desc else 1)
def Barge.firstStage (b : Barge) : Nat := if b.cls = 3 then (if b.op = 3 then 4 else 1) else 0

/-- Tasks are dealt out from `u`; with none the barge at `i` completes at once. -/
def State.dealtFrom (u : State) (i : Nat) (tasks : List Nat) : State := if tasks.isEmpty then u.tryFinish i else u.dealOut tasks

/-- An event is the last thing that `t` has taken. -/
def Noted (t : State) (code source : BitVec 16) (fields : List (Nat × Nat)) : Prop := ∃ u : State, t = u.event code source fields

/-- The saturating count of a register has moved on by one. -/
def CountedOnce (s t : State) (a : Nat) : Prop := (t.reg a).toNat = min (2 ^ 32 - 1) ((s.reg a).toNat + 1)

/-- The vector instructions: the engine that issues, the operation, the fields (Table 08-3). -/
def vecOf : Instr → Option (EngineId × VOp × VFields)
  | .add e f => some (e, .add, f)
  | .sub e f => some (e, .sub, f)
  | .mul e f => some (e, .mul, f)
  | .fma e f => some (e, .fma, f)
  | .min e f => some (e, .min, f)
  | .max e f => some (e, .max, f)
  | .abs e f => some (e, .abs, f)
  | .neg e f => some (e, .neg, f)
  | .copysign e f => some (e, .copysign, f)
  | .mov e f => some (e, .mov, f)
  | .div e f => some (e, .div, f)
  | .sqrt e f => some (e, .sqrt, f)
  | .rcp e f => some (e, .rcp, f)
  | .rsqrt e f => some (e, .rsqrt, f)
  | .exp2 e f => some (e, .exp2, f)
  | .log2 e f => some (e, .log2, f)
  | .exp e f => some (e, .exp, f)
  | .log e f => some (e, .log, f)
  | .tanh e f => some (e, .tanh, f)
  | .sigmoid e f => some (e, .sigmoid, f)
  | .erf e f => some (e, .erf, f)
  | .sinpi e f => some (e, .sinpi, f)
  | .cospi e f => some (e, .cospi, f)
  | .cmpeq e f => some (e, .cmpeq, f)
  | .cmpne e f => some (e, .cmpne, f)
  | .cmplt e f => some (e, .cmplt, f)
  | .cmple e f => some (e, .cmple, f)
  | .cmpun e f => some (e, .cmpun, f)
  | .sel e f => some (e, .sel, f)
  | .iadd e f => some (e, .iadd, f)
  | .isub e f => some (e, .isub, f)
  | .imul e f => some (e, .imul, f)
  | .and e f => some (e, .and, f)
  | .or e f => some (e, .or, f)
  | .xor e f => some (e, .xor, f)
  | .shl e f => some (e, .shl, f)
  | .shr e f => some (e, .shr, f)
  | .icmplt e f => some (e, .icmplt, f)
  | .icmpeq e f => some (e, .icmpeq, f)
  | .cvtif e f => some (e, .cvtif, f)
  | .cvtfi e f => some (e, .cvtfi, f)
  | .rndbf16 e f => some (e, .rndbf16, f)
  | .rndf16 e f => some (e, .rndf16, f)
  | .rand e f => some (e, .rand, f)
  | _ => none

/-- The instructions of Table 08-3 that compute in FP32 and return an FP32 value. -/
def floatOps : List VOp :=
  [.add, .sub, .mul, .fma, .min, .max, .abs, .neg, .copysign, .div, .sqrt, .rcp, .rsqrt, .exp2, .log2, .exp, .log, .tanh,
    .sigmoid, .erf, .sinpi, .cospi, .rndbf16, .rndf16]

/-- The number that an unpacked finite value stands for; 0 for the others. -/
def Fv.rat : Fv → ℚ
  | .fin s m e => (if s then -1 else 1) * m * (2 : ℚ) ^ e
  | _ => 0

end Sys2Proof.Machine
end

