-- ==== Sys2Proof/Certificates/Slice0/Obligations.lean ====
section
/-! DEFINITION. The statements for the provers. -/

open Sys2Proof Sys2Proof.Machine

/-! ## The block as a whole -/

/-- The front command of the queue takes effect on the state with the queue's rest. -/
def Obligations.StepRunsFront : Prop :=
  ∀ (c : Instr) (rest : List Instr) (s : State), s.pending = c :: rest → step s = exec c { s with pending := rest }

/-- With no command waiting, LOCK_FTC moves on by one nanosecond and nothing else changes. That a step on an empty queue is
one nanosecond is the model's choice (log 4). Parts of R12. -/
def Obligations.EmptyQueuePassesTime : Prop :=
  ∀ s : State, s.pending = [] → ∃ t, step s = .next t ∧ t.reg64 R.LOCK_FTC = s.reg64 R.LOCK_FTC + 1 ∧
    (∀ a, a ≠ R.LOCK_FTC → a ≠ R.LOCK_FTC + 4 → t.reg a = s.reg a) ∧ { t with regs := s.regs } = s

/-- Every command completes, and none touches the commands that wait behind it. That every command completes on every
operand is the model's choice (logs 1 and 10). Parts of R3. -/
def Obligations.CommandsCompleteAndKeepQueue : Prop :=
  ∀ (c : Instr) (s : State), ∃ t, exec c s = .next t ∧ t.pending = s.pending

/-- Every step keeps the register file and memory in their canonical form: addresses strictly rising, and no entry equal to
what an unlisted address reads as. That form is the model's own. Parts of R4. -/
def Obligations.StepKeepsCanonicalForm : Prop :=
  ∀ s t : State, s.wf = true → step s = .next t → t.wf = true

/-- The state after reset: no command waits (the model's own queue), the register file and memory are canonical, and
LOCK_PERIOD.PERIOD_US is 200, LOCK_SLOTS.STRETCH_LIMIT 32, LOCK_SLOW 0x404040, the fabric time and the lock index 0 and
LK_RESET_STATUS.BUSY 0, as the Reset columns of Tables 01-6, 01-7, 01-12, 01-13, 01-15 and 15-6 give them. -/
def Obligations.ResetState : Prop := State.reset.wf = true ∧ State.reset.pending = [] ∧
  State.reset.get F.LOCK_PERIOD_PERIOD_US = 200 ∧ State.reset.get F.LOCK_SLOTS_STRETCH_LIMIT = 32 ∧
  State.reset.reg R.LOCK_SLOW = 0x404040#32 ∧ State.reset.reg64 R.LOCK_FTC = 0 ∧ State.reset.reg64 R.LOCK_INDEX = 0 ∧
  State.reset.get F.LK_RESET_STATUS_BUSY = 0

/-! ## Register accesses -/

/-- A write to a reserved address, or of another size or alignment, has no effect. A read of a reserved address, or of another
size or alignment, returns 0 and changes no register and nothing else of the device. Neither raises an error. -/
def Obligations.OnlyKnownAlignedWords : Prop :=
  ∀ (a size : Nat) (w : Word) (s : State),
    (regRow a = none ∨ size ≠ 4 ∨ a % 4 ≠ 0 → exec (.registerWrite a size w) s = .next s) ∧
    (regRow a = none ∨ a % 4 ≠ 0 →
      exec (.reg64LowHalfWrite a w) s = .next s ∧ exec (.reg64HighHalfWrite a w) s = .next s) ∧
    (regRow a = none ∨ size ≠ 4 ∨ a % 4 ≠ 0 → s.lkServes = true →
      ∀ c ∈ [Instr.reg64LowHalfRead ⟨a, size⟩, .reg64HighHalfRead ⟨a, size⟩], ∃ t, exec c s = .next t ∧
        t.out = .busReply 0 :: s.out ∧ (∀ b, t.reg b = s.reg b) ∧ { t with regs := s.regs, out := s.out } = s)

/-- The read of the low half of a 64-bit register latches the high half, and the next read of the high half returns the
latched value, whatever the register has become meanwhile. A low half written is held and changes no register; the write of
the high half then changes both at once; without a held low half it changes the high half alone. -/
def Obligations.WideRegisters : Prop :=
  (∀ (a : Nat) (s : State), wideHalf a = some 0 → wideHalf (a + 4) = some 1 → s.served a = true → s.served (a + 4) = true →
    ∃ t, exec (.reg64LowHalfRead ⟨a, 4⟩) s = .next t ∧ t.out = .busReply (regReadValue a (s.reg a)) :: s.out ∧
      t.regs = s.regs ∧
      ∀ u : State, u.latches = t.latches → u.served (a + 4) = true →
        ∃ v, exec (.reg64HighHalfRead ⟨a + 4, 4⟩) u = .next v ∧
          v.out = .busReply (regReadValue (a + 4) (s.reg (a + 4))) :: u.out ∧ v.regs = u.regs ∧ v.latches.lookup a = none) ∧
  ∀ (a : Nat) (lo hi : Word) (r : RegRow) (is : List Nat) (s : State),
    regRow a = some (r, is, 0) → regRow (a + 4) = some (r, is, 1) → r.wide = true → a % 4 = 0 →
    s.served a = true → s.served (a + 4) = true → s.baseLocked r.base is = false →
    (∃ t u, exec (.reg64LowHalfWrite a lo) s = .next t ∧ t.regs = s.regs ∧ exec (.reg64HighHalfWrite (a + 4) hi) t = .next u ∧
      u.reg a = regAfterWrite a (s.reg a) lo ∧ u.reg (a + 4) = regAfterWrite (a + 4) (s.reg (a + 4)) hi) ∧
    (s.heldLows.lookup a = none → ∃ u, exec (.reg64HighHalfWrite (a + 4) hi) s = .next u ∧
      u.reg a = s.reg a ∧ u.reg (a + 4) = regAfterWrite (a + 4) (s.reg (a + 4)) hi)

/-- A write of an aligned word to a register that is no command register and not 64 bits wide: each field takes what its access
code in Table 00-3 gives it, and every other register, all memory, every context and the interval are unchanged. -/
def Obligations.PlainRegisterWrite : Prop :=
  ∀ (a : Nat) (w : Word) (r : RegRow) (is : List Nat) (s : State),
    regRow a = some (r, is, 0) → r.wide = false → a % 4 = 0 → s.served a = true → writeEffects.lookup r.base = none →
    s.baseLocked r.base is = false →
    ∃ t, exec (.registerWrite a 4 w) s = .next t ∧ t.reg a = regAfterWrite a (s.reg a) w ∧
      (∀ b, b ≠ a → t.reg b = s.reg b) ∧ (∀ b, t.byte b = s.byte b) ∧ t.ctxs = s.ctxs ∧ t.lock = s.lock

/-! ## The lock tick and the shape of work -/

/-- A tick opens the next interval. Its lock index is one more while ticking (`tickIndex`), the next tick is one period
after it, LOCK_GRANT is 0, STRETCHED 0 and TICKING 1, no need is held, no schedule has come, nothing is stretched, the work
window has neither opened nor closed, and every barge of the new manifest waits. The tick is at LOCK_NEXT_TICK, or now where
that is past, and LOCK_LAST_END takes what the interval before leaves; where the work window of that interval had not
closed, the tick closes it first. That time never runs back is the model's choice (log 2). While a device recovery or a
module reset holds the device, no tick fires (log 4). Parts of R12, R15, R37. -/
def Obligations.TickOpensInterval : Prop :=
  ∀ s : State,
    (s.lock.resetHold = true → exec .lockTick s = .next s) ∧
    (s.lock.resetHold = false → s.lock.fired = true → exec .lockTick s = exec .lockTick s.closeWindow) ∧
    (s.lock.resetHold = false → s.flag F.LOCK_STATUS_TICKING = true → s.lock.indexNext = none →
      s.tickIndex = s.reg64 R.LOCK_INDEX + 1) ∧
    (s.lock.resetHold = false → ∃ t, exec .lockTick s = .next t ∧
      (s.lock.fired = false ∨ s.lock.closed = true → t.lock.tick = max s.ftc (s.reg64 R.LOCK_NEXT_TICK).toNat ∧
        t.reg R.LOCK_LAST_END = s.lastEndWord) ∧
      t.reg64 R.LOCK_INDEX = s.tickIndex ∧ t.reg64 R.LOCK_NEXT_TICK = BitVec.ofNat 64 (t.lock.tick + s.period) ∧
      t.reg R.LOCK_GRANT = 0 ∧ t.flag F.LOCK_STATUS_STRETCHED = false ∧ t.flag F.LOCK_STATUS_TICKING = true ∧
      t.lock.needHeld = 0 ∧ t.lock.schedArrived = false ∧ t.lock.stretched = 0 ∧ t.lock.fired = true ∧
      t.lock.windowOpen = false ∧ t.lock.closed = false ∧ ∀ b ∈ t.lock.active, b.state = .waiting)

/-- The work window opens once in an interval, 1 µs after the tick; TICK_OUT then falls. That starts and changes no barge, no
register but the fabric time, no byte of memory and no context. A second opening changes nothing: the model's choice (log 1).
Parts of R15. -/
def Obligations.WorkWindowOpens : Prop :=
  ∀ s : State,
    (s.lock.fired = true → s.lock.closed = false → s.lock.windowOpen = false →
      ∃ t, exec .workWindowOpen s = .next t ∧ t.lock = { s.lock with windowOpen := true } ∧
        (s.lock.tick + 1000 < 2 ^ 64 → t.ftc = max s.ftc (s.lock.tick + 1000)) ∧
        SameRegs s t [R.LOCK_FTC, R.LOCK_FTC + 4] ∧ SameBytes s t [] ∧ t.ctxs = s.ctxs ∧ t.module.tickOut = false) ∧
    (s.lock.windowOpen = true → exec .workWindowOpen s = .next s)

/-- The work window closes. With every barge complete that is all: no barge changes, and OVERRUN stays. A barge of a step still
under way that has not completed is a late overrun: LOCK_EVENTS.OVERRUN and ABORT_TX are set, LOCK_OVERRUN_COUNT moves on,
and every step under way is aborted. Every barge keeps its descriptor, and the next tick stays where it was. A close before
the window has opened changes nothing: the model's choice (log 1). Parts of R34. -/
def Obligations.WorkWindowCloses : Prop :=
  ∀ s : State,
    (s.lock.windowOpen = true → s.lock.closed = false →
      ∃ t, exec .workWindowClose s = .next t ∧ t.lock.windowOpen = false ∧ t.lock.closed = true ∧
        t.reg64 R.LOCK_NEXT_TICK = s.reg64 R.LOCK_NEXT_TICK ∧
        (s.unfinished = false → t.lock.active = s.lock.active ∧
          t.flag F.LOCK_EVENTS_OVERRUN = s.flag F.LOCK_EVENTS_OVERRUN) ∧
        (s.unfinished = true → t.flag F.LOCK_EVENTS_OVERRUN = true ∧ t.flag F.LOCK_EVENTS_ABORT_TX = true ∧
          CountedOnce s t R.LOCK_OVERRUN_COUNT ∧ ∀ c ∈ s.working, (t.ctx c).stepAborted = true) ∧
        (∀ i b, s.barge i = some b → ∃ b', t.barge i = some b' ∧ b'.desc = b.desc)) ∧
    (s.lock.windowOpen = false → exec .workWindowClose s = .next s)

/-- An evaluation between the check point and the cutoff, in the work window of an interval whose steps run. A need above the
stretch limit is an early overrun: LOCK_EVENTS.OVERRUN is set, LOCK_OVERRUN_COUNT moves on, and every step under way is
aborted. A need within the limit and above this interval's request becomes the request. With no need above the request,
nothing but the fabric time changes. The time of the evaluation is its operand (log 2); that there is none after an abort is
the model's choice (log 69). Parts of R30, R31, R32, R34. -/
def Obligations.ProjectEndEvaluates : Prop :=
  ∀ (now : DWord) (s : State), s.lock.windowOpen = true → s.lock.aborted = false →
    s.lock.tick + 1000 * (s.get F.LOCK_PERIOD_PERIOD_US - s.get F.LOCK_STRETCH_TIMING_LEAD_US) ≤ now.toNat →
    now.toNat ≤ s.lock.tick + 1000 * (s.get F.LOCK_PERIOD_PERIOD_US - s.get F.LOCK_STRETCH_TIMING_CUTOFF_US) →
    ∃ t, exec (.projectEndEvaluation now) s = .next t ∧
      (s.stretchLimit < s.needUs now.toNat (s.projectEnd now.toNat) → t.flag F.LOCK_EVENTS_OVERRUN = true ∧
        CountedOnce s t R.LOCK_OVERRUN_COUNT ∧ ∀ c ∈ s.working, (t.ctx c).stepAborted = true) ∧
      (s.needUs now.toNat (s.projectEnd now.toNat) ≤ s.stretchLimit →
        s.get F.LOCK_GRANT_REQUEST_US < s.needUs now.toNat (s.projectEnd now.toNat) →
        t.get F.LOCK_GRANT_REQUEST_US = s.needUs now.toNat (s.projectEnd now.toNat) ∧ t.lock.active = s.lock.active) ∧
      (s.needUs now.toNat (s.projectEnd now.toNat) ≤ s.stretchLimit →
        s.needUs now.toNat (s.projectEnd now.toNat) ≤ s.get F.LOCK_GRANT_REQUEST_US →
        SameRegs s t [R.LOCK_FTC, R.LOCK_FTC + 4] ∧ t.lock.active = s.lock.active ∧ t.lock.needHeld = s.lock.needHeld ∧
        SameBytes s t [])

/-- Once in an interval the tick master schedules the next tick: one period and the largest need it holds, cut to the stretch
limit, after the current one; the grant stretches its own interval, unless its step was aborted. Where it follows TICK_IN, a
rising edge not before P and the grant after the tick sets the next tick, and an earlier one does not; at any other module the
edge changes only the fabric time. The time of an edge is the operand (log 2). Parts of R37, R38, R329. -/
def Obligations.TickMasterSchedules : Prop :=
  ∀ (now : DWord) (s : State),
    (s.flag F.LOCK_CTL_TICK_MASTER = true → s.lock.fired = true → s.lock.schedArrived = false →
      s.flag F.LOCK_CTL_TICK_IN_EN = false →
      ∃ t, exec .schedSend s = .next t ∧ t.lock.schedArrived = true ∧
        t.reg64 R.LOCK_NEXT_TICK =
          BitVec.ofNat 64 (s.lock.tick + 1000 * (s.get F.LOCK_PERIOD_PERIOD_US + min s.lock.needHeld s.stretchLimit)) ∧
        t.lock.granted = min s.lock.needHeld s.stretchLimit ∧
        t.lock.stretched = if s.lock.aborted = false ∧ 0 < min s.lock.needHeld s.stretchLimit then
          min s.lock.needHeld s.stretchLimit else s.lock.stretched) ∧
    (s.flag F.LOCK_CTL_TICK_MASTER = true → s.flag F.LOCK_CTL_TICK_IN_EN = true → s.lock.fired = true →
      ∃ t, exec (.tickInEdge now) s = .next t ∧ t.lock.tickInDue = some now.toNat ∧
        t.reg64 R.LOCK_NEXT_TICK = (if s.lock.tick + 1000 * (s.get F.LOCK_PERIOD_PERIOD_US + s.lock.granted) ≤ now.toNat then now
          else s.reg64 R.LOCK_NEXT_TICK) ∧
        SameBytes s t [] ∧ t.lock.active = s.lock.active) ∧
    (s.flag F.LOCK_CTL_TICK_MASTER = false → ∃ t, exec (.tickInEdge now) s = .next t ∧
      SameRegs s t [R.LOCK_FTC, R.LOCK_FTC + 4] ∧ t.lock = s.lock)

/-- A time exchange: a tick master is locked to itself; any other module with a parent port up sends a TIME flit there with its
time and the time of the partner's last one, and remembers when; with neither parent port up it is no longer locked. When
no exchange has completed for 100 µs, FTC_LOCKED is cleared, LOCK_EVENTS.FTC_UNLOCK set and event 0x0108 taken. How the time
exchange is kept is the model's (log 39). Parts of R36, R327. -/
def Obligations.TimeSynchronisation : Prop :=
  ∀ (now : DWord) (s : State),
    (s.flag F.LOCK_CTL_TICK_MASTER = true → ∃ t, exec (.timeExchange now) s = .next t ∧
      t.flag F.LOCK_STATUS_FTC_LOCKED = true ∧ SameRegs s t [R.LOCK_FTC, R.LOCK_FTC + 4, R.LOCK_STATUS] ∧ SameBytes s t [] ∧
      t.lock = s.lock ∧ t.out = s.out) ∧
    (∀ p, s.flag F.LOCK_CTL_TICK_MASTER = false → (s.at_ now.toNat).parentPort = some p →
      ∃ t ack vl n, exec (.timeExchange now) s = .next t ∧ (t.port p).timeSent = some t.ftc ∧
        t.out = .flit p (flitOf 2 0 false false 0 ack vl n (3 :: (leBytes 8 t.ftc ++ leBytes 8 (s.port p).timeIn))) :: s.out ∧
        SameRegs s t [R.LOCK_FTC, R.LOCK_FTC + 4] ∧ SameBytes s t [] ∧ t.lock = s.lock) ∧
    (∀ c ∈ [Instr.timeExchange now, .ftcSyncTimeout now],
      (c = .ftcSyncTimeout now ∨ s.flag F.LOCK_CTL_TICK_MASTER = false ∧ (s.at_ now.toNat).parentPort = none) →
      ∃ t, exec c s = .next t ∧ t.flag F.LOCK_STATUS_FTC_LOCKED = false ∧ SameBytes s t [] ∧ t.lock = s.lock ∧
        SameRegs s t [R.LOCK_FTC, R.LOCK_FTC + 4, R.LOCK_STATUS, R.LOCK_EVENTS] ∧
        (s.flag F.LOCK_STATUS_FTC_LOCKED = true →
          t.flag F.LOCK_EVENTS_FTC_UNLOCK = true ∧ Noted t 0x0108#16 srcPackage [(32, s.link.worstOffset)]))

/-- When the drain ends, LOCK_STATUS.DRAINING is cleared, and what was in flight of an aborted step is over; the barges of other
steps stay as they were. The words of on-chip memory lost since the drain began are listed no more, and no byte outside them
changes. With no drain in progress only time moves on. That the barges of an aborted step are then over is the model's
reading (log 49). Parts of R35, R357. -/
def Obligations.DrainEnds : Prop :=
  ∀ (now : DWord) (s : State),
    (s.flag F.LOCK_STATUS_DRAINING = true →
      ∃ t, exec (.drainEnd now) s = .next t ∧ t.flag F.LOCK_STATUS_DRAINING = false ∧ t.lock.inFlight = [] ∧
        (∀ i b, s.barge i = some b → (s.ctx b.ctx).stepAborted = true → ∃ b', t.barge i = some b' ∧ b'.over = true) ∧
        (∀ i b, s.barge i = some b → (s.ctx b.ctx).stepAborted = false → t.barge i = some b) ∧
        t.health.lostWords = [] ∧ SameRegs s t [R.LOCK_FTC, R.LOCK_FTC + 4, R.LOCK_STATUS] ∧
        SameBytes s t (s.health.lostWords.map (fun a => (a, 8)))) ∧
    (s.flag F.LOCK_STATUS_DRAINING = false → exec (.drainEnd now) s = .next (s.at_ now.toNat))

/-- A running barge for which all it waits for has come completes: it is done, every other barge stays as it was, and no byte of
memory changes. One that ran longer than its BUDGET, its time counted in clk and rounded up, is counted in LOCK_BUDGET_COUNT
and sets LOCK_EVENTS.BUDGET_EXCEED; any other changes neither. With NOTIFY its completion record is the last thing
posted. The next tick stays where it was. The time of completion is the operand (log 2); the rounding is the model's (log
68). Parts of R29. -/
def Obligations.BargeCompletes : Prop :=
  ∀ (i : Nat) (now : DWord) (start : Nat) (b : Barge) (s : State), s.barge i = some b → b.state = .running start →
    (s.at_ now.toNat).completable i b = true → s.ftc ≤ now.toNat →
    ∃ t, exec (.bargeComplete i now) s = .next t ∧ t.barge i = some { b with state := .done } ∧
      (∀ j, j ≠ i → t.barge j = s.barge j) ∧ SameBytes s t [] ∧
      (bBudget b.desc < (11 * (now.toNat - start) + 9) / 10 → CountedOnce s t R.LOCK_BUDGET_COUNT ∧
        t.flag F.LOCK_EVENTS_BUDGET_EXCEED = true) ∧
      ((11 * (now.toNat - start) + 9) / 10 ≤ bBudget b.desc → t.reg R.LOCK_BUDGET_COUNT = s.reg R.LOCK_BUDGET_COUNT ∧
        t.reg R.LOCK_EVENTS = s.reg R.LOCK_EVENTS) ∧
      (bNotify b.desc = true → ∃ u : State, t = u.complete b.ctx 0xFFFF 2 0 b.ownIndex) ∧
      t.lock.tick = s.lock.tick ∧ t.reg64 R.LOCK_NEXT_TICK = s.reg64 R.LOCK_NEXT_TICK

/-- A CONTROL barge that may start: NOP and NOTIFY complete at once; FENCE completes at once when every earlier barge of its
context is over, and otherwise runs until then. NOTIFY posts a completion record, written at the tail of its context's
queue where there is room, and raises the context's MSI-X vector. None writes memory. Parts of R24, R25. -/
def Obligations.ControlBarges : Prop :=
  ∀ (i : Nat) (b : Barge) (s : State), (s.ctx b.ctx).stepAborted = false →
    (s.ready i 9 0 b → ∃ t, exec (.nop i) s = .next t ∧ t.barge i = some { b with state := .done } ∧ SameBytes s t []) ∧
    (s.ready i 9 1 b → ∃ t, exec (.notify i) s = .next t ∧ t.barge i = some { b with state := .done } ∧ SameBytes s t [] ∧
      (s.cqFull b.ctx = false → (s.ctx b.ctx).cqHeld = [] →
        (∃ bytes, .dmaWrite ((s.reg64 (R.LK_CQ_BASE b.ctx)).toNat + 32 * s.get (F.LK_CQ_TAIL_TAIL b.ctx)) bytes ∈ t.out) ∧
        (t.lk.msixPending.contains (8 + b.ctx) = true ∨ (t.reg64 R.MSIX_PBA).getLsbD (8 + b.ctx) = true))) ∧
    (s.ready i 9 2 b → ∃ t, exec (.controlFence i) s = .next t ∧ SameBytes s t [] ∧
      ((∀ e ∈ s.lock.active.take i, e.ctx = b.ctx → e.over = true) → t.barge i = some { b with state := .done }) ∧
      ((∃ e ∈ s.lock.active.take i, e.ctx = b.ctx ∧ e.over = false) → t.barge i = some { b with state := .running s.ftc }))

/-! ## Barges -/

/-- A barge that its command starts where it may start, and whose reads meet no error. An array barge takes the array: it runs,
COMPUTE_ARRAY and the task counts show it, and its tasks are dealt out and claimed (`dealtFrom`), or it completes where it has
none; no byte of memory changes. A COLLECTIVE barge runs, places what waits in the staging area, sends its streams, and goes
as far as the streams there let it (`progress`); in a group of one, one that only moves bytes puts its own block at DST and
completes. An UPDATE barge writes what `runUpdate` or `updateCopy` makes of memory; with an invalid record it writes nothing
and sets UPD_FAULT; after a skip verdict it completes at once and writes nothing. Parts of R104, R105, R117, R205 to R217,
R236 to R241, R262, R266, R268, R272, R338, R339. -/
def Obligations.BargesStart : Prop :=
  (∀ (i : Nat) (b : Barge) (s : State), ∀ e ∈ [(Instr.product i, 1, 0), (.batched i, 1, 1), (.counted i, 1, 2),
      (.forward i, 2, 0), (.partialSegments i, 2, 1), (.join i, 2, 2), (.backward i, 2, 3), (.rope i, 2, 4), (.map i, 3, 0),
      (.row i, 3, 1), (.reduce i, 3, 2), (.compress i, 3, 3), (.expand i, 3, 4), (.rotate i, 3, 5), (.unrotate i, 3, 6)],
    s.ready i e.2.1 e.2.2 b → s.clean (s.arrayReads b) →
    ∃ u, exec e.1 s = .next (u.dealtFrom i (s.arrayTasks b)) ∧ Started s u i ∧ HoldsArray u i b (s.arrayTotal b) b.firstStage ∧
      u.array.counts = s.countsRead b ∧ SameBytes s (u.dealtFrom i (s.arrayTasks b)) []) ∧
  (∀ (i : Nat) (b : Barge) (s : State), ∀ e ∈ [(Instr.reduceScatter i, 0), (.allReduce i, 1), (.allGather i, 2),
      (.broadcast i, 3), (.shift i, 4), (.allToAll i, 5), (.amaxAgree i, 6), (.cstatAgree i, 7)],
    s.ready i 5 e.2 b → s.clean (s.coReads b) →
    ∃ t u, exec e.1 s = .next t ∧ t = ((u.placeStaged b).coSendAll b).progress i ∧ Started s u i ∧ SameBytes s u [] ∧
      u.link = s.link ∧ u.ctxs = s.ctxs ∧
      (e.2 ∈ [2, 3, 4, 5] → s.coSize b = 1 → s.coRank b = 0 → coArg b.desc = 0 → (s.ctx b.ctx).stepAborted = false →
        s.collectiveAt i = 0 → s.allAcked b = true →
        t.barge i = some { b with state := .done } ∧
        ∀ k < coBytes b.desc, t.byte (coDst b.desc + k) = s.byte (coSrc b.desc + k))) ∧
  ∀ (i : Nat) (b : Barge) (s : State), ∀ e ∈ [(Instr.adam i, 0), (.momentum i, 1), (.updateCopy i, 2)], s.ready i 7 e.2 b →
    (s.flag (F.TRAIN_CTX_STATUS_VERDICT_SKIP b.ctx) = true → (s.ctx b.ctx).stepAborted = false →
      ∃ t, exec e.1 s = .next t ∧ t.barge i = some { b with state := .done } ∧ SameBytes s t []) ∧
    (s.flag (F.TRAIN_CTX_STATUS_VERDICT_SKIP b.ctx) = false → s.clean (s.updateReads (s.frame b) b.desc) →
      ∃ t, exec e.1 s = .next t ∧ Started s t i ∧
        t.mem = (if e.2 = 2 then s.updateCopy (s.frame b) b.desc else s.runUpdate (s.frame b) b.desc).mem ∧
        (e.2 ≠ 2 → (hpCheck (e.2 == 0) (s.bytes (upHp b.desc) 64)).isSome = true →
          t.flag (F.TRAIN_CTX_STATUS_UPD_FAULT b.ctx) = true ∧ SameBytes s t []))

/-- Nothing starts that may not: outside the work window, or before its turn, or under another CLASS or OP, the command changes
nothing (log 1). A barge that may start is waiting in the open work window, every earlier barge of its queue has started, its
queue has room, the barges its AFTER fields name are over, with FENCE so is every earlier barge of its context, and it reads
or writes a block tensor only where the scales of its context are not at work. Parts of R25, R75. -/
def Obligations.NothingStartsEarly : Prop :=
  (∀ (c : Instr) (i cls op : Nat) (s : State), startOf c = some (i, cls, op) →
    (s.mayStart i = false ∨ (∀ b, s.barge i = some b → b.cls ≠ cls ∨ b.op ≠ op)) → exec c s = .next s) ∧
  ∀ (i : Nat) (b : Barge) (s : State), s.barge i = some b → s.mayStart i = true →
    s.lock.windowOpen = true ∧ b.state = .waiting ∧
    (∀ e ∈ s.lock.active.take i, e.queue = b.queue → e.state ≠ .waiting) ∧
    (s.lock.active.filter (fun e => e.queue == b.queue && e.isRunning)).length < queueLimit b.queue ∧
    (∀ j e, bAfterA b.desc = some j ∨ bAfterB b.desc = some j → s.barge j = some e → e.over = true) ∧
    (bFence b.desc = true → ∀ e ∈ s.lock.active.take i, e.ctx = b.ctx → e.over = true) ∧
    ((s.ctx b.ctx).blocksHeld = true → blockWork (s.image b.ctx) b.desc = false)

/-- COPY: the bytes at SRC appear at DST, as they stood when the barge started. COPY2D: every row goes to its place; where a
later row does not fall on it, each destination byte is its source byte as it stood. FILL: byte k of DST is byte k mod 4 of
the pattern, least significant first. Every byte outside the destination is unchanged, where the destination too holds no
error. Sources without error are assumed. That the bytes appear at the start is the model's choice (log 28). Parts of
R307. -/
def Obligations.TransfersMoveBytes : Prop :=
  ∀ (i : Nat) (b : Barge) (s : State),
    (s.ready i 4 0 b → s.clean (copyReads b.desc 1) →
      ∃ t, exec (.copy i) s = .next t ∧ Started s t i ∧
        (∀ k < trBytes b.desc, t.byte (trDst b.desc + k) = s.byte (trSrc b.desc + k)) ∧
        (s.clean [(trDst b.desc, trBytes b.desc)] → SameBytes s t [(trDst b.desc, trBytes b.desc)]) ∧
        t.scales = s.scales ∧ t.cstat = s.cstat ∧ t.ctxs = s.ctxs) ∧
    (s.ready i 4 1 b → s.clean (copyReads b.desc (trRows b.desc)) →
      ∃ t, exec (.copy2d i) s = .next t ∧ Started s t i ∧
        (∀ r < trRows b.desc, ∀ k < trBytes b.desc,
          (∀ q < trRows b.desc, r < q → trDst b.desc + r * trDstPitch b.desc + k < trDst b.desc + q * trDstPitch b.desc ∨
            trDst b.desc + q * trDstPitch b.desc + trBytes b.desc ≤ trDst b.desc + r * trDstPitch b.desc + k) →
          t.byte (trDst b.desc + r * trDstPitch b.desc + k) = s.byte (trSrc b.desc + r * trSrcPitch b.desc + k)) ∧
        (s.clean ((List.range (trRows b.desc)).map (fun r => (trDst b.desc + r * trDstPitch b.desc, trBytes b.desc))) →
          SameBytes s t ((List.range (trRows b.desc)).map (fun r => (trDst b.desc + r * trDstPitch b.desc, trBytes b.desc)))) ∧
        t.scales = s.scales ∧ t.cstat = s.cstat ∧ t.ctxs = s.ctxs) ∧
    (s.ready i 4 2 b →
      ∃ t, exec (.fill i) s = .next t ∧ Started s t i ∧
        (∀ k < trBytes b.desc, t.byte (trDst b.desc + k) = BitVec.ofNat 8 (trPattern b.desc / 2 ^ (8 * (k % 4)))) ∧
        (s.clean [(trDst b.desc, trBytes b.desc)] → SameBytes s t [(trDst b.desc, trBytes b.desc)]) ∧
        t.scales = s.scales ∧ t.cstat = s.cstat ∧ t.ctxs = s.ctxs)

/-- A COPY of a step that reads a poisoned sector ends the step: LOCK_EVENTS.ABORT_TX, STEP_ABORTED and DRAINING are set, and
the context's step is aborted. Parts of R293. -/
def Obligations.UncorrectableReadEndsStep : Prop :=
  ∀ (i : Nat) (b : Barge) (s : State), s.ready i 4 0 b → b.evalPlan = false →
    (∃ n ∈ s.hbmSectors (copyReads b.desc 1), (s.sector n).poisoned = true) →
    ∃ t, exec (.copy i) s = .next t ∧ (t.ctx b.ctx).stepAborted = true ∧ t.flag F.LOCK_EVENTS_ABORT_TX = true ∧
      t.flag F.LOCK_STATUS_STEP_ABORTED = true ∧ t.flag F.LOCK_STATUS_DRAINING = true

/-- Stash is lossless. What a SAVE wrote to an area gives back, read by a LOAD of the same step, exactly the bytes saved, with
no unit failed, whatever coding the device chose for each unit; the area's sectors are assumed readable. SAVE leaves memory
and its two counters as `stashSave` says, and LOAD puts what the area gives at DST, and counts the units that failed. The
packed coding is opaque (log 29). Parts of R251 to R255. -/
def Obligations.StashIsLossless : Prop :=
  (∀ (b : Barge) (d : BitVec 1024) (s : State), saBytes b.desc % 4096 = 0 → saBytes b.desc < 2 ^ 44 →
    saSrc d = saDst b.desc → saBytes d = saBytes b.desc →
    (∀ n, decodeSector (s.sector n) (s.laneMark (s.placeOf n)) ≠ .uncorrectable) →
    ((s.stashSave b).loadArea d (s.step b.ctx)).data = s.bytes (saSrc b.desc) (saBytes b.desc) ∧
    ((s.stashSave b).loadArea d (s.step b.ctx)).failed = []) ∧
  (∀ (i : Nat) (b : Barge) (s : State), s.ready i 6 0 b → s.clean [(saSrc b.desc, saBytes b.desc)] →
    ∃ t, exec (.stashSave i) s = .next t ∧ Started s t i ∧ t.mem = (s.stashSave b).mem ∧ t.ctxs = s.ctxs ∧
      t.reg R.TRAIN_STASH_IN = (s.stashSave b).reg R.TRAIN_STASH_IN ∧
      t.reg R.TRAIN_STASH_OUT = (s.stashSave b).reg R.TRAIN_STASH_OUT) ∧
  ∀ (i : Nat) (b : Barge) (s : State), s.ready i 6 1 b →
    ∃ t, exec (.stashLoad i) s = .next t ∧ Started s t i ∧
      (∀ k < (s.loadArea b.desc (s.step b.ctx)).data.length,
        t.byte (saDst b.desc + k) = (s.loadArea b.desc (s.step b.ctx)).data.getD k 0) ∧
      (t.reg R.TRAIN_STASH_BAD).toNat = min (2 ^ 32 - 1)
        ((s.reg R.TRAIN_STASH_BAD).toNat + (s.loadArea b.desc (s.step b.ctx)).failed.length) ∧
      ((s.loadArea b.desc (s.step b.ctx)).failed ≠ [] → t.flag (F.TRAIN_CTX_STATUS_STASH_FAULT b.ctx) = true)

/-! ## Engines -/

/-- Dealing gives out every live task exactly once, in order, over the 80 cluster queues, when any engine is available, and
none otherwise. Parts of R104. -/
def Obligations.DealGivesEveryTaskOnce : Prop :=
  ∀ (ts : List Nat) (s : State),
    (0 < ((List.range 80).map (fun g => (s.availableIn g).length)).sum →
      (List.range 80).flatMap (fun g => (s.deal ts).queue g) = ts) ∧
    (((List.range 80).map (fun g => (s.availableIn g).length)).sum = 0 → s.deal ts = s)

/-- An engine with a free tile slot claims the head of its own cluster queue when it may; when its own queue is empty it takes
the task at the tail of its victim's queue; with no victim it stays idle. Where the split-K slots of its own head cannot be
reserved and there is no victim, it waits for them and is counted. The queues of other clusters, the interval and memory stay
as they were. Parts of R105, R106, R109. -/
def Obligations.ClaimsAndSteals : Prop :=
  ∀ (e : EngineId) (b : Barge) (k : Nat) (s : State), s.arrayBarge = some b → s.mayClaim e.val = true →
    s.freeSlot b e.val = some k →
    (∀ t ts, s.queue (clusterOf e.val) = t :: ts → t < 2 ^ 32 → s.claimable b t = true →
      ∀ c ∈ [Instr.taskClaim e, Instr.splitkSlotRetry e], ∃ u, exec c s = .next u ∧ u.queue (clusterOf e.val) = ts ∧
        u.array.slots.lookup (slotKey e.val k) = some { task := t, expected := s.expectedOf b t } ∧
        (∀ g, g ≠ clusterOf e.val → u.queue g = s.queue g) ∧ u.lock = s.lock ∧ SameBytes s u []) ∧
    (∀ t ts, s.queue (clusterOf e.val) = t :: ts → s.claimable b t = false → s.victim b e.val = none →
      ∀ c ∈ [Instr.taskClaim e, Instr.splitkSlotRetry e], ∃ u, exec c s = .next u ∧
        u.array.splitWait.contains e.val = true ∧ CountedOnce s u (R.COMPUTE_SPLITK_WAIT (dieOf e.val)) ∧
        u.array.queues = s.array.queues ∧ u.array.slots = s.array.slots ∧ u.lock = s.lock ∧ SameBytes s u []) ∧
    (s.queue (clusterOf e.val) = [] →
      ∀ c ∈ [Instr.taskSteal e, Instr.stealRetry e, Instr.splitkSlotRetry e],
        (∀ v t, s.victim b e.val = some v → (s.queue v).getLast? = some t → t < 2 ^ 32 →
          ∃ u, exec c s = .next u ∧ u.queue v = (s.queue v).dropLast ∧
            u.array.slots.lookup (slotKey e.val k) = some { task := t, expected := s.expectedOf b t } ∧
            (∀ g, g ≠ v → u.queue g = s.queue g) ∧ u.lock = s.lock ∧ SameBytes s u []) ∧
        (s.victim b e.val = none → exec c s = .next s))

/-- The drain of a tile slot does the task's part of its barge's work (`drainTask`), frees the slot (`retire`), and with the
last task of a first pass starts the second (`secondPass`): the task is finished and counted, and the interval stays as it
was. A stage of the ROW barge in flight starts once every task of the stage before it has completed; without a second
reduction the stage after the first is the last. Buffers and inputs without error are assumed. That a stage not due changes
nothing is the model's choice (log 1). Parts of R136, R207. -/
def Obligations.TasksAndStagesFinish : Prop :=
  (∀ (e : EngineId) (slot : Fin 2) (b : Barge) (x : TileSlot) (s : State), s.arrayBarge = some b →
    s.array.slots.lookup (slotKey e.val slot.val) = some x → (∀ w ∈ s.health.sram, s.taskWord e w = true → w.double = false) →
    ∃ t, ∃ u : State, exec (.tileDrain e slot) s = .next t ∧
      t = ((u.drainTask b (slotKey e.val slot.val) x.task).retire e.val slot.val x.task).secondPass b ∧
      u.mem = s.mem ∧ u.array = s.array ∧ u.ctxs = s.ctxs ∧ u.lock = s.lock ∧
      x.task ∈ t.array.finished ∧ CountedOnce s t (R.COMPUTE_TASKS_DONE (dieOf e.val)) ∧ t.lock.tick = s.lock.tick) ∧
  ∀ (i : Nat) (b : Barge) (s : State), s.barge i = some b → s.array.barge = some i → b.cls = 3 → b.op = 1 →
    s.array.stage < 3 → s.clean (s.vecReads (s.frame b) b.desc) →
    (s.array.finished.length = s.stageTasks b * s.array.stage →
      ∃ t, exec (.rowStageStart i) s = .next t ∧ t.array.finished = s.array.finished ∧ SameBytes s t [] ∧
        t.array.stage = (if s.array.stage = 1 ∧ vbRed2 b.desc ≠ 0xF then 2 else 3) ∧
        t.get F.VECTOR_STATUS_STAGE = t.array.stage) ∧
    (s.array.finished.length ≠ s.stageTasks b * s.array.stage → exec (.rowStageStart i) s = .next s)

/-- A clock change sets COMPUTE_CLK.FREQ_MHZ of the die, and LOCK_SLOW.ARRAY_SLOW from the lowest of the four clocks; it changes
no other register, no memory and nothing of the array. Parts of R120. -/
def Obligations.ClockChangeShowsSlowness : Prop :=
  ∀ (d : DieId) (k : ClockStep) (s : State), ∃ t, exec (.computeClockChange d k) s = .next t ∧
    t.get (F.COMPUTE_CLK_FREQ_MHZ d.val) = clockMhz k ∧
    (∀ j < 4, t.get (F.COMPUTE_CLK_FREQ_MHZ j) = 550 → t.get F.LOCK_SLOW_ARRAY_SLOW = 0x80) ∧
    ((∀ j < 4, 825 ≤ t.get (F.COMPUTE_CLK_FREQ_MHZ j)) → (∃ j < 4, t.get (F.COMPUTE_CLK_FREQ_MHZ j) = 825) →
      t.get F.LOCK_SLOW_ARRAY_SLOW = 0x56) ∧
    ((∀ j < 4, t.get (F.COMPUTE_CLK_FREQ_MHZ j) = 1100) → t.get F.LOCK_SLOW_ARRAY_SLOW = 0x40) ∧
    (∀ a, a ≠ R.COMPUTE_CLK d.val → a ≠ R.LOCK_SLOW → t.reg a = s.reg a) ∧ t.array = s.array ∧ t.mem = s.mem ∧ t.lock = s.lock

/-! ## Vector instructions -/

/-- An issue on an enabled engine runs the instruction in all 64 of its lanes and touches nothing else: no lane of another
engine, no register, no memory. A disabled engine, or a field that R195 or R196 forbids, and nothing happens (log 1). Parts of
R192, R195, R197. -/
def Obligations.VectorIssueReachesEveryLane : Prop :=
  ∀ (c : Instr) (e : EngineId) (o : VOp) (f : VFields) (s : State), vecOf c = some (e, o, f) →
    (s.isEnabled e.val = true → validFields o f = true → ∃ t, exec c s = .next t ∧
      (∀ l < 64, t.lane e.val l = laneStep (s.issueEnv f) (vinsOf o f) (s.lane e.val l)) ∧
      (∀ d, d ≠ e.val → ∀ l < 64, t.lane d l = s.lane d l) ∧ { t with lanes := s.lanes } = s) ∧
    ((s.isEnabled e.val && validFields o f) = false → exec c s = .next s)

/-- With MASK_EN, a lane whose bit of LM[MASK_SEL] is 0 leaves its destination, and a compare its mask bit, unchanged; SEL
reads LM[MASK_SEL] as its selector and requires MASK_EN = 0. That a SEL with MASK_EN = 1 changes nothing is the model's choice
(log 1). Parts of R196. -/
def Obligations.Predication : Prop :=
  (∀ (env : VEnv) (i : VIns) (l : Lane), i.maskEn = true → l.lm.getLsbD i.maskSel.val = false → laneStep env i l = l) ∧
  (∀ (env : VEnv) (i : VIns) (l : Lane), i.op = .sel → i.maskEn = false →
    (laneStep env i l).get i.dst.val =
      if l.lm.getLsbD i.maskSel.val then vsrcValue env i l i.a else vsrcValue env i l i.b) ∧
  (∀ (e : EngineId) (f : VFields) (s : State), f.maskEn = true → exec (.sel e f) s = .next s)

/-- In a lane that takes part, an integer instruction writes its destination and no other vector register and no lane mask; a
compare writes the lane's bit of LM[DST] and nothing else. Parts of Table 08-3, R198. -/
def Obligations.IntegersAndCompares : Prop :=
  ∀ (env : VEnv) (i : VIns) (l : Lane), (i.maskEn = false ∨ l.lm.getLsbD i.maskSel.val = true) →
    (i.op ∈ [VOp.mov, .iadd, .isub, .imul, .and, .or, .xor, .shl, .shr] →
    (laneStep env i l).lm = l.lm ∧ (laneStep env i l).elem = l.elem ∧
    (∀ n, n ≠ i.dst.val → (laneStep env i l).get n = l.get n) ∧
    (i.op = .mov → (laneStep env i l).get i.dst.val = vsrcValue env i l i.a) ∧
    (i.op = .iadd → (laneStep env i l).get i.dst.val = vsrcValue env i l i.a + vsrcValue env i l i.b) ∧
    (i.op = .isub → (laneStep env i l).get i.dst.val = vsrcValue env i l i.a - vsrcValue env i l i.b) ∧
    (i.op = .imul → (laneStep env i l).get i.dst.val = vsrcValue env i l i.a * vsrcValue env i l i.b) ∧
    (i.op = .and → (laneStep env i l).get i.dst.val = vsrcValue env i l i.a &&& vsrcValue env i l i.b) ∧
    (i.op = .or → (laneStep env i l).get i.dst.val = vsrcValue env i l i.a ||| vsrcValue env i l i.b) ∧
    (i.op = .xor → (laneStep env i l).get i.dst.val = vsrcValue env i l i.a ^^^ vsrcValue env i l i.b) ∧
    (i.op = .shl → (laneStep env i l).get i.dst.val = vsrcValue env i l i.a <<< ((vsrcValue env i l i.b).toNat % 32)) ∧
    (i.op = .shr → (laneStep env i l).get i.dst.val = vsrcValue env i l i.a >>> ((vsrcValue env i l i.b).toNat % 32))) ∧
    (isCompare i.op = true → i.dst.val < 8 →
      (laneStep env i l).v = l.v ∧ (laneStep env i l).elem = l.elem ∧
      (∀ n < 8, n ≠ i.dst.val → (laneStep env i l).lm.getLsbD n = l.lm.getLsbD n) ∧
      (i.op = .icmplt → (laneStep env i l).lm.getLsbD i.dst.val =
        decide ((vsrcValue env i l i.a).toNat < (vsrcValue env i l i.b).toNat)) ∧
      (i.op = .icmpeq → (laneStep env i l).lm.getLsbD i.dst.val = decide (vsrcValue env i l i.a = vsrcValue env i l i.b)) ∧
      (i.op = .cmpun → (laneStep env i l).lm.getLsbD i.dst.val =
        (isNan32 (vsrcValue env i l i.a) || isNan32 (vsrcValue env i l i.b))) ∧
      (i.op = .cmpeq → (laneStep env i l).lm.getLsbD i.dst.val = fEq (vsrcValue env i l i.a) (vsrcValue env i l i.b)) ∧
      (i.op = .cmpne → (laneStep env i l).lm.getLsbD i.dst.val = fNe (vsrcValue env i l i.a) (vsrcValue env i l i.b)) ∧
      (i.op = .cmplt → (laneStep env i l).lm.getLsbD i.dst.val = fLt (vsrcValue env i l i.a) (vsrcValue env i l i.b)) ∧
      (i.op = .cmple → (laneStep env i l).lm.getLsbD i.dst.val = fLe (vsrcValue env i l i.a) (vsrcValue env i l i.b)))

/-- With a NaN operand every comparison is false but "not equal", which is true; −0 equals +0; two numbers compare as numbers,
with the infinities at the ends. A NaN among the operands of a floating-point instruction gives the canonical NaN, but for the
second operand of COPYSIGN, of which only the sign counts. Parts of R57, R60, Table 08-4. -/
def Obligations.NansAndComparisons : Prop :=
  (∀ a b : BitVec 32, isNan32 a = true ∨ isNan32 b = true →
    fEq a b = false ∧ fLt a b = false ∧ fLe a b = false ∧ fNe a b = true) ∧
  fEq 0x80000000#32 0x00000000#32 = true ∧
  (∀ a b : BitVec 32, (fv32 a).isFin = true → (fv32 b).isFin = true →
    fEq a b = decide ((fv32 a).rat = (fv32 b).rat) ∧ fLt a b = decide ((fv32 a).rat < (fv32 b).rat)) ∧
  (∀ a : BitVec 32, (fv32 a).isFin = true → fLt 0xFF800000#32 a = true ∧ fLt a 0x7F800000#32 = true) ∧
  ∀ (o : VOp) (a b c draw : BitVec 32) (sel : Bool), o ∈ floatOps →
    (isNan32 a = true → vopResult o a b c sel draw = 0x7FC00000#32) ∧
    (isNan32 b = true → o ∈ [VOp.add, .sub, .mul, .fma, .min, .max, .div] → vopResult o a b c sel draw = 0x7FC00000#32) ∧
    (isNan32 c = true → o = .fma → vopResult o a b c sel draw = 0x7FC00000#32)

/-- Rounding to binary32 is to the nearest: no finite magnitude lies closer to a positive quotient than the one chosen, and of
two that lie equally close the one chosen has the even pattern; at and beyond the midpoint above the largest finite value the
result is the infinity. Parts of R57, R59. -/
def Obligations.RoundsToNearestEven : Prop :=
  ∀ num den : Nat, 0 < num → 0 < den →
    (roundMag fmt32 num den = 0x7F800000 ↔ (2 ^ 25 - 1 : ℚ) * 2 ^ 103 ≤ (num : ℚ) / den) ∧
    roundMag fmt32 num den ≤ 0x7F800000 ∧
    (roundMag fmt32 num den < 0x7F800000 → ∀ m < 0x7F800000,
      |(unpackFv fmt32 (roundMag fmt32 num den)).rat - (num : ℚ) / den| ≤ |(unpackFv fmt32 m).rat - (num : ℚ) / den| ∧
      (|(unpackFv fmt32 (roundMag fmt32 num den)).rat - (num : ℚ) / den| = |(unpackFv fmt32 m).rat - (num : ℚ) / den| →
        m = roundMag fmt32 num den ∨ roundMag fmt32 num den % 2 = 0))

/-- The sum, the product and the fused product-sum of finite operands are the rounding of the exact number.
Parts of R57, R197. -/
def Obligations.ArithmeticIsExactThenRounded : Prop :=
  ∀ a b c : BitVec 32, (fv32 a).isFin = true → (fv32 b).isFin = true → (fv32 c).isFin = true →
    (∃ v, fAdd a b = to32 v ∧ v.isFin = true ∧ v.rat = (fv32 a).rat + (fv32 b).rat) ∧
    (∃ v, fSub a b = to32 v ∧ v.isFin = true ∧ v.rat = (fv32 a).rat - (fv32 b).rat) ∧
    (∃ v, fMul a b = to32 v ∧ v.isFin = true ∧ v.rat = (fv32 a).rat * (fv32 b).rat) ∧
    (∃ v, fFma a b c = to32 v ∧ v.isFin = true ∧ v.rat = (fv32 a).rat * (fv32 b).rat + (fv32 c).rat)

/-! ## Codes and scales -/

/-- The decode of a UE5M3 code. Parts of R67. -/
def Obligations.Ue5m3Decode : Prop :=
  ue5m3 0x00 = .fin false 0 (-17) ∧ ue5m3 0xFF = .nan ∧
  ∀ e < 32, ∀ f < 8, 8 * e + f ≠ 0 → 8 * e + f ≠ 0xFF → (ue5m3 (8 * e + f)).isFin = true ∧
    (e = 0 → (ue5m3 (8 * e + f)).rat = f * (2 : ℚ) ^ (-17 : Int)) ∧
    (e ≠ 0 → (ue5m3 (8 * e + f)).rat = (1 + f / 8) * (2 : ℚ) ^ ((e : Int) - 15))

/-- Rounding a quantity up to UE5M3. Parts of R68. -/
def Obligations.Ue5m3RoundUp : Prop :=
  ∀ x : Fv,
    (x.isFin = true → 0 < x.rat → x.rat ≤ 114688 →
      ∃ c, ue5m3Up x (.fin false 1 0) = (c, false) ∧ 1 ≤ c ∧ c ≤ 0xFE ∧ x.rat ≤ (ue5m3 c).rat ∧
        ∀ d, 1 ≤ d → d < c → (ue5m3 d).rat < x.rat) ∧
    (x.isFin = true → x.rat = 0 → ue5m3Up x (.fin false 1 0) = (0x00, false)) ∧
    (x.isFin = true → 114688 < x.rat → ue5m3Up x (.fin false 1 0) = (0xFE, true)) ∧
    (x.isFin = false → (ue5m3Up x (.fin false 1 0)).1 = 0xFF)

/-! ## Copies of table entries, and codebooks -/

/-- A write with GO to one of the three selectors, with no copy ordered, orders a copy of the entry that INDEX names: BUSY is 1
until the copy is made, and no table changes. A write with GO while a copy is ordered is ignored. Parts of R94, R190, R379. -/
def Obligations.EntryReadsAreOrdered : Prop :=
  ∀ (w : Word) (s : State), goBit w = true →
    (s.diesServe = true → s.lk.scaleRead = none → ∃ t, exec (.scaleRead w) s = .next t ∧
      t.flag F.SCALE_RD_STATUS_BUSY = true ∧ t.lk.scaleRead = some (F.SCALE_RD_SEL_INDEX.of w) ∧ t.scales = s.scales ∧
      t.get F.SCALE_RD_SEL_INDEX = F.SCALE_RD_SEL_INDEX.of w ∧ SameRegs s t [R.SCALE_RD_SEL, R.SCALE_RD_STATUS]) ∧
    (s.lk.scaleRead.isSome = true → exec (.scaleRead w) s = .next s) ∧
    (s.diesServe = true → s.lk.cstatRead = none → ∃ t, exec (.cstatRead w) s = .next t ∧
      t.flag F.SCALE_CSTAT_RD_STATUS_BUSY = true ∧
      t.lk.cstatRead = some (F.SCALE_CSTAT_RD_SEL_BANK.of w * 2 ^ 21 + F.SCALE_CSTAT_RD_SEL_INDEX.of w) ∧ t.cstat = s.cstat ∧
      SameRegs s t [R.SCALE_CSTAT_RD_SEL, R.SCALE_CSTAT_RD_STATUS]) ∧
    (s.lk.cstatRead.isSome = true → exec (.cstatRead w) s = .next s) ∧
    (s.lkServes = true → s.lk.recorderRead = none → ∃ t, exec (.recorderRead w) s = .next t ∧
      t.flag F.RECORDER_RD_STATUS_BUSY = true ∧ t.lk.recorderRead = some (F.RECORDER_RD_SEL_INDEX.of w) ∧
      t.health.records = s.health.records ∧ SameRegs s t [R.RECORDER_RD_SEL, R.RECORDER_RD_STATUS]) ∧
    (s.lk.recorderRead.isSome = true → exec (.recorderRead w) s = .next s)

/-- The copy puts the entry into its registers and clears BUSY: a Scale History and Coarse Scale entry; a statistics entry of
the bank that the role in BANK stands for, outside its agreement collective; a record by its index, 0 with EMPTY where there
are not so many, and 0 with ECC where it holds a word beyond correction. No table is changed. A served read of the counter of
nonfinite outputs returns and clears it. Where the words of SCALE_RD_HIST lie: log 11. Parts of R7, R94, R190, R379, Table
02-16. -/
def Obligations.EntryCopies : Prop :=
  (∀ (i : Nat) (s : State), s.lk.scaleRead = some i → ∃ t, exec .scaleReadCopy s = .next t ∧
    t.flag F.SCALE_RD_STATUS_BUSY = false ∧ t.lk.scaleRead = none ∧
    t.reg R.SCALE_RD_H = (s.scale i).h ∧ t.reg R.SCALE_RD_C0 = (s.scale i).c0 ∧ t.reg R.SCALE_RD_C1 = (s.scale i).c1 ∧
    t.reg R.SCALE_RD_AMAX = (s.scale i).amax ∧
    (∀ j : Fin 16, t.reg (R.SCALE_RD_HIST j.val) = tblGet histDefault (s.scale i).hist j.val) ∧ t.scales = s.scales) ∧
  (∀ (bank i : Nat) (s : State), bank < 2 → i < 2 ^ 21 → s.lk.cstatRead = some (bank * 2 ^ 21 + i) → s.inAgreement i = false →
    ∃ t feed, exec .cstatReadCopy s = .next t ∧ t.flag F.SCALE_CSTAT_RD_STATUS_BUSY = false ∧ t.lk.cstatRead = none ∧
    (∀ c, s.cstatOwner i = some c → feed = (s.ctx c).feedBank) ∧
    t.reg R.SCALE_CSTAT_RD_AMAX = (s.cstatAt (if bank = 1 then feed else !feed) i).amax ∧
    t.reg R.SCALE_CSTAT_RD_LEAD = (s.cstatAt (if bank = 1 then feed else !feed) i).lead ∧
    t.reg R.SCALE_CSTAT_RD_ROWS = (s.cstatAt (if bank = 1 then feed else !feed) i).rows ∧
    t.reg R.SCALE_CSTAT_RD_STEP = (s.cstatAt (if bank = 1 then feed else !feed) i).step ∧ t.cstat = s.cstat) ∧
  (∀ (i : Nat) (s : State), s.lk.recorderRead = some i →
    ∃ t, exec .recorderReadCopy s = .next t ∧ t.flag F.RECORDER_RD_STATUS_BUSY = false ∧ t.lk.recorderRead = none ∧
    (s.health.records.length ≤ i → (∀ w ∈ s.health.sram, w.memory ≠ .lockkeeper) →
      t.flag F.RECORDER_RD_STATUS_EMPTY = true ∧ ∀ k : Fin 8, t.reg (R.RECORDER_RD_WORD k.val) = 0) ∧
    ∀ r, i < s.health.records.length → s.health.records[s.health.records.length - 1 - i]? = some r →
      ((∀ w ∈ s.health.sram, w.memory ≠ .lockkeeper) → r.unreadable = false →
        t.flag F.RECORDER_RD_STATUS_EMPTY = false ∧ t.flag F.RECORDER_RD_STATUS_ECC = false ∧
        t.health.records = s.health.records ∧
        ∀ k : Fin 8, t.reg (R.RECORDER_RD_WORD k.val) = r.bits.extractLsb' (32 * k.val) 32) ∧
      ((∃ w ∈ s.health.sram, w.memory = .lockkeeper ∧ w.double = true ∧ w.record.map Fin.val = some i) →
        t.flag F.RECORDER_RD_STATUS_EMPTY = false ∧ t.flag F.RECORDER_RD_STATUS_ECC = true ∧
        ∀ k : Fin 8, t.reg (R.RECORDER_RD_WORD k.val) = 0)) ∧
  (∀ s : State, s.diesServe = true → ∃ t, exec .nonfiniteOutRead s = .next t ∧
    t.out = .busReply (s.reg R.FORMAT_NONFINITE_OUT) :: s.out ∧ t.reg R.FORMAT_NONFINITE_OUT = 0 ∧
    SameRegs s t [R.FORMAT_NONFINITE_OUT] ∧ SameBytes s t [])

/-- A write of FORMAT_CB_CMD with GO starts a load where none is in progress, and otherwise changes nothing. The load ends with
the code and the entry of the first check that fails, and BUSY cleared. A codebook accepted is copied into its slot, owned by
the context and marked valid; one refused leaves every slot as it was. Parts of R51, R52, Table 02-7. -/
def Obligations.CodebookLoads : Prop :=
  (∀ (w : Word) (s : State), s.diesServe = true → goBit w = true →
    (s.lk.codebookLoad = none → ∃ t, exec (.codebookLoad w) s = .next t ∧ t.flag F.FORMAT_CB_RESULT_BUSY = true ∧
      t.get F.FORMAT_CB_RESULT_ID = F.FORMAT_CB_CMD_ID.of w ∧ SameRegs s t [R.FORMAT_CB_RESULT] ∧
      t.lk.codebookLoad = some (F.FORMAT_CB_CMD_CONTEXT.of w * 64 + F.FORMAT_CB_CMD_ID.of w)) ∧
    (s.lk.codebookLoad.isSome = true → exec (.codebookLoad w) s = .next s)) ∧
  ∀ (c : CtxId) (id : Nat) (s : State), id < 64 → s.lk.codebookLoad = some (c.val * 64 + id) →
    ∃ t, exec .codebookLoadEnd s = .next t ∧ t.flag F.FORMAT_CB_RESULT_BUSY = false ∧ t.lk.codebookLoad = none ∧
      t.get F.FORMAT_CB_RESULT_CODE = (s.cbCheck c.val id s.stagedCodebook).1 ∧
      t.get F.FORMAT_CB_RESULT_ENTRY = (s.cbCheck c.val id s.stagedCodebook).2 ∧
      ((s.cbCheck c.val id s.stagedCodebook).1 = 0 →
        t.flag (F.FORMAT_CB_HDR_VALID id) = true ∧ t.get (F.FORMAT_CB_HDR_OWNER id) = c.val ∧
        t.get (F.FORMAT_CB_HDR_BASE_EXP id) = s.stagedCodebook.base.toNat ∧
        t.reg64 R.FORMAT_CB_VALID = s.reg64 R.FORMAT_CB_VALID ||| BitVec.twoPow 64 id ∧
        ∀ k : Fin 8, t.reg (R.FORMAT_CB_ENT id k.val) =
          s.stagedCodebook.entries.getD (2 * k.val + 1) 0 ++ s.stagedCodebook.entries.getD (2 * k.val) 0) ∧
      ((s.cbCheck c.val id s.stagedCodebook).1 ≠ 0 → SameRegs s t [R.FORMAT_CB_RESULT])

/-! ## Votes, boundaries, self-test -/

/-- The work at the boundary of a step, as it completes. After a commit flip, block-tensor barges may start again, and the
sluice lists and the feed bank swap, or the feed bank is discarded where the verdict withholds the swap. A rebuild puts the
list of every window of every table into the bank that is next in force. The re-timed plan takes the place of the plan. Parts
of R75, R177, R178, R180, R181, R187. -/
def Obligations.BoundaryWorkCompletes : Prop :=
  ∀ (c : CtxId) (s : State),
    ((s.ctx c.val).blocksHeld = true → ∃ t, exec (.scaleUpdateComplete c) s = .next t ∧ (t.ctx c.val).blocksHeld = false ∧
      (t.ctx c.val).captureDue = false ∧
      ((s.ctx c.val).verdict.getLsbD 1 = false →
        (t.ctx c.val).listBank = !(s.ctx c.val).listBank ∧ (t.ctx c.val).feedBank = !(s.ctx c.val).feedBank ∧
        (t.ctx c.val).rebuilding = true ∧ CountedOnce s t R.TRAIN_SLUICE_SWAPS) ∧
      ((s.ctx c.val).verdict.getLsbD 1 = true →
        (t.ctx c.val).listBank = (s.ctx c.val).listBank ∧ (t.ctx c.val).feedBank = (s.ctx c.val).feedBank ∧
        CountedOnce s t R.TRAIN_SLUICE_WITHHELD ∧ CountedOnce s t R.SCALE_CSTAT_DISCARD)) ∧
    ((s.ctx c.val).rebuilding = true → ∃ t, exec (.sluiceRebuildDone c) s = .next t ∧ (t.ctx c.val).rebuilding = false ∧
      (t.ctx c.val).listBank = (s.ctx c.val).listBank ∧ t.cstat = s.cstat ∧ SameBytes s t [] ∧
      (∀ d < 8, d ≠ c.val → t.ctx d = s.ctx d) ∧
      (((s.image c.val).sluices.Pairwise (fun x y => x.1 ≠ y.1) ∧
          ∀ e ∈ (s.image c.val).sluices, e.1 < 2 ^ 12 ∧ stWindows e.2 ≤ 2 ^ 18) →
        ∀ e ∈ (s.image c.val).sluices, ∀ w < stWindows e.2, t.window (!(s.ctx c.val).listBank) e.1 w =
          (rebuildWindow (s.cstatAt (!(s.ctx c.val).feedBank)) e.2 w (s.window (s.ctx c.val).listBank e.1 w)).1)) ∧
    ((s.ctx c.val).retiming = true → ∃ t, exec (.planRetimeDone c) s = .next t ∧ (t.ctx c.val).retiming = false ∧
      (t.ctx c.val).plan = retime (s.image c.val) (s.ctx c.val).levels (s.windowClk 0) (s.image c.val).plan ∧
      t.reg R.TRAIN_WIDEN_RETIMED = s.reg R.TRAIN_WIDEN_RETIMED +
        BitVec.ofNat 32 (retime (s.image c.val) (s.ctx c.val).levels (s.windowClk 0) (s.image c.val).plan).length -
        BitVec.ofNat 32 (s.ctx c.val).plan.length ∧
      Noted t 0x0264#16 (srcCtx c.val) [(8, c.val), (24, (s.ctx c.val).plan.length),
        (24, (retime (s.image c.val) (s.ctx c.val).levels (s.windowClk 0) (s.image c.val).plan).length)] ∧
      SameRegs s t [R.TRAIN_WIDEN_RETIMED] ∧ SameBytes s t [])

/-- A VOTE barge that starts sends the record of its member: its own vote or commit is kept, and PHASE tells it. The verdict of
a vote becomes the context's; it skips the step or not, and one that says the members ran different steps aborts the step. A
commit verdict that passes moves TRAIN_COMMIT to the step, at a member that has aborted too; one that does not leaves it.
TRAIN_CTL: a resume accepted clears the aborted step, moves the context's epoch on and runs the plan from the lock index of
TRAIN_RESUME; one refused changes only the result; clearing the skip run clears that count alone. The order of the checks of a
resume: log 64; a context under teardown, or a device in a reset: log 83. Parts of R259, R261, R263, R274 to R278, R336, Table
10-19. -/
def Obligations.VerdictsAndResumes : Prop :=
  (∀ (i : Nat) (b : Barge) (s : State), b.ctx < 8 →
    (s.ready i 8 0 b → s.clean ((if voLoss b.desc = 0 then [] else [(voLoss b.desc, 8)]) ++
        (if voGnorm b.desc = 0 then [] else [(voGnorm b.desc, 4)])) →
      ∃ t, exec (.voteStep i) s = .next t ∧ (∃ v : State, t = v.sendVote b (leBytes 256 (s.voteRecord b).toNat)) ∧
        (t.ctx b.ctx).ownVote = s.voteRecord b ∧ (t.ctx b.ctx).voteSent = true ∧
        t.get (F.TRAIN_CTX_STATUS_PHASE b.ctx) = 2 ∧ Started s t i ∧ SameBytes s t []) ∧
    (s.ready i 8 1 b →
      ∃ t, exec (.voteCommit i) s = .next t ∧ (∃ v : State, t = v.sendVote b (leBytes 32 (s.commitRecord b.ctx).toNat)) ∧
        (t.ctx b.ctx).ownCommit = s.commitRecord b.ctx ∧ (t.ctx b.ctx).commitSent = true ∧
        t.get (F.TRAIN_CTX_STATUS_PHASE b.ctx) = 4 ∧ Started s t i ∧ SameBytes s t [])) ∧
  (∀ (c : CtxId) (i n : Nat) (b : Barge) (s : State),
    (∀ v : BitVec 2048, s.voteBarge c.val 0 = some (i, b) → (s.ctx c.val).verdictIn = false →
      (s.ctx c.val).stepAborted = false →
      s.verdictOf b 256 (s.ctx c.val).ownVote.toNat v.toNat
        (fun x y => (joinVotes (BitVec.ofNat 2048 x) (BitVec.ofNat 2048 y)).toNat) = some n →
      ∃ t, exec (.stepVerdict c v) s = .next t ∧ (t.ctx c.val).verdict = BitVec.ofNat 2048 n ∧
        (t.ctx c.val).verdictIn = true ∧
        t.get (F.TRAIN_CTX_STATUS_VERDICT_SKIP c.val) = (isSkip (BitVec.ofNat 2048 n)).toNat ∧
        (stepMismatch (BitVec.ofNat 2048 n) = true → (t.ctx c.val).stepAborted = true)) ∧
    (∀ v : BitVec 256, s.voteBarge c.val 1 = some (i, b) → (s.ctx c.val).commitIn = false →
      (s.ctx c.val).stepAborted = false →
      s.verdictOf b 32 (s.ctx c.val).ownCommit.toNat v.toNat
        (fun x y => (joinCommits (BitVec.ofNat 256 x) (BitVec.ofNat 256 y)).toNat) = some n →
      ∃ t, exec (.commitVerdict c v) s = .next t ∧ (t.ctx c.val).cverdict = BitVec.ofNat 256 n ∧
        (t.ctx c.val).commitIn = true ∧
        t.reg64 (R.TRAIN_COMMIT c.val) =
          if commitPasses (BitVec.ofNat 256 n) (s.groupSize (bGroup b.desc)) (s.flag (F.TRAIN_CTX_STATUS_VERDICT_SKIP c.val))
          then s.reg64 (R.TRAIN_STEP c.val) else s.reg64 (R.TRAIN_COMMIT c.val))) ∧
  (∀ (c : CtxId) (v : BitVec 256) (s : State), s.voteBarge c.val 1 = none → (s.ctx c.val).stepAborted = true →
    (s.ctx c.val).commitSent = true → (s.ctx c.val).commitIn = false → s.groupRank (s.jobGroupOf c.val) ≠ 0 →
    recBits v 8 0 64 = s.step c.val →
    commitPasses v (s.groupSize (s.jobGroupOf c.val)) (s.flag (F.TRAIN_CTX_STATUS_VERDICT_SKIP c.val)) = true →
    ∃ t, exec (.commitVerdict c v) s = .next t ∧ t.reg64 (R.TRAIN_COMMIT c.val) = s.reg64 (R.TRAIN_STEP c.val) ∧
      t.flag (F.TRAIN_ARENA_PENDING c.val) = true ∧ (t.ctx c.val).boundary = some true ∧ SameBytes s t []) ∧
  ∀ (w : Word) (s : State), s.diesServe = true → goBit w = true →
    (F.TRAIN_CTL_CMD.of w = 1 → s.resumeCheck (F.TRAIN_CTL_CONTEXT.of w) = 0 →
      ∃ t, exec (.resumeContext w) s = .next t ∧ t.get F.TRAIN_CTL_RESULT_CODE = 0 ∧
        (t.ctx (F.TRAIN_CTL_CONTEXT.of w)).stepAborted = false ∧
        (t.ctx (F.TRAIN_CTL_CONTEXT.of w)).run = some ⟨.normal, 0, (s.reg64 (R.TRAIN_RESUME (F.TRAIN_CTL_CONTEXT.of w))).toNat⟩ ∧
        t.reg (R.LINK_CTX_EPOCH (F.TRAIN_CTL_CONTEXT.of w)) = s.reg (R.LINK_CTX_EPOCH (F.TRAIN_CTL_CONTEXT.of w)) + 1 ∧
        t.ctxState (F.TRAIN_CTL_CONTEXT.of w) = ctxRunning ∧ SameBytes s t []) ∧
    (F.TRAIN_CTL_CMD.of w = 1 → s.resumeCheck (F.TRAIN_CTL_CONTEXT.of w) ≠ 0 →
      ∃ t, exec (.resumeContext w) s = .next t ∧
        t.get F.TRAIN_CTL_RESULT_CODE = s.resumeCheck (F.TRAIN_CTL_CONTEXT.of w) ∧
        SameRegs s t [R.TRAIN_CTL_RESULT] ∧ t.ctxs = s.ctxs ∧ t.lock = s.lock) ∧
    (F.TRAIN_CTL_CMD.of w = 2 → (s.ctx (F.TRAIN_CTL_CONTEXT.of w)).image.isSome = true →
      ∃ t, exec (.clearSkipRun w) s = .next t ∧ t.get (F.TRAIN_CTX_STATUS_SKIP_RUN (F.TRAIN_CTL_CONTEXT.of w)) = 0 ∧
        t.get F.TRAIN_CTL_RESULT_CODE = 0 ∧
        SameRegs s t [R.TRAIN_CTX_STATUS (F.TRAIN_CTL_CONTEXT.of w), R.TRAIN_CTL_RESULT] ∧ t.ctxs = s.ctxs)

/-- A slice of an engine's test ends. With the slice's signature the engine goes on to the next slice; with another it has
failed: the slice is recorded and the engine is marked offline. The TEST barges: ENGINE on an engine not offline runs no slice
and says so in its header; on one offline it writes a header and, for every slice, the signature observed and whether it
matched. DRAIN ends the array barge in flight and writes one record for each slot of the engine, which begins with the engine,
the slot and what task the slot held. SCRUB writes the counts of sectors read, corrected and uncorrectable; a sector that it
cannot correct is left poisoned and abandons no step. Parts of R112, R359, R360, R364 to R366, R368. -/
def Obligations.TestSlicesEnd : Prop :=
  (∀ (e : EngineId) (sig : DWord) (s : State), s.lock.fired = true → s.health.withheld.contains e.val = true →
    s.isOffline e.val = false → s.slicesRun e.val < s.visitSlices → (s.test e.val).nextSlice < 16 →
    (s.reg64 (R.HEALTH_BIST_SIG (s.test e.val).nextSlice) = sig → ∃ t, exec (.testSliceEnd e sig) s = .next t ∧
      (t.test e.val).nextSlice = ((s.test e.val).nextSlice + 1) % 16 ∧ t.slicesRun e.val = s.slicesRun e.val + 1 ∧
      (t.test e.val).failed = (s.test e.val).failed ∧ t.isOffline e.val = false ∧ SameBytes s t []) ∧
    (s.reg64 (R.HEALTH_BIST_SIG (s.test e.val).nextSlice) ≠ sig → ∃ t, exec (.testSliceEnd e sig) s = .next t ∧
      (t.test e.val).failed = true ∧ (t.test e.val).failSlice = (s.test e.val).nextSlice ∧ t.isOffline e.val = true ∧
      SameBytes s t [])) ∧
  (∀ (i : Nat) (b : Barge) (sigs : List DWord) (s : State), s.ready i 10 0 b →
    (s.isOffline (teEngine b.desc) = false → ∃ t, exec (.testEngine i sigs) s = .next t ∧ Started s t i ∧
      (∀ k < 16, t.byte (teRes b.desc + k) = (testHeader (teEngine b.desc) 1 0).getD k 0) ∧
      (s.clean [(teRes b.desc, 16)] → SameBytes s t [(teRes b.desc, 16)]) ∧ t.health.tests = s.health.tests ∧
      Noted t 0x0502#16 (source 1 (teEngine b.desc)) [(16, teEngine b.desc), (16, 0), (8, b.ctx)]) ∧
    (s.isOffline (teEngine b.desc) = true → teFirst b.desc ≤ teLast b.desc →
      ∃ t, exec (.testEngine i sigs) s = .next t ∧ Started s t i ∧ t.health.tests = s.health.tests ∧
      (∀ k < 16, t.byte (teRes b.desc + k) =
        (testHeader (teEngine b.desc) 0 (teLast b.desc + 1 - teFirst b.desc)).getD k 0) ∧
      ∀ j < teLast b.desc + 1 - teFirst b.desc, ∀ x, sigs[j]? = some x → ∀ k < 16,
        t.byte (teRes b.desc + 16 + 16 * j + k) =
          (sliceBytes x (s.reg64 (R.HEALTH_BIST_SIG (teFirst b.desc + j)) == x)).getD k 0)) ∧
  (∀ (i k : Nat) (b a : Barge) (s : State), s.ready i 10 1 b → k ≠ i → s.array.barge = some k → s.barge k = some a →
    (∀ slot < 2, ∀ x, s.array.slots.lookup (slotKey (teEngine b.desc) slot) = some x → x.task < 2 ^ 32) →
    ∃ t r0 r1, exec (.testDrain i) s = .next t ∧ t.array.barge = none ∧ t.array.slots = [] ∧ t.array.queues = [] ∧
      t.flag F.COMPUTE_ARRAY_BUSY = false ∧ t.flag F.COMPUTE_ARRAY_ABORTED = true ∧
      t.barge k = some { a with state := .removed } ∧
      (∀ j < (r0 ++ r1).length, t.byte (teRes b.desc + j) = (r0 ++ r1).getD j 0) ∧
      ∀ e ∈ [(0, r0), (1, r1)], ∃ rest, e.2 = leBytes 2 (teEngine b.desc) ++
        (match (if a.cls = 1 ∨ a.cls = 2 then s.array.slots.lookup (slotKey (teEngine b.desc) e.1) else none) with
          | some x => [BitVec.ofNat 8 e.1, 3] ++ leBytes 4 x.task
          | none => [BitVec.ofNat 8 e.1, 0] ++ leBytes 4 0) ++ rest) ∧
  ∀ (i : Nat) (b : Barge) (s : State), s.ready i 10 2 b →
    (s.clean [(teAddr b.desc, teBytes b.desc)] → ∃ t, exec (.testScrub i) s = .next t ∧ Started s t i ∧
      (∀ k < 12, t.byte (teRes b.desc + k) = (leBytes 4 (teBytes b.desc / 512) ++ leBytes 4 0 ++ leBytes 4 0).getD k 0) ∧
      (s.clean [(teRes b.desc, 12)] → SameBytes s t [(teRes b.desc, 12)])) ∧
    (∀ n, teAddr b.desc = 512 * n → teBytes b.desc = 512 → 512 * n < s.hbmEnd →
      (decodeSector (s.sector n) (s.laneMark (s.placeOf n)) = .uncorrectable → ∃ t, exec (.testScrub i) s = .next t ∧
        (t.sector n).poisoned = true ∧ t.ctxs = s.ctxs ∧
        ∀ k < 12, t.byte (teRes b.desc + k) = (leBytes 4 1 ++ leBytes 4 0 ++ leBytes 4 1).getD k 0) ∧
      (decodeSector (s.sector n) (s.laneMark (s.placeOf n)) = .corrected → ∃ t, exec (.testScrub i) s = .next t ∧
        CountedOnce s t R.HEALTH_SCRUB_FIXED ∧ ∀ k < 12, t.byte (teRes b.desc + k) = (leBytes 4 1 ++ leBytes 4 1 ++ leBytes 4 0).getD k 0))

/-! ## Memory -/

/-- What keeps the stacks. A phase of a retraining that ends is counted; after phase B the next enabled channel comes, after
phase A phase B or a pause. With no phase running nothing changes. A temperature reading is shown and sets the thermal step;
reaching the last step shuts the stack and loses what HBM holds. A refresh management request is honoured at once; that it
leaves no state is the model's choice (log 4). Parts of R283, R295, R296, R298, R300. -/
def Obligations.StacksAreMaintained : Prop :=
  ∀ (st : StackId) (temp : Byte) (r : RetrainReport) (s : State),
    (∀ c < 384, s.mem.retraining = some (c, true) → ∃ t, exec (.retrainPhaseEnd r) s = .next t ∧ t.mem.retraining = none ∧
      t.mem.phaseB = false ∧ t.mem.nextChannel = s.nextChannel c ∧ t.flag F.MEM_RETRAIN_ACTIVE = false ∧
      t.get F.MEM_RETRAIN_CHANNEL = s.nextChannel c ∧ CountedOnce s t R.MEM_RETRAINS) ∧
    (∀ c < 384, s.mem.retraining = some (c, false) → ∃ t, exec (.retrainPhaseEnd r) s = .next t ∧ t.mem.phaseB = true ∧
      CountedOnce s t R.MEM_RETRAINS ∧
      (t.mem.retraining = some (c, true) ∧ t.flag F.MEM_RETRAIN_PHASE = true ∨
        t.mem.retraining = none ∧ t.mem.nextChannel = c ∧ t.flag F.MEM_RETRAIN_ACTIVE = false) ∧
      (s.get F.LOCK_SLOTS_MAINT_US < 3 ∨ s.flag F.LOCK_STATUS_DRAINING = true → t.mem.retraining = none)) ∧
    (s.mem.retraining = none → exec (.retrainPhaseEnd r) s = .next s) ∧
    (∃ t, exec (.stackTemperatureRead st temp) s = .next t ∧ t.get (F.MEM_STACK_STATUS_TEMP st.val) = temp.toNat ∧
      t.get (F.MEM_STACK_STATUS_TEMP_MAX st.val) = max temp.toNat (s.get (F.MEM_STACK_STATUS_TEMP_MAX st.val)) ∧
      t.get (F.MEM_STACK_STATUS_STEP st.val) = thermalStep (s.get (F.MEM_STACK_STATUS_STEP st.val)) temp.toNat ∧
      (thermalStep (s.get (F.MEM_STACK_STATUS_STEP st.val)) temp.toNat ≠ 4 →
        SameRegs s t [R.MEM_STACK_STATUS st.val, R.MEM_STATUS, R.LOCK_SLOW] ∧ SameBytes s t []) ∧
      (s.get (F.MEM_STACK_STATUS_STEP st.val) < 4 → 105 ≤ temp.toNat → st.val ∈ t.mem.shut ∧
        t.flag (F.MEM_STACK_STATUS_SHUT st.val) = true ∧ t.flag F.MEM_STATUS_CONTENTS_LOST = true)) ∧
    exec (.refreshManagementRequest st) s = .next s

/-- A margining sweep is accepted or refused with its code, and at its end reports its passing steps, which lie in the range of
its kind. An address is translated, or reported as past the end of HBM. The SRAM scrub counts a word that it corrects and
rewrites it. One of the Basin die that it cannot correct is counted, and ends the steps that read it; with no step at work its
table entry takes the cleared state at once. One of the event recorder loses its record. The buffers' words it leaves. Which
steps read a word, and how its offset counts: log 86. Parts of R305, R310, R356, R357, R369. -/
def Obligations.MarginsTranslationAndScrub : Prop :=
  ∀ s : State,
    (∀ w : Word, s.diesServe = true → goBit w = true → s.mem.sweep = none →
      ∃ t, exec (.marginSweep w) s = .next t ∧ SameRegs s t [R.MEM_MARGIN_CTL, R.MEM_MARGIN_RESULT] ∧ SameBytes s t [] ∧
        ((s.hostWrite R.MEM_MARGIN_CTL w).marginCheck = 0 → t.flag F.MEM_MARGIN_RESULT_BUSY = true ∧
          t.mem.sweep = some (F.MEM_MARGIN_CTL_KIND.of w, F.MEM_MARGIN_CTL_ALL_LANES.of w == 1)) ∧
        ((s.hostWrite R.MEM_MARGIN_CTL w).marginCheck ≠ 0 → t.mem.sweep = none ∧
          t.get F.MEM_MARGIN_RESULT_CODE = (s.hostWrite R.MEM_MARGIN_CTL w).marginCheck)) ∧
    (∀ (kind : Nat) (all : Bool) (low high : Byte) (worst : BitVec 5), s.mem.sweep = some (kind, all) →
      ∃ t, exec (.marginSweepEnd low high worst) s = .next t ∧ t.flag F.MEM_MARGIN_RESULT_BUSY = false ∧ t.mem.sweep = none ∧
        t.get F.MEM_MARGIN_RESULT_CODE = 0 ∧
        t.get F.MEM_MARGIN_RESULT_LOW = marginStep kind low ∧ t.get F.MEM_MARGIN_RESULT_HIGH = marginStep kind high ∧
        (∀ v ∈ [low, high], (if kind < 2 then -32 else -24) ≤ v.toInt → v.toInt ≤ (if kind < 2 then 31 else 23) →
          marginStep kind v = v.toNat) ∧
        (all = true → t.get F.MEM_MARGIN_RESULT_WORST_LANE = worst.toNat) ∧ SameRegs s t [R.MEM_MARGIN_RESULT]) ∧
    (∀ a : DWord, s.diesServe = true → ∃ t, exec (.memXlate a) s = .next t ∧
      t.reg64 R.MEM_XLATE_ADDR = a &&& 0xFFFFFFFFFFFF#64 ∧
      SameRegs s t [R.MEM_XLATE_ADDR, R.MEM_XLATE_ADDR + 4, R.MEM_XLATE_RESULT] ∧ SameBytes s t [] ∧
      (s.hbmEnd ≤ a.toNat % 2 ^ 48 → t.reg R.MEM_XLATE_RESULT = 0xFFFFFFFF#32) ∧
      (a.toNat % 2 ^ 48 < s.hbmEnd →
        t.get F.MEM_XLATE_RESULT_CHANNEL = (locate s.channels (a.toNat % 2 ^ 48)).channel % 512 ∧
        t.get F.MEM_XLATE_RESULT_PC = (locate s.channels (a.toNat % 2 ^ 48)).pc % 2 ∧
        t.get F.MEM_XLATE_RESULT_SECTOR = (locate s.channels (a.toNat % 2 ^ 48)).sector % 2 ^ 22)) ∧
    ∀ (w : SramWord) (arisen : List SramWord), s.health.sram = [w] →
      (2 ≤ memoryNumber w.memory → w.double = false → ∃ t, exec (.sramScrub arisen) s = .next t ∧
        CountedOnce s t R.HEALTH_SRAM_CORR ∧ SameRegs s t [R.HEALTH_SRAM_CORR] ∧ t.cstat = s.cstat ∧ t.scales = s.scales ∧
        t.health.sram = arisen) ∧
      (memoryNumber w.memory < 2 → ∃ t, exec (.sramScrub arisen) s = .next t ∧ SameRegs s t [] ∧
        t.health.sram = w :: arisen) ∧
      (w.memory = .basin → w.double = true → ∃ t, exec (.sramScrub arisen) s = .next t ∧ CountedOnce s t R.HEALTH_SRAM_UNCORR ∧
        (s.wordReaders (wordAddress w) = [] → s.flag F.LOCK_STATUS_DRAINING = false → SameRegs s t [R.HEALTH_SRAM_UNCORR] ∧
          (cstatBase ≤ wordAddress w → wordAddress w < sluiceListBase →
            tblGet cstatDefault t.cstat ((wordAddress w - cstatBase) / 16) = {})) ∧
        ∀ c ∈ s.wordReaders (wordAddress w), (t.ctx c).stepAborted = true ∧ t.flag F.LOCK_EVENTS_ABORT_TX = true ∧
          t.flag F.LOCK_STATUS_DRAINING = true ∧ wordAddress w ∈ t.health.lostWords) ∧
      (∀ k, w.memory = .lockkeeper → w.double = true → w.firmware = false → w.record = some k →
        k.val < s.health.records.length → ∃ t r, exec (.sramScrub arisen) s = .next t ∧
          CountedOnce s t R.HEALTH_SRAM_UNCORR ∧ t.health.sram = arisen ∧
          t.health.records[t.health.records.length - 1 - k.val]? = some r ∧ r.unreadable = true)

/-! ## Links -/

/-- Flits as they arrive on a port that has trained. Eight blocks of a codeword come with each; its symbol errors are corrected
and counted, or spoil every flit that the codeword touches. A spoilt flit, or one with a bad CRC or field, is counted and
discarded; a DATA flit then draws a NAK. A good DATA flit with the number expected joins its packet, and the last one brings
the packet in; one with another number draws a NAK. An IDLE or EQ flit gives its ACK and its credits. A NAK sends again all
that is not acknowledged from the number it names on; the eighth replay of a flit takes the link down. Where codewords begin
and what errors they may have: log 73; when a flit is acknowledged: log 38. Parts of R312, R314 to R318, R325. -/
def Obligations.FlitsArrive : Prop :=
  ∀ (p : PortId) (errors : Nat) (f : BitVec 2048) (s : State), s.hears p.val = true →
    (∃ t, exec (.idleFlit p ⟨errors, f⟩) s = .next t ∧ (t.port p.val).rxBlock = ((s.port p.val).rxBlock + 8) % 20 ∧
      ((s.port p.val).rxBlock = 0 ∨ 12 < (s.port p.val).rxBlock →
        (0 < errors → errors ≤ 15 → CountedOnce s t (R.LINK_P_FEC_CORR (p.val / 16) (p.val % 16))) ∧
        (15 < errors → CountedOnce s t (R.LINK_P_FEC_UNCORR (p.val / 16) (p.val % 16)) ∧
          CountedOnce s t (R.LINK_P_CRC_ERR (p.val / 16) (p.val % 16))))) ∧
    ((s.port p.val).spoils errors = true ∨ flitOk f = false →
      (∀ c ∈ [Instr.idleFlit p ⟨errors, f⟩, .nak p ⟨errors, f⟩, .hello p ⟨errors, f⟩, .eq p ⟨errors, f⟩], ∃ t, exec c s = .next t ∧
        CountedOnce s t (R.LINK_P_CRC_ERR (p.val / 16) (p.val % 16)) ∧
        SameRegs s t [R.LINK_P_CRC_ERR (p.val / 16) (p.val % 16), R.LINK_P_FEC_CORR (p.val / 16) (p.val % 16),
          R.LINK_P_FEC_UNCORR (p.val / 16) (p.val % 16)] ∧ (t.port p.val).rxSeq = (s.port p.val).rxSeq ∧ t.out = s.out) ∧
      ∃ t, exec (.dataFlit p ⟨errors, f⟩) s = .next t ∧ CountedOnce s t (R.LINK_P_CRC_ERR (p.val / 16) (p.val % 16)) ∧
        (t.port p.val).rxSeq = (s.port p.val).rxSeq ∧ (t.port p.val).parts = (s.port p.val).parts ∧
        (t.port p.val).nakSent = ((s.port p.val).nakSent || !(s.port p.val).equalising)) ∧
    ((s.port p.val).spoils errors = false → flitOk f = true →
      (flType f = 1 → (s.port p.val).equalising = false → s.isUp p.val = true →
        (flSeq f = (s.port p.val).rxSeq → flEop f = false → ∃ t, exec (.dataFlit p ⟨errors, f⟩) s = .next t ∧
          (t.port p.val).rxSeq = ((s.port p.val).rxSeq + 1) % 4096 ∧ (t.port p.val).nakSent = false ∧
          tblGet partsDefault (t.port p.val).parts (flVl f) =
            (if flSop f then [] else tblGet partsDefault (s.port p.val).parts (flVl f)) ++ flPayload f (flLen f) ∧
          SameRegs s t [R.LINK_P_FEC_CORR (p.val / 16) (p.val % 16)] ∧ SameBytes s t []) ∧
        (flSeq f = (s.port p.val).rxSeq → flEop f = true → ∃ t u, exec (.dataFlit p ⟨errors, f⟩) s = .next t ∧
          t = State.packetIn u p.val (flVl f) (packetOf
            ((if flSop f then [] else tblGet partsDefault (s.port p.val).parts (flVl f)) ++ flPayload f (flLen f))) ∧
          (u.port p.val).rxSeq = ((s.port p.val).rxSeq + 1) % 4096 ∧
          tblGet partsDefault (u.port p.val).parts (flVl f) = [] ∧
          SameRegs s u [R.LINK_P_FEC_CORR (p.val / 16) (p.val % 16)] ∧ SameBytes s u []) ∧
        (flSeq f ≠ (s.port p.val).rxSeq → ∃ t, exec (.dataFlit p ⟨errors, f⟩) s = .next t ∧
          (t.port p.val).rxSeq = (s.port p.val).rxSeq ∧ (t.port p.val).nakSent = true ∧
          SameRegs s t [R.LINK_P_FEC_CORR (p.val / 16) (p.val % 16)] ∧ SameBytes s t [])) ∧
      ((s.port p.val).waiting = [] →
        (∀ c ∈ [Instr.idleFlit p ⟨errors, f⟩, .eq p ⟨errors, f⟩],
          (c = .idleFlit p ⟨errors, f⟩ ∧ flType f = 0) ∨ (c = .eq p ⟨errors, f⟩ ∧ flType f = 2 ∧ flKind f = 4) →
          ∃ t, exec c s = .next t ∧ (t.port p.val).replay = unacked (s.port p.val).replay (flAck f) ∧
            (t.port p.val).credit (flCrVl f) = (s.port p.val).credit (flCrVl f) + flCrCount f ∧
            (c = .eq p ⟨errors, f⟩ → (t.port p.val).eqIn = BitVec.ofNat 64 (flNum f 9 8)) ∧
            SameRegs s t [R.LINK_P_FEC_CORR (p.val / 16) (p.val % 16)]) ∧
        (flType f = 2 → flKind f = 1 → (s.port p.val).equalising = false →
          (unacked (s.port p.val).replay (flAck f)).any (fun e => e.seq == flNum f 9 2) = true →
          ∃ t, exec (.nak p ⟨errors, f⟩) s = .next t ∧ CountedOnce s t (R.LINK_P_REPLAYS (p.val / 16) (p.val % 16)) ∧
            (((unacked (s.port p.val).replay (flAck f)).dropWhile (fun e => e.seq != flNum f 9 2)).all
                (fun e => decide (e.times < 7)) = true →
              (t.port p.val).replay = (unacked (s.port p.val).replay (flAck f)).takeWhile (fun e => e.seq != flNum f 9 2) ++
                ((unacked (s.port p.val).replay (flAck f)).dropWhile (fun e => e.seq != flNum f 9 2)).map
                  (fun e => { e with times := e.times + 1 })) ∧
            (((unacked (s.port p.val).replay (flAck f)).dropWhile (fun e => e.seq != flNum f 9 2)).any
                (fun e => decide (7 ≤ e.times)) = true → t.get (portState p.val) = portDown ∧ t.port p.val = {}))))

/-- HELLO from a partner on a port in training: the port is up when the partner is of this fabric and the one recorded, if any;
else it is held, and the partner that was named waits for ACCEPT. On another port it changes no register. A TIME flit ends the
exchange that was under way. On the parent port in use it is an estimate of the offset: a module that is locked moves its FTC
by at most 1 ns, and an estimate beyond 5 ns loses the lock; sixteen good ones in a row give it. Any other port answers. What
the estimate is in ns: log 39. Parts of R324, R327. -/
def Obligations.PartnersMeet : Prop :=
  ∀ (p : PortId) (errors : Nat) (f : BitVec 2048) (now : DWord) (s : State), s.hears p.val = true →
    (s.port p.val).spoils errors = false → flitOk f = true → flType f = 2 →
    (flKind f = 2 → (s.port p.val).equalising = false → (s.port p.val).phase = portTraining →
      ∃ t, exec (.hello p ⟨errors, f⟩) s = .next t ∧ t.get (portState p.val) = (t.port p.val).phase ∧
      (flNum f 11 2 ≠ s.get F.LINK_ID_FABRIC_ID → (t.port p.val).phase = portHeldFabric ∧ (t.port p.val).newPartner =
        some (BitVec.ofNat 32 (packFields [(16, flNum f 9 2 % 8192), (16, flNum f 13 1 % 32)]))) ∧
      (flNum f 11 2 = s.get F.LINK_ID_FABRIC_ID → s.flag (partnerValid p.val) = true →
        s.get (partnerModule p.val) ≠ flNum f 9 2 % 8192 ∨ s.get (partnerPort p.val) ≠ flNum f 13 1 % 32 →
        (t.port p.val).phase = portHeldPartner ∧ (t.port p.val).newPartner =
          some (BitVec.ofNat 32 (packFields [(16, flNum f 9 2 % 8192), (16, flNum f 13 1 % 32)]))) ∧
      (flNum f 11 2 = s.get F.LINK_ID_FABRIC_ID → (s.flag (partnerValid p.val) = true →
          s.get (partnerModule p.val) = flNum f 9 2 % 8192 ∧ s.get (partnerPort p.val) = flNum f 13 1 % 32) →
        (t.port p.val).phase = portUp ∧ t.flag (partnerValid p.val) = true ∧
        t.get (partnerModule p.val) = flNum f 9 2 % 8192 ∧ t.get (partnerPort p.val) = flNum f 13 1 % 32)) ∧
    (flKind f = 2 → (s.port p.val).phase ≠ portTraining → ∃ t, exec (.hello p ⟨errors, f⟩) s = .next t ∧
      SameRegs s t [R.LINK_P_FEC_CORR (p.val / 16) (p.val % 16)] ∧ (t.port p.val).phase = (s.port p.val).phase) ∧
    (flKind f = 3 → ∃ t, exec (.time p ⟨errors, f⟩ now) s = .next t ∧ (t.port p.val).timeSent = none ∧
      (t.port p.val).timeIn = (s.at_ now.toNat).ftc ∧ SameBytes s t [] ∧
      (s.parentPort ≠ some p.val → ∃ g, t.out.head? = some (.flit p.val g)) ∧
      ∀ t0, s.parentPort = some p.val → (s.port p.val).timeSent = some t0 → 0 < (s.at_ now.toNat).ftc →
        (s.at_ now.toNat).ftc < 2 ^ 64 - 1 →
        (s.flag F.LOCK_STATUS_FTC_LOCKED = true → t.ftc ≤ (s.at_ now.toNat).ftc + 1 ∧ (s.at_ now.toNat).ftc ≤ t.ftc + 1) ∧
        (10 < (((flNum f 17 8 : Int) - t0) + ((flNum f 9 8 : Int) - (s.at_ now.toNat).ftc)).natAbs →
          t.flag F.LOCK_STATUS_FTC_LOCKED = false ∧ t.link.goodEstimates = 0) ∧
        ((((flNum f 17 8 : Int) - t0) + ((flNum f 9 8 : Int) - (s.at_ now.toNat).ftc)).natAbs ≤ 3 →
          t.link.goodEstimates = s.link.goodEstimates + 1 ∧
          (15 ≤ s.link.goodEstimates → t.flag F.LOCK_STATUS_FTC_LOCKED = true)))

/-- Links go down when they fall silent or fail to train: all that the port held is gone, and with no parent port up a module
that is not the tick master loses the lock. An enabled port trains again; a link trained says HELLO; software accepts a partner
held as another than the one recorded, but none of another fabric; an equalisation step ends. What a port keeps while its link
is down: log 65. Parts of R317, R324, R325, R327. -/
def Obligations.LinksChangeState : Prop :=
  ∀ (p : PortId) (s : State),
    (∀ c ∈ [Instr.linkSilence p, .linkTrainingFailed p],
      (c = .linkSilence p ∧ (s.port p.val).helloSent = true) ∨ (c = .linkTrainingFailed p ∧ (s.port p.val).training = true) →
      ∃ t, exec c s = .next t ∧ t.get (portState p.val) = portDown ∧ t.port p.val = {} ∧
        CountedOnce s t (R.LINK_P_DOWN (p.val / 16) (p.val % 16)) ∧
        (s.flag F.LOCK_CTL_TICK_MASTER = false → t.parentPort = none → t.flag F.LOCK_STATUS_FTC_LOCKED = false) ∧
        (∀ q, q ≠ p.val → t.port q = s.port q)) ∧
    (s.portEnabled p.val = true → (s.port p.val).phase = portDown → ∃ t, exec (.linkRetrain p) s = .next t ∧
      t.get (portState p.val) = portTraining ∧ t.port p.val = { training := true, phase := portTraining } ∧
      SameRegs s t [(portState p.val).addr]) ∧
    ((s.port p.val).training = true → ∃ t, exec (.linkUp p) s = .next t ∧ (t.port p.val).helloSent = true ∧
      (t.port p.val).training = false ∧ t.flag (F.LINK_PORT_STATUS_EQ_SAVED (p.val / 16) (p.val % 16)) = true ∧
      t.out = .flit p.val (flitOf 2 0 false false 0 4095 0 0 (2 :: (leBytes 2 (s.get F.LINK_ID_MODULE_ID) ++
        leBytes 2 (s.get F.LINK_ID_FABRIC_ID) ++ leBytes 1 p.val))) :: s.out) ∧
    (∀ n, s.diesServe = true → (s.port p.val).newPartner = some n →
      ((s.port p.val).phase = portHeldPartner → ∃ t, exec (.portAccept p) s = .next t ∧ t.get (portState p.val) = portUp ∧
        (t.port p.val).phase = portUp ∧ t.flag (partnerValid p.val) = true ∧ (t.port p.val).newPartner = none) ∧
      ((s.port p.val).phase = portHeldFabric → exec (.portAccept p) s = .next s)) ∧
    (s.link.eqPort = some p.val → ∃ t, exec (.equalisationStepEnd p) s = .next t ∧ t.link.eqPort = none ∧
      (t.port p.val).equalising = false ∧ SameBytes s t [])

/-! ## Packets -/

/-- What routed packets do. One for another module goes on by the route, on the lane that it came on, with a hop less, or is
dropped and counted. A PUT is kept in its stream, and moves on the barge it is for; a bad, a stale and a repeated one, and one
for which the staging area has no room, are dropped and counted. A PUT_ACK frees exactly the PUTs it names. A PUT not
acknowledged goes again. Parts of R320 to R322, R336, R337, R343. -/
def Obligations.RoutedPackets : Prop :=
  ∀ (p : PortId) (pk : Packet) (s : State),
    (isRouted (pkKind pk) = true → s.isMine pk = false → ∀ vl : Fin 4,
      (pkHops pk = 0 → exec (.packetForward p ⟨vl, pk⟩) s = .next (s.count R.LINK_E2E_BAD 1)) ∧
      (pkHops pk ≠ 0 → (∀ q, s.route (p.val / 16) (pkDst pk) = some q →
          exec (.packetForward p ⟨vl, pk⟩) s = .next (s.queuePacket q vl.val (nextHop pk))) ∧
        (s.route (p.val / 16) (pkDst pk) = none → ∃ t, exec (.packetForward p ⟨vl, pk⟩) s = .next t ∧
          SameRegs s t [R.LINK_NOROUTE] ∧ t.link.ports = s.link.ports ∧ CountedOnce s t R.LINK_NOROUTE))) ∧
    (pkKind pk = pkPut → s.isMine pk = true →
      (pkCrcOk pk = false → exec (.put p pk) s = .next (s.count R.LINK_E2E_BAD 1)) ∧
      (pkCrcOk pk = true → s.stale pk = true → ∃ t, exec (.put p pk) s = .next t ∧ t.link = s.link ∧
        CountedOnce s t R.LINK_EPOCH_DROP) ∧
      (pkCrcOk pk = true → s.stale pk = false → s.hasPacket (pkKey pk) (pkPkt pk) = true →
        exec (.put p pk) s = .next (s.count R.LINK_DUP_DROP 1)) ∧
      (pkCrcOk pk = true → s.stale pk = false → s.hasPacket (pkKey pk) (pkPkt pk) = false →
        (∀ i, s.receiver (pkKey pk) = some i → ∃ t u, exec (.put p pk) s = .next t ∧ t = State.progress u i ∧
          u.hasPacket (pkKey pk) (pkPkt pk) = true ∧ u.ctxs = s.ctxs ∧ u.lock = s.lock ∧ SameBytes s u []) ∧
        (s.receiver (pkKey pk) = none → s.stagedBytes + pk.payload.length ≤ 2 ^ 27 → ∃ t, exec (.put p pk) s = .next t ∧
          t.hasPacket (pkKey pk) (pkPkt pk) = true ∧ t.regs = s.regs ∧ t.ctxs = s.ctxs ∧ SameBytes s t []) ∧
        (s.receiver (pkKey pk) = none → 2 ^ 27 < s.stagedBytes + pk.payload.length →
          exec (.put p pk) s = .next (s.count R.LINK_STAGE_FULL 1)))) ∧
    (pkKind pk = pkPutAck → s.isMine pk = true → pkCrcOk pk = true → s.stale pk = false →
      ∃ t, exec (.putAck p pk) s = .next t ∧ t.link.outgoing = s.link.outgoing.filter (fun o => !acks pk o)) ∧
    (∀ n o, s.link.outgoing.find? (fun o => o.id == n) = some o →
      exec (.putResend n) s = .next (s.routePacket 0 o.lane o.packet))

/-- What the sync packets do, the time being their operand (log 2). A schedule from the parent for a tick still to come sets
the next tick, and is counted when it comes less than MAINT_US before the end of its interval; one for a tick that has fired,
or whose time has passed, is counted and changes no tick (log 74). A stretch request is held when it is the largest, or counted
when the schedule has gone out. An ABORT not seen before goes on once for its sender and lock index, is recorded, and ends the
steps under way that it names (log 75). Parts of R328, R330, R331, R333. -/
def Obligations.SyncPackets : Prop :=
  ∀ (p : PortId) (pk : Packet) (now : DWord) (s : State), pkCrcOk pk = true →
    (pkKind pk = pkSched → (s.at_ now.toNat).parentPort = some p.val →
      (plNum pk 8 8 = s.index + 1 → (s.at_ now.toNat).ftc < plNum pk 0 8 →
        (s.at_ now.toNat).tickFired (plNum pk 0 8) (plNum pk 8 8) = false → ∃ t, exec (.sched p pk now) s = .next t ∧
        t.reg64 R.LOCK_NEXT_TICK = BitVec.ofNat 64 (plNum pk 0 8) ∧ t.lock.schedArrived = true ∧ t.index = s.index ∧
        SameBytes s t [] ∧
        (s.lock.fired = true → s.lock.tick + s.period < (s.at_ now.toNat).ftc + 1000 * s.get F.LOCK_SLOTS_MAINT_US →
          CountedOnce s t R.LINK_SCHED_LATE ∧ t.lock.stretched = s.lock.stretched)) ∧
      ((s.at_ now.toNat).tickFired (plNum pk 0 8) (plNum pk 8 8) = true ∨ plNum pk 0 8 ≤ (s.at_ now.toNat).ftc →
        ∃ t, exec (.sched p pk now) s = .next t ∧ t.reg64 R.LOCK_NEXT_TICK = s.reg64 R.LOCK_NEXT_TICK ∧
          CountedOnce s t R.LINK_SCHED_LATE ∧ (plNum pk 8 8 = s.index → t.lock = s.lock) ∧
          (plNum pk 8 8 ≠ s.index → t.reg64 R.LOCK_INDEX = BitVec.ofNat 64 (plNum pk 8 8)))) ∧
    (pkKind pk = pkStretch → (s.at_ now.toNat).childPorts.contains p.val = true →
      (s.flag F.LOCK_CTL_TICK_MASTER = true → s.lock.schedArrived = true → ∃ t, exec (.stretchReq p pk now) s = .next t ∧
        t.lock = s.lock ∧ CountedOnce s t R.LINK_STRETCH_LATE) ∧
      ((s.flag F.LOCK_CTL_TICK_MASTER = false ∨ s.lock.schedArrived = false) → ∃ t, exec (.stretchReq p pk now) s = .next t ∧
        t.lock = { s.lock with needHeld := max s.lock.needHeld (plNum pk 0 2) })) ∧
    (pkKind pk = pkAbort → pkSrc pk ≠ s.get F.LINK_ID_MODULE_ID →
      (s.link.abortsSeen.contains (abortId pk) = true → exec (.abort p pk) s = .next s) ∧
      (s.link.abortsSeen.contains (abortId pk) = false → ∃ t, exec (.abort p pk) s = .next t ∧
        t.link.abortsSeen = s.link.abortsSeen ++ [abortId pk] ∧ t.link.ports = (s.passAbort p.val pk).link.ports ∧
        (s.abortNames (plNum pk 0 2) (plNum pk 2 4) ≠ [] → t.flag F.LOCK_EVENTS_ABORT_RX = true) ∧
        (∀ c ∈ s.abortNames (plNum pk 0 2) (plNum pk 2 4), c ∈ s.working → (t.ctx c).stepAborted = true)))

/-- An agreement. With a bad operation or group it is refused. It starts with this member's value, ends with the largest or
smallest value once rank 0 has every one and with rank 0's result elsewhere, and times out with the members missing. Parts of
R346. -/
def Obligations.Agreements : Prop :=
  (∀ (w : Word) (s : State), s.diesServe = true → goBit w = true → ∀ c ∈ [Instr.agreementMax w, .agreementMin w],
    (s.link.agreement.isSome = true → exec c s = .next s) ∧
    (s.link.agreement = none →
      (2 ≤ F.LINK_AGREE_CTL_OP.of w → ∃ t, exec c s = .next t ∧ t.get F.LINK_AGREE_RESULT_CODE = 3 ∧ t.link = s.link) ∧
      (F.LINK_AGREE_CTL_OP.of w < 2 → s.flag (F.LINK_GRP_CFG_VALID (F.LINK_AGREE_CTL_GROUP.of w)) = false →
        ∃ t, exec c s = .next t ∧ t.get F.LINK_AGREE_RESULT_CODE = 2 ∧ t.link = s.link) ∧
      (F.LINK_AGREE_CTL_OP.of w < 2 → s.flag (F.LINK_GRP_CFG_VALID (F.LINK_AGREE_CTL_GROUP.of w)) = true →
        (s.groupRank (F.LINK_AGREE_CTL_GROUP.of w) ≠ 0 → ∃ t, exec c s = .next t ∧ t.flag F.LINK_AGREE_RESULT_BUSY = true ∧
          t.link.agreement = some ⟨F.LINK_AGREE_CTL_GROUP.of w, F.LINK_AGREE_CTL_OP.of w == 1,
            [(s.groupRank (F.LINK_AGREE_CTL_GROUP.of w), s.reg64 R.LINK_AGREE_IN)]⟩) ∧
        (s.groupRank (F.LINK_AGREE_CTL_GROUP.of w) = 0 → s.groupSize (F.LINK_AGREE_CTL_GROUP.of w) = 1 → s.link.early = [] →
          ∃ t, exec c s = .next t ∧ t.flag F.LINK_AGREE_RESULT_BUSY = false ∧ t.get F.LINK_AGREE_RESULT_CODE = 0 ∧
            t.link.agreement = none ∧ t.reg64 R.LINK_AGREE_OUT = s.reg64 R.LINK_AGREE_IN)))) ∧
  (∀ (p : PortId) (pk : Packet) (r : Nat) (a : Agreement) (s : State), pkKind pk = pkAgree → s.isMine pk = true →
    pkCrcOk pk = true → s.flag (F.LINK_GRP_CFG_VALID (pkGroup pk)) = true → s.rankOf (pkGroup pk) (pkSrc pk) = some r →
    s.link.agreement = some a → a.group = pkGroup pk →
    (s.groupRank a.group = 0 → (∀ q < s.groupSize a.group, q ≠ r → (a.values.lookup q).isSome = true) →
      ∃ t, exec (.agree p pk) s = .next t ∧ t.flag F.LINK_AGREE_RESULT_BUSY = false ∧ t.link.agreement = none ∧
        t.reg64 R.LINK_AGREE_OUT =
          agreed a.minimum (a.values.filter (fun e => e.1 != r) ++ [(r, BitVec.ofNat 64 (plNum pk 0 8))])) ∧
    (s.groupRank a.group ≠ 0 → r = 0 → ∃ t, exec (.agree p pk) s = .next t ∧ t.flag F.LINK_AGREE_RESULT_BUSY = false ∧
      t.link.agreement = none ∧ t.reg64 R.LINK_AGREE_OUT = BitVec.ofNat 64 (plNum pk 0 8))) ∧
  (∀ (a : Agreement) (s : State), s.link.agreement = some a → ∃ t, exec .agreementTimeout s = .next t ∧
    t.flag F.LINK_AGREE_RESULT_BUSY = false ∧ t.get F.LINK_AGREE_RESULT_CODE = 1 ∧ t.link.agreement = none ∧
    t.get F.LINK_AGREE_FIRST_FIRST_MISSING = (s.agreeMissing a).headD 0 % 2 ^ 13 ∧
    SameRegs s t [R.LINK_AGREE_RESULT, R.LINK_AGREE_FIRST] ∧ SameBytes s t [])

/-- A write of the group table or member store takes effect unless its group is in use by a running step; a write of a
context's epoch while a plan of it runs is ignored, and one that changes it frees its streams; a management packet from the
buddy that is awaited, with its tags, ends that command, and one that is not awaited changes nothing. What a management packet
says is the model's choice (log 37). Parts of R336, R413, R423. -/
def Obligations.GroupsAndEpochs : Prop :=
  ∀ s : State, s.diesServe = true →
    (∀ (g : GroupWrite) (w : Word), s.lockedGroup g = none → exec (.groupTableWrite g w) s = .next (s.groupWrite w g)) ∧
    (∀ (g : GroupWrite) (w : Word) (n : Nat), s.lockedGroup g = some n → ∃ t, exec (.groupTableWrite g w) s = .next t ∧
      SameRegs s t [] ∧ t.link = s.link ∧
      Noted t 0x061C#16 (srcCtx (s.get (F.LINK_GRP_CFG_CONTEXT n))) [(16, n), (8, s.get (F.LINK_GRP_CFG_CONTEXT n))]) ∧
    (∀ (c : CtxId) (w : Word), s.working.contains c.val = true → exec (.ctxEpochWrite c w) s = .next s) ∧
    (∀ (c : CtxId) (w : Word), s.working.contains c.val = false → s.reg (R.LINK_CTX_EPOCH c.val) ≠ w →
      ∃ t, exec (.ctxEpochWrite c w) s = .next t ∧ t.reg (R.LINK_CTX_EPOCH c.val) = w ∧
        (∀ x ∈ t.link.streams, x.key.ctx ≠ c.val) ∧ (∀ o ∈ t.link.outgoing, pkCtx o.packet ≠ c.val)) ∧
    (∀ (p : PortId) (pk : Packet) (tags : Option (Word × Word)), pkKind pk = pkMgmt → s.isMine pk = true → pkCrcOk pk = true →
      (s.snapIn 4 = none → exec (.mgmt p pk tags) s = .next s) ∧
      (∀ c v, s.snapIn 4 = some c → s.buddy c = pkSrc pk → tags = some v → ∃ t, exec (.mgmt p pk tags) s = .next t ∧
        t.lk.snapRun = none ∧ t.flag F.LK_SNAP_RESULT_BUSY = false ∧
        (t.ctx c).buddyOk = !(s.reg R.BOOT_POWER_FEED != 0 && s.reg R.BOOT_POWER_FEED == v.1)))

/-! ## Snapshots -/

/-- The commands of LK_SNAP_CMD and the answers that end them. CAPTURE_NEXT orders a capture; SEAL seals the newest generation,
after the buddy's acknowledgement where there is a buddy; BIND_BUDDY accepts a buddy unless it shares the power feed;
SNAPSHOT_START stages the restored step. A write while a command is in progress is ignored. The codes of a SEAL without a
generation and of a start without a restore are the model's reading (log 42); a header that cannot be read: log 85. Parts of
R293, R409, R413, R416, R421, Table 16-7. -/
def Obligations.SnapshotCommands : Prop :=
  (∀ (w : Word) (c : Nat) (s : State), s.lkServes = true → goBit w = true → F.LK_SNAP_CMD_CONTEXT.of w = c →
    (s.lk.snapRun.isSome = true → ∀ i ∈ [Instr.captureNext w, .seal w, .restore w none, .bindBuddy w none, .snapshotStart w],
      exec i s = .next s) ∧
    (s.lk.snapRun = none →
      (F.LK_SNAP_CMD_CMD.of w = 1 → ∃ t, exec (.captureNext w) s = .next t ∧ t.get F.LK_SNAP_RESULT_CODE = 0 ∧
        t.ctx c = { s.ctx c with captureNext := true } ∧ SameRegs s t [R.LK_SNAP_RESULT]) ∧
      (F.LK_SNAP_CMD_CMD.of w = 2 → s.newestGen c = none → ∃ t, exec (.seal w) s = .next t ∧
        t.get F.LK_SNAP_RESULT_CODE = 2 ∧ SameBytes s t []) ∧
      (∀ j, F.LK_SNAP_CMD_CMD.of w = 2 → s.newestGen c = some j →
        ((∃ n ∈ s.hbmSectors (headerRegion (s.image c) j), (s.sector n).poisoned = true) →
          ∃ t, exec (.seal w) s = .next t ∧ t.get F.LK_SNAP_RESULT_CODE = 2 ∧
            t.get (F.LK_SNAP_SLOT_STATE c j) = s.get (F.LK_SNAP_SLOT_STATE c j)) ∧
        (s.clean (headerRegion (s.image c) j) → s.flag F.LK_STATUS_SEC_OUT = false → genSealed (s.slotHeader c j) = false →
          ∃ t, exec (.seal w) s = .next t ∧
          (s.flag (F.LK_SNAP_BUDDY_VALID c) = true → t.flag F.LK_SNAP_RESULT_BUSY = true ∧ (t.ctx c).sealing = some j ∧
            t.snapIn 2 = some c) ∧
          (s.flag (F.LK_SNAP_BUDDY_VALID c) = false → t.flag F.LK_SNAP_RESULT_BUSY = false ∧
            t.get F.LK_SNAP_RESULT_CODE = 0 ∧ t.get (F.LK_SNAP_SLOT_STATE c j) = 5))) ∧
      (F.LK_SNAP_CMD_CMD.of w = 4 → s.flag (F.LK_SNAP_BUDDY_VALID c) = true →
        (∃ t, exec (.bindBuddy w none) s = .next t ∧ t.flag F.LK_SNAP_RESULT_BUSY = true ∧ t.snapIn 4 = some c) ∧
        (∀ v, ∃ t, exec (.bindBuddy w (some v)) s = .next t ∧ t.flag F.LK_SNAP_RESULT_BUSY = false ∧
          (t.ctx c).buddyOk = !(s.reg R.BOOT_POWER_FEED != 0 && s.reg R.BOOT_POWER_FEED == v.1) ∧
          t.get F.LK_SNAP_RESULT_CODE =
            if s.reg R.BOOT_POWER_FEED ≠ 0 ∧ s.reg R.BOOT_POWER_FEED = v.1 then 0x0D else 0)) ∧
      (F.LK_SNAP_CMD_CMD.of w = 5 →
        (s.flag (F.LK_SNAP_VERIFY_RESTORED c) = false → ∃ t, exec (.snapshotStart w) s = .next t ∧
          t.get F.LK_SNAP_RESULT_CODE = 1 ∧ t.ctxs = s.ctxs) ∧
        (s.flag (F.LK_SNAP_VERIFY_RESTORED c) = true → (s.reg64 R.LK_SNAP_START).toNat < s.index + 2 →
          ∃ t, exec (.snapshotStart w) s = .next t ∧ t.get F.LK_SNAP_RESULT_CODE = 0x0C ∧ t.ctxs = s.ctxs) ∧
        (s.flag (F.LK_SNAP_VERIFY_RESTORED c) = true → s.index + 2 ≤ (s.reg64 R.LK_SNAP_START).toNat →
          ∃ t, exec (.snapshotStart w) s = .next t ∧ t.get F.LK_SNAP_RESULT_CODE = 0 ∧ t.ctxState c = ctxRunning ∧
          (t.ctx c).run = some ⟨.normal, 0, (s.reg64 R.LK_SNAP_START).toNat⟩)))) ∧
  ∀ (c : CtxId) (j : Fin 2) (s : State),
    (s.lk.snapRun = some ⟨2, c⟩ → (s.ctx c.val).sealing = some j.val →
      (∃ t, exec .sealAck s = .next t ∧ (t.ctx c.val).sealing = none ∧ t.flag F.LK_SNAP_RESULT_BUSY = false ∧
        t.get F.LK_SNAP_RESULT_CODE = 0 ∧ t.get (F.LK_SNAP_SLOT_STATE c.val j.val) = 5 ∧ SameBytes s t []) ∧
      (∃ t, exec .sealTimeout s = .next t ∧ (t.ctx c.val).sealing = none ∧ t.flag F.LK_SNAP_RESULT_BUSY = false ∧
        t.get F.LK_SNAP_RESULT_CODE = 0x0A ∧
        t.get (F.LK_SNAP_SLOT_STATE c.val j.val) = s.get (F.LK_SNAP_SLOT_STATE c.val j.val))) ∧
    (s.lk.snapRun = some ⟨4, c⟩ → ∃ t, exec .buddyTimeout s = .next t ∧ (t.ctx c.val).buddyOk = false ∧
      t.flag F.LK_SNAP_RESULT_BUSY = false ∧ t.get F.LK_SNAP_RESULT_CODE = 0x0A ∧ SameBytes s t [])

/-- Generations. A capture writes the whole generation into its slot, or is abandoned where its gap ends or its arena cannot be
read; an export goes to the buddy, where it can be read, and ends with the acknowledgement; a ward's whole copy is kept in its
slot; a restore takes arena, step and commit from the generation when every check passes, and changes no context otherwise.
That a generation leaves as one output is the model's choice (log 40); what cannot be read: log 85. Parts of R293, R410, R412,
R414, R418, R419. -/
def Obligations.Generations : Prop :=
  (∀ (c : CtxId) (k : Capture) (s : State), k.slot < 2 → (s.ctx c.val).capture = some k →
    (s.clean (s.arenaRegion c.val) → ∃ t, exec (.captureComplete c) s = .next t ∧ (t.ctx c.val).capture = none ∧
      t.get (F.LK_SNAP_SLOT_STATE c.val k.slot) = 2 ∧ t.reg64 (R.TRAIN_STEP c.val) = s.reg64 (R.TRAIN_STEP c.val) ∧
      ∀ i < (s.generation c.val k.ftc).length,
        t.byte (slotAddr (s.image c.val) k.slot + i) = (s.generation c.val k.ftc).getD i 0) ∧
    ((∃ n ∈ s.hbmSectors (s.arenaRegion c.val), (s.sector n).poisoned = true) →
      ∃ t, exec (.captureComplete c) s = .next t ∧ (t.ctx c.val).capture = none ∧
      t.get (F.LK_SNAP_SLOT_STATE c.val k.slot) = 0) ∧
    (∃ t, exec (.captureGapExpiry c) s = .next t ∧ (t.ctx c.val).capture = none ∧
      t.get (F.LK_SNAP_SLOT_STATE c.val k.slot) = 0 ∧ t.reg64 (R.TRAIN_STEP c.val) = s.reg64 (R.TRAIN_STEP c.val))) ∧
  (∀ (c : CtxId) (j : Fin 2) (s : State),
    ((s.ctx c.val).image.isSome = true → (s.ctx c.val).exporting = none → s.exportSlot c.val = some j.val →
      (s.ctx c.val).buddyOk = true →
      (s.clean (slotRegion (s.image c.val) j.val) → ∃ t, exec (.snapshotExport c) s = .next t ∧
        t.out = .snapshotSend (s.buddy c.val) (s.slotGen c.val j.val) :: s.out ∧ (t.ctx c.val).exporting = some j.val ∧
        t.get (F.LK_SNAP_SLOT_STATE c.val j.val) = 3 ∧ SameBytes s t []) ∧
      ((∃ n ∈ s.hbmSectors (slotRegion (s.image c.val) j.val), (s.sector n).poisoned = true) →
        ∃ t, exec (.snapshotExport c) s = .next t ∧ t.out = s.out ∧ t.ctxs = s.ctxs)) ∧
    ((s.ctx c.val).exporting = some j.val → ∃ t, exec (.exportAck c) s = .next t ∧ (t.ctx c.val).exporting = none ∧
      t.get (F.LK_SNAP_SLOT_STATE c.val j.val) = 4) ∧
    (∀ bytes, (s.ctx c.val).image.isSome = true → (s.image c.val).snapBase.isSome = true →
      s.flag (F.LK_SNAP_WARD_VALID c.val) = true → bytes.length = slotBytes (s.image c.val) → bytes.length ≠ 1024 →
      s.wardKept c.val j.val = false → ∃ t, exec (.wardCopyReceived c j bytes) s = .next t ∧
      (t.get (F.LK_SNAP_WSLOT_STATE c.val j.val) = if digestOk bytes then (if genSealed bytes then 5 else 4) else 0) ∧
      (digestOk bytes = true → t.out = .snapshotAck j.val :: s.out ∧ ∀ i < bytes.length,
        t.byte (slotAddr (s.image c.val) (2 + j.val) + i) = bytes.getD i 0))) ∧
  (∀ (w : Word) (c : Nat) (s : State), s.lkServes = true → goBit w = true → s.lk.snapRun = none →
    F.LK_SNAP_CMD_CONTEXT.of w = c → F.LK_SNAP_CMD_CMD.of w = 3 → (s.ctx c).image.isSome = true →
    (∀ g, s.flag F.LK_SNAP_RESTORE_SRC_REMOTE = true → s.working.contains c = false →
      (genSealed g = true → s.clean [s.certRegion]) →
      (s.restoreCheck c g true true = 0 → ∃ t, exec (.restore w (some g)) s = .next t ∧ t.get F.LK_SNAP_RESULT_CODE = 0 ∧
        t.reg64 (R.TRAIN_STEP c) = BitVec.ofNat 64 (genNum g 8 8) ∧
        t.reg64 (R.TRAIN_COMMIT c) = BitVec.ofNat 64 (genNum g 16 8) ∧ t.flag (F.LK_SNAP_VERIFY_RESTORED c) = true ∧
        ∀ x, (s.image c).arena = some x → ∀ i < (genSection g 1).length, t.byte (x.1 + i) = (genSection g 1).getD i 0) ∧
      (s.restoreCheck c g true true ≠ 0 → ∃ t, exec (.restore w (some g)) s = .next t ∧
        t.get F.LK_SNAP_RESULT_CODE = s.restoreCheck c g true true ∧ t.ctxs = s.ctxs ∧ SameBytes s t [])) ∧
    (s.flag F.LK_SNAP_RESTORE_SRC_REMOTE = true → s.working.contains c = false → ∃ t, exec (.restore w none) s = .next t ∧
      t.flag F.LK_SNAP_RESULT_BUSY = true ∧ t.snapIn 3 = some c) ∧
    (s.flag F.LK_SNAP_RESTORE_SRC_REMOTE = false → (s.image c).snapBase.isSome = true →
      s.clean (s.certRegion :: slotRegion (s.image c) (s.get F.LK_SNAP_RESTORE_SRC_SLOT)) →
      ∃ t, exec (.restore w none) s = .next t ∧ t.flag F.LK_SNAP_RESULT_BUSY = false ∧ t.get F.LK_SNAP_RESULT_CODE =
        s.restoreCheck c (s.slotGen c (s.get F.LK_SNAP_RESTORE_SRC_SLOT)) true true)) ∧
  (∀ (c : CtxId) (s : State), s.lk.snapRun = some ⟨3, c⟩ → ∃ t, exec .restoreSourceTimeout s = .next t ∧
    t.flag F.LK_SNAP_RESULT_BUSY = false ∧ t.get F.LK_SNAP_RESULT_CODE = 0x0A ∧ SameBytes s t [] ∧ t.ctxs = s.ctxs)

/-! ## Health, and resets within the device -/

/-- A lockstep pair that mismatches is halted, a supervisor pair with device recovery while the other is in service. A UCIe
link that recovers is counted, one that does not has recovery ordered. The Watchtower's risk is the highest level of its
inputs, and each input's level at least what its measure meets; measures keep the last ten windows of one second. When level 3
has held for the grace time recovery is ordered. How long a level lasts is the model's reading (log 57). Parts of R358, R370,
R371, R373. -/
def Obligations.WatchtowerAndLockstep : Prop :=
  (∀ (p : Fin 24) (s : State),
    ((s.get F.HEALTH_LOCKSTEP_OUT_MAP).testBit p.val = true → exec (.lockstepMismatch p) s = .next s) ∧
    ((s.get F.HEALTH_LOCKSTEP_OUT_MAP).testBit p.val = false → ∃ t, exec (.lockstepMismatch p) s = .next t ∧
      t.get F.HEALTH_LOCKSTEP_OUT_MAP = s.get F.HEALTH_LOCKSTEP_OUT_MAP ||| 2 ^ p.val ∧
      CountedOnce s t R.HEALTH_LOCKSTEP_MISMATCH ∧ (2 ≤ p.val → t.lk.reset = s.lk.reset ∧ SameBytes s t []) ∧
      (p.val < 2 → (s.get F.HEALTH_LOCKSTEP_OUT_MAP).testBit (1 - p.val) = false →
        t.lk.reset.any (fun r => r.recovery) = true) ∧
      (p.val < 2 → (s.get F.HEALTH_LOCKSTEP_OUT_MAP).testBit (1 - p.val) = true → t.lk.heartbeatStopped = true))) ∧
  (∀ (l : Byte) (s : State),
    (∃ t, exec (.ucieLinkRecovery l true) s = .next t ∧ SameRegs s t [] ∧ SameBytes s t [] ∧ t.lk.reset = s.lk.reset ∧
      t.per10s 11 = s.per10s 11 + 1) ∧
    (s.supervised = true → ∃ t, exec (.ucieLinkRecovery l false) s = .next t ∧
      t.lk.reset.any (fun r => r.recovery) = true)) ∧
  (∀ s : State, s.flag F.HEALTH_CTL_AUTO_RECOVER = false → ∃ t, exec .watchtowerEval s = .next t ∧ SameBytes s t [] ∧
    (∀ i : Fin 17, t.get (F.HEALTH_INPUT_LEVEL i.val) ≤ t.get F.HEALTH_RISK_LEVEL) ∧
    (∃ i : Fin 17, t.get F.HEALTH_RISK_LEVEL = t.get (F.HEALTH_INPUT_LEVEL i.val)) ∧
    ∀ i : Fin 17, ∀ l : Fin 3, s.meets i.val (l.val + 1) = true → l.val + 1 ≤ t.get (F.HEALTH_INPUT_LEVEL i.val)) ∧
  (∀ s : State, ∃ t, exec .watchtowerWindowAdvance s = .next t ∧ t.regs = s.regs ∧ ∀ i w, s.health.windows.lookup i = some w →
    w.now + (w.past.take 8).sum ≠ 0 → t.per10s i = w.now + (w.past.take 8).sum) ∧
  ∀ s : State, s.flag F.HEALTH_CTL_AUTO_RECOVER = true → s.get F.HEALTH_RISK_LEVEL = 3 →
    (s.get F.HEALTH_CTL_GRACE_MS ≤ s.health.level3Ms → s.supervised = true → ∃ t, exec .graceExpiry s = .next t ∧
      t.health.level3Ms = 0 ∧ t.lk.reset.any (fun r => r.recovery) = true) ∧
    (s.health.level3Ms < s.get F.HEALTH_CTL_GRACE_MS → exec .graceExpiry s = .next s)

/-- Resets begin. A compute reset or a device recovery ordered while none is in progress stops every plan, ends every step
under way and tells the host; a teardown stops its context, or is refused for one that is empty. The watchdog declares a hang
once a condition has held longer than its period; a compute reset that takes too long gives way to a recovery, and a recovery
that takes too long stops the heartbeat. That a teardown sets no BUSY is the model's reading (log 61). Parts of R384 to R386,
R390, R392, R393, R397, R400. -/
def Obligations.ResetsBegin : Prop :=
  (∀ (w : Word) (s : State), s.lkServes = true → goBit w = true → s.supervised = true → s.get F.BOOT_STATUS_STATE = 3 →
    s.lk.reset = none →
    (∀ c ∈ [Instr.computeReset w, .deviceRecovery w],
      (c = .computeReset w ∧ F.LK_RESET_CMD_KIND.of w = 1) ∨ (c = .deviceRecovery w ∧ F.LK_RESET_CMD_KIND.of w = 2) →
      ∃ t, exec c s = .next t ∧ t.lk.reset = some ⟨F.LK_RESET_CMD_KIND.of w == 2, false, false⟩ ∧
        t.flag F.LK_RESET_STATUS_BUSY = true ∧ t.get F.LK_RESET_STATUS_KIND = F.LK_RESET_CMD_KIND.of w ∧
        (∀ x ∈ s.working, (t.ctx x).stepAborted = true) ∧ (∀ x < 8, (t.ctx x).run = none ∧ (t.ctx x).sq = [])) ∧
    (F.LK_RESET_CMD_KIND.of w = 3 →
      (s.ctxState (F.LK_RESET_CMD_CONTEXT.of w) = ctxEmpty → ∃ t, exec (.contextTeardown w) s = .next t ∧
        t.get F.LK_RESET_STATUS_RESULT = 4 ∧ t.ctxs = s.ctxs ∧ SameRegs s t [R.LK_RESET_STATUS]) ∧
      (s.ctxState (F.LK_RESET_CMD_CONTEXT.of w) ≠ ctxEmpty → s.ctxState (F.LK_RESET_CMD_CONTEXT.of w) ≠ ctxTeardown →
        ∃ t, exec (.contextTeardown w) s = .next t ∧ t.ctxState (F.LK_RESET_CMD_CONTEXT.of w) = ctxTeardown ∧
        (t.ctx (F.LK_RESET_CMD_CONTEXT.of w)).run = none ∧ t.lk.reset = none) ∧
      (s.ctxState (F.LK_RESET_CMD_CONTEXT.of w) = ctxTeardown → ∃ t, exec (.contextTeardown w) s = .next t ∧
        t.get F.LK_RESET_STATUS_RESULT = 5 ∧ t.ctxs = s.ctxs ∧ SameRegs s t [R.LK_RESET_STATUS]))) ∧
  ∀ s : State,
    (s.flag F.LK_WD_CTL_EN = false → ∃ t, exec .watchdogSample s = .next t ∧ t.lk.watchdog.held = [] ∧ t.regs = s.regs) ∧
    (s.flag F.LK_WD_CTL_EN = true → s.resident ≠ [] → s.flag F.LK_RESET_STATUS_BUSY = false →
      ((∀ k ∈ [1, 2, 3, 4, 5], s.condition k = false) → ∃ t, exec .watchdogSample s = .next t ∧ t.lk.watchdog.held = [] ∧
        t.lk.watchdog.okIndex = s.reg64 R.LOCK_INDEX ∧ t.regs = s.regs) ∧
      ((∃ k ∈ [1, 2, 3, 4, 5], s.condition k = true ∧
          ∃ ms, s.lk.watchdog.held.lookup k = some ms ∧ s.get F.LK_WD_CTL_PERIOD_MS < ms + 100) →
        ∃ t, exec .watchdogSample s = .next t ∧ t.flag F.LK_WD_STATUS_HANG = true)) ∧
    (∀ r, s.lk.reset = some r →
      (r.recovery = false → s.supervised = true → ∃ t, exec .computeResetTimeout s = .next t ∧
        t.lk.reset.any (fun r => r.recovery) = true) ∧
      (r.recovery = true → exec .computeResetTimeout s = .next s) ∧
      (r.recovery = true → ∃ t, exec .recoveryTimeout s = .next t ∧ t.lk.heartbeatStopped = true ∧ t.lk.reset = some r ∧
        SameRegs s t []))

/-- Resets end. When the drain ends every context's step is captured; the units are then empty and BUSY is cleared. A recovery
that fails takes the device out of service. A teardown ends with its context empty. Freeing a quarantine entry lets images load
again. What each reset clears where the tables do not say: logs 61 and 62. Parts of R391 to R394, R396, R398, R399, R403. -/
def Obligations.ResetsEnd : Prop :=
  (∀ (now : DWord) (r : ResetRun) (s : State), s.lk.reset = some r → r.drained = false →
    ∃ t, exec (.resetDrainEnd now) s = .next t ∧ t.lk.reset = some { r with drained := true } ∧
      t.flag F.LOCK_STATUS_DRAINING = false ∧ t.lock.inFlight = [] ∧ (∀ b ∈ t.lock.active, b.open_ = false) ∧
      (r.recovery = true → t.lock.resetHold = true ∧ t.reg64 R.LK_LAST_INDEX = s.reg64 R.LOCK_INDEX ∧
        t.reg64 R.LK_LAST_FTC = (s.at_ now.toNat).reg64 R.LOCK_FTC ∧ t.reg64 R.LK_LAST_NEXT = s.reg64 R.LOCK_NEXT_TICK ∧
        ∀ p < 32, t.isUp p = false) ∧
      ∀ c : CtxId, t.flag (F.TRAIN_ARENA_PENDING c.val) = false ∧
        (s.flag (F.TRAIN_ARENA_PENDING c.val) = true → (t.ctx c.val).boundary = none) ∧ t.reg64 (R.LK_LAST_STEP c.val) = t.reg64 (R.TRAIN_STEP c.val) ∧ t.reg64 (R.TRAIN_STEP c.val) =
        s.reg64 (R.TRAIN_STEP c.val) + (if s.flag (F.TRAIN_ARENA_PENDING c.val) then 1 else 0)) ∧
  (∀ (ms : Word) (r : ResetRun) (s : State), s.lk.reset = some r → r.recovery = false → r.drained = true →
    ∃ t, exec (.computeResetDone ms) s = .next t ∧ t.lk.reset = none ∧ t.flag F.LK_RESET_STATUS_BUSY = false ∧
      t.get F.LK_RESET_STATUS_RESULT = 0 ∧ t.reg R.LK_RESET_LAST_MS = ms ∧ t.lock.active = [] ∧ t.lanes = [] ∧ t.array = {}) ∧
  (∀ (r : RecoveryReport) (run : ResetRun) (s : State), s.lk.reset = some run → run.recovery = true → run.drained = true →
    ∃ t, exec (.deviceRecoveryDone r) s = .next t ∧ t.lk.reset = none ∧ t.flag F.LK_RESET_STATUS_BUSY = false ∧
      ((s.resumeDies r).recoveryFails r = true → t.get F.LK_RESET_STATUS_RESULT = 3 ∧ t.get F.BOOT_STATUS_STATE = 5 ∧
        t.lk.heartbeatStopped = true) ∧
      ((s.resumeDies r).recoveryFails r = false → t.get F.LK_RESET_STATUS_RESULT = 0 ∧ t.lock.active = [] ∧
        (t.flag F.LOCK_CTL_TICK_MASTER = true ∨ t.parentPort.isSome = true → t.flag F.LOCK_STATUS_FTC_LOCKED = true) ∧
        t.reg64 R.LOCK_FTC = BitVec.ofNat 64 (((s.resumeDies r).reg64 R.LK_LAST_FTC).toNat + r.elapsedNs))) ∧
  (∀ (c : CtxId) (us : Word) (s : State), s.ctxState c.val = ctxTeardown → s.lk.reset = none →
    ∃ t, exec (.teardownDrainEnd c us) s = .next t ∧ t.ctxState c.val = ctxEmpty ∧ t.reg R.LK_TEARDOWN_US = us ∧
      t.get F.LK_RESET_STATUS_RESULT = 0 ∧ (t.ctx c.val).image = none ∧ (t.ctx c.val).run = none ∧
      (∀ d < 8, d ≠ c.val → (t.ctx d).run = (s.ctx d).run)) ∧
  (∀ (w : Word) (s : State), s.lkServes = true → ∃ t, exec (.quarantineFree w) s = .next t ∧
    t.reg R.LK_QUAR_VALID = regAfterWrite R.LK_QUAR_VALID (s.reg R.LK_QUAR_VALID) w ∧ SameRegs s t [R.LK_QUAR_VALID] ∧
    (t.get F.LK_QUAR_VALID_MAP ≠ 0xFFFF → t.lk.quarantineFull = false))

/-! ## Flash and power -/

/-- The flash commands. A GO while none is in progress starts the command with the code that its checks give and what
BOOT_STAGE holds; it ends with that code. One refused leaves the flash as it was. FW_WRITE puts the staged bytes into the
target partition, FW_COMMIT makes that partition NEW, FW_CONFIRM makes a running TRIAL partition GOOD, SITE_WRITE writes the
older site copy, ENROL and RELEASE set and clear the owner. That the checks stand at the start and the effects at the end is
the model's reading (log 50). Parts of R433, R434, R439 to R442, Table 17-7. -/
def Obligations.FlashCommands : Prop :=
  (∀ (w : Word) (n : DWord) (s : State), s.lkServes = true → goBit w = true →
    ∀ c ∈ [Instr.fwWrite w, .fwCommit w, .fwConfirm w, .siteWrite w, .enrol w, .release w n],
    (s.lk.flashRun.isSome = true → exec c s = .next s) ∧ (s.lk.flashRun = none → ∃ t r, exec c s = .next t ∧
      t.flag F.BOOT_CMD_RESULT_BUSY = true ∧ t.lk.flashRun = some r ∧ t.lk.flash = s.lk.flash ∧
      SameRegs s t [R.BOOT_CMD_RESULT] ∧ r.cmd = F.BOOT_CMD_CMD.of w ∧ r.offset = (s.reg R.BOOT_CMD_OFFSET).toNat ∧
      r.bytes = s.staged (s.reg R.BOOT_CMD_LEN).toNat ∧ r.code = s.flashCheck r.cmd r.offset r.bytes ∧
      (c = .release w n → r.nonce = n))) ∧
  ∀ (r : FlashRun) (s : State), s.lk.flashRun = some r → r.code < 256 → ∃ t, exec .flashCommandDone s = .next t ∧
    t.flag F.BOOT_CMD_RESULT_BUSY = false ∧ t.get F.BOOT_CMD_RESULT_CODE = r.code ∧ t.lk.flashRun = none ∧
    (r.cmd = 6 → t.reg64 R.BOOT_NONCE = r.nonce) ∧
    (r.code ≠ 0 → t.lk.flash = s.lk.flash ∧ t.lk.flashErased = s.lk.flashErased) ∧
    (r.code = 0 → r.cmd = 1 → ∀ k < r.bytes.length,
      t.flashByte (partBase (fwPart s.fwTarget) + r.offset + k) = r.bytes.getD k 0) ∧
    (r.code = 0 → r.cmd = 2 → t.fwState s.fwTarget = 1) ∧
    (∀ b, r.code = 0 → r.cmd = 3 → s.lk.fwRunning = some b → s.fwState b = 2 →
      t.fwState b = 3 ∧ t.flag F.BOOT_STATUS_TRIAL = false) ∧
    (r.code = 0 → r.cmd = 4 → ∀ k < r.bytes.length, t.flashByte (partBase (2 + s.siteTarget) + k) = r.bytes.getD k 0) ∧
    (r.code = 0 → r.cmd = 5 → t.flag F.BOOT_STATUS_OWNED = true) ∧
    (r.code = 0 → r.cmd = 6 → t.flag F.BOOT_STATUS_OWNED = false ∧ t.flashByte (partBase 4) = 0xFF)

/-- Power. With the 48 V feed the standby rail starts; loss of power good, an undervoltage shutdown and Off leave the
Lockkeeper unpowered with nothing but flash and the MODULE block kept; PERST_N is a module reset, which keeps the recorder;
loss of the feed keeps flash alone. Boot ends in service, waiting for an owner, or stopped. Standby and Off are entered only in
service with no context resident, and Standby is left with the fabric time carried on. A hot reset and a power-state write
change nothing that the model holds. What Standby keeps is the model's reading (log 52), and that configuration space is left
out its choice (log 55). Parts of R389, R436, R437, R447, R448, R457, R477, R486. -/
def Obligations.PowerStates : Prop :=
  (∀ s : State,
    (s.module.power = .none → exec .coldPowerOn s = .next { s with module := { s.module with power := .standby } }) ∧
    (s.module.power ≠ .none → exec .coldPowerOn s = .next s) ∧
    (s.module.power ≠ .none → ∃ t, exec .pwrGoodRise s = .next t ∧ t.flag F.MODULE_STATUS_PWR_GOOD = true ∧
      SameRegs s t [R.MODULE_STATUS] ∧ t.module = s.module) ∧
    (s.module.power ≠ .none → ∃ t, exec .pwrGoodFall s = .next t ∧ t.flag F.MODULE_STATUS_PWR_GOOD = false ∧
      t.lkPowered = false ∧ t.health.records = [] ∧ t.ctxs = [] ∧ t.lock = {} ∧ t.lk.flash = s.tearFlash.lk.flash) ∧
    (∃ t, exec .undervoltageShutdown s = .next t ∧ t.lkPowered = false ∧ t.health.records = [] ∧ t.ctxs = [] ∧ t.lock = {} ∧
      t.lk.flash = s.tearFlash.lk.flash ∧ (∀ i < 15, t.sense i = s.sense i)) ∧
    (∃ t, exec .lossOf48vFeed s = .next t ∧ t.module.power = .none ∧ t.regs = [] ∧ t.health.records = [] ∧ t.ctxs = [] ∧
      t.lk.flash = s.tearFlash.lk.flash) ∧
    (s.flag F.MODULE_STATUS_PWR_GOOD = false →
      exec .perstNAssert s = .next { s with module := { s.module with perstN := false } }) ∧
    (s.flag F.MODULE_STATUS_PWR_GOOD = true → ∃ t, exec .perstNAssert s = .next t ∧ t.module.perstN = false ∧
      t.health.records.map (fun r => r.bits) = s.health.records.map (fun r => r.bits) ∧ t.ctxs = [] ∧ t.lock = {} ∧
      t.flag F.MODULE_STATUS_TRIPPED = false) ∧
    exec .hotReset s = .next s ∧ ∀ w, exec (.pmcsrWrite w) s = .next s) ∧
  (∀ (r : BootReport) (s : State),
    (s.mayBoot = false → exec (.boot r) s = .next s) ∧
    (s.mayBoot = true → ∃ t, exec (.boot r) s = .next t ∧ t.module.power = .on ∧ t.module.perstN = true ∧
      (t.get F.BOOT_STATUS_STATE = 3 ∨ t.get F.BOOT_STATUS_STATE = 4 ∨ t.get F.BOOT_STATUS_STATE = 5) ∧
      (t.get F.BOOT_STATUS_STATE = 3 → t.reg64 R.LOCK_FTC = r.ftc ∧ t.get F.BOOT_STATUS_STEP = 12 ∧
        (t.flag F.LOCK_CTL_TICK_MASTER = true ∨ t.parentPort.isSome = true → t.flag F.LOCK_STATUS_FTC_LOCKED = true)))) ∧
  (∀ s : State, s.lkServes = true →
    (s.get F.BOOT_STATUS_STATE = 3 → s.anyOccupied = false → s.flag F.LK_RESET_STATUS_BUSY = false →
      (∃ t, exec .enterStandby s = .next t ∧ t.get F.BOOT_STATUS_STATE = 6 ∧ t.get F.BOOT_PWR_RESULT = 0 ∧ t.lanes = [] ∧
        t.array = {} ∧ t.reg64 R.LK_LAST_FTC = s.reg64 R.LOCK_FTC ∧ SameBytes s t []) ∧
      (s.lk.flashRun = none → ∃ t, exec .enterOff s = .next t ∧ t.module.power = .off ∧ t.lock = {})) ∧
    (s.get F.BOOT_STATUS_STATE = 3 → s.anyOccupied = true → ∀ c ∈ [Instr.enterStandby, .enterOff],
      ∃ t, exec c s = .next t ∧ t.get F.BOOT_PWR_RESULT = 1 ∧ t.ctxs = s.ctxs ∧ SameRegs s t [R.BOOT_PWR]) ∧
    (∃ t, exec .leaveStandby s = .next t ∧ t.get F.BOOT_PWR_REQ = 0 ∧ SameRegs s t [R.BOOT_PWR])) ∧
  (∀ (r : RecoveryReport) (s : State), s.get F.BOOT_STATUS_STATE = 6 → s.get F.BOOT_PWR_REQ = 0 →
    ((s.resumeDies r).recoveryFails r = true → ∃ t, exec (.leaveStandbyDone r) s = .next t ∧ t.get F.BOOT_STATUS_STATE = 5) ∧
    ((s.resumeDies r).recoveryFails r = false → ∃ t, exec (.leaveStandbyDone r) s = .next t ∧ t.get F.BOOT_STATUS_STATE = 3 ∧
      t.reg64 R.LOCK_FTC = BitVec.ofNat 64 (((s.resumeDies r).reg64 R.LK_LAST_FTC).toNat + r.elapsedNs)))

/-! ## Host -/

/-- The DOE mailbox answers every request, with Unspecified to SPDM while the security pair is halted, and changes nothing else
(the contents of the answers: log 46). Parts of R444, R445, R454. -/
def Obligations.DoeAnswers : Prop :=
  ∀ (req : List Byte) (s : State), s.lkServes = true →
    exec (.doeDiscovery req) s = .next (s.emit (.doeReply .protocols)) ∧
    (s.flag F.LK_STATUS_SEC_OUT = true → ∀ c ∈ [Instr.getVersion req, .getCapabilities req, .negotiateAlgorithms req,
      .getDigests req, .getCertificate req, .challenge req, .getMeasurements req, .spdmUnsupportedRequest req],
      exec c s = .next (s.emit (.doeReply .unspecified))) ∧
    (s.flag F.LK_STATUS_SEC_OUT = false →
      exec (.getVersion req) s = .next (s.emit (.doeReply .version)) ∧
      exec (.getCapabilities req) s = .next (s.emit (.doeReply .capabilities)) ∧
      (offersAlgorithms req = true → exec (.negotiateAlgorithms req) s = .next (s.emit (.doeReply .algorithms))) ∧
      (offersAlgorithms req = false → exec (.negotiateAlgorithms req) s = .next (s.emit (.doeReply .unsupportedRequest))) ∧
      exec (.getDigests req) s = .next (s.emit (.doeReply (.digests (sha512 s.chain)))) ∧
      (reqByte req 2 = 0 → exec (.challenge req) s =
        .next (s.emit (.doeReply (.challengeAuth (sha512 s.chain) (spdmSign req (sha512 s.chain)))))) ∧
      (reqByte req 2 % 16 = 0 → exec (.getCertificate req) s = .next (s.emit (.doeReply (.certificate
        ((s.chain.drop (hdNum req 4 2)).take (hdNum req 6 2)) (s.chain.length - hdNum req 4 2 - hdNum req 6 2))))) ∧
      (reqByte req 2 ≠ 0 → exec (.challenge req) s = .next (s.emit (.doeReply .unsupportedRequest))) ∧
      (reqByte req 2 % 16 ≠ 0 → exec (.getCertificate req) s = .next (s.emit (.doeReply .unsupportedRequest))) ∧
      (reqByte req 3 = 0 → exec (.getMeasurements req) s =
        .next (s.emit (.doeReply (.measurementCount s.lk.measurements.length)))) ∧
      (∀ k d, reqByte req 3 = k → k ≠ 0 → k ≠ 0xFF → s.lk.measurements.filter (fun b => b.1 == k) = [(k, d)] →
        ∃ sig, exec (.getMeasurements req) s = .next (s.emit (.doeReply (.measurements [(k, d)] sig))) ∧
          sig.isSome = (reqByte req 2).testBit 0) ∧
      exec (.spdmUnsupportedRequest req) s = .next (s.emit (.doeReply .unsupportedRequest)))

/-- The endpoint. The heartbeat counts while the host driver runs; a vector's causes leave as one message, or set its pending
bit while it is masked. BAR2 reads and writes program memory and nothing else; a read that meets an uncorrectable sector is
marked so, one that needs the channel that retrains is held (log 77), and where the dies do not serve a read is answered by
Completer Abort and a write discarded; the bytes of a write that running barges use are not stated. A doorbell takes entries up
to the tail; one past the ring changes no register. A head doorbell moves the CQ's head. A queue's size is written while its
context is EMPTY, which empties the queue: that it empties it is the model's reading (log 53). Parts of R295, R395, R458 to
R462, R466, R467, R470. -/
def Obligations.EndpointAccesses : Prop :=
  (∀ s : State,
    (s.lkPowered = true → s.lk.heartbeatStopped = false → 6 ≤ s.get F.BOOT_STATUS_STEP → ∃ t, exec .heartbeat s = .next t ∧
      t.reg R.LK_HEARTBEAT = s.reg R.LK_HEARTBEAT + 1 ∧ SameRegs s t [R.LK_HEARTBEAT]) ∧
    (s.lk.heartbeatStopped = true → exec .heartbeat s = .next s) ∧
    (∀ v : Fin 64, s.lkServes = true → s.lk.msixPending.contains v.val = true → ∃ t, exec (.msixMessage v) s = .next t ∧
      t.lk.msixPending.contains v.val = false ∧
      (s.flag (F.MSIX_CTL_MASK v.val) = false → t.out = .msix v.val :: s.out ∧ t.regs = s.regs) ∧
      (s.flag (F.MSIX_CTL_MASK v.val) = true → t.out = s.out ∧
        t.reg64 R.MSIX_PBA = s.reg64 R.MSIX_PBA ||| BitVec.twoPow 64 v.val))) ∧
  (∀ (x n : Nat) (s : State), s.lkServes = true →
    (s.diesServe = false → exec (.bar2Read x n) s = .next (s.emit .completerAbort)) ∧
    (s.diesServe = true → s.holdsBack (.read (s.bar2 x) n) = true →
      exec (.bar2Read x n) s = .next { s with mem := { s.mem with held := s.mem.held ++ [.read (s.bar2 x) n] } }) ∧
    (s.diesServe = true → s.holdsBack (.read (s.bar2 x) n) = false →
      (s.inHbm (s.bar2 x) n = true → s.clean [(s.bar2 x, n)] → ∃ t, exec (.bar2Read x n) s = .next t ∧
        t.out = .bar2Reply (s.bytes (s.bar2 x) n) false :: s.out ∧ SameBytes s t []) ∧
      (s.inHbm (s.bar2 x) n = true → (∃ k ∈ s.hbmSectors [(s.bar2 x, n)], (s.sector k).poisoned = true) →
        ∃ t bs, exec (.bar2Read x n) s = .next t ∧ t.out = .bar2Reply bs true :: s.out ∧ t.ctxs = s.ctxs) ∧
      (s.inHbm (s.bar2 x) n = false → exec (.bar2Read x n) s = .next (s.emit .completerAbort)))) ∧
  (∀ (x : Nat) (bs : List Byte) (s : State), s.lkServes = true →
    (s.diesServe = false → exec (.bar2Write x bs) s = .next s) ∧
    (s.diesServe = true → s.holdsBack (.write (s.bar2 x) bs) = false →
      (s.inHbm (s.bar2 x) bs.length = true → ∃ t, exec (.bar2Write x bs) s = .next t ∧
        (∀ k < bs.length, (∀ r ∈ s.contested (s.bar2 x) bs.length, ¬ (r.1 ≤ s.bar2 x + k ∧ s.bar2 x + k < r.1 + r.2)) →
          t.byte (s.bar2 x + k) = bs.getD k 0) ∧
        (s.clean [(s.bar2 x, bs.length)] → SameBytes s t [(s.bar2 x, bs.length)])) ∧
      (s.inHbm (s.bar2 x) bs.length = false → exec (.bar2Write x bs) s = .next (s.count R.LK_BAR2_REFUSED 1)))) ∧
  (∀ (c : CtxId) (w : Word) (es : List (BitVec 512)) (s : State), s.lkServes = true →
    (s.get (F.LK_SQ_SIZE_ENTRIES c.val) ≤ (F.LK_SQ_TAIL_TAIL c.val).of w → ∃ t, exec (.sqDoorbell c w es) s = .next t ∧
      SameRegs s t [] ∧ t.ctxs = s.ctxs) ∧
    ((F.LK_SQ_TAIL_TAIL c.val).of w < s.get (F.LK_SQ_SIZE_ENTRIES c.val) → ∃ t, exec (.sqDoorbell c w es) s = .next t ∧
      t.get (F.LK_SQ_TAIL_TAIL c.val) = (F.LK_SQ_TAIL_TAIL c.val).of w ∧
      (s.flag F.LK_RESET_STATUS_BUSY = false → (s.ctx c.val).sqWaiting = [] →
        s.get (F.LK_SQ_HEAD_HEAD c.val) < s.get (F.LK_SQ_SIZE_ENTRIES c.val) →
        t.get (F.LK_SQ_HEAD_HEAD c.val) = (F.LK_SQ_TAIL_TAIL c.val).of w)) ∧
    (∃ t, exec (.cqHeadDoorbell c w) s = .next t ∧
      t.reg (R.LK_CQ_HEAD c.val) = regAfterWrite (R.LK_CQ_HEAD c.val) (s.reg (R.LK_CQ_HEAD c.val)) w ∧
      ((s.ctx c.val).cqHeld = [] → SameRegs s t [R.LK_CQ_HEAD c.val] ∧ t.out = s.out))) ∧
  ∀ (c : CtxId) (q : QueueSetting) (w : Word) (s : State), s.lkServes = true →
    (s.occupied c.val = true → exec (.queueConfigWrite c q w) s = .next s) ∧
    (s.occupied c.val = false → q = .sqSize → ∃ t, exec (.queueConfigWrite c q w) s = .next t ∧
      t.reg (R.LK_SQ_SIZE c.val) = regAfterWrite (R.LK_SQ_SIZE c.val) (s.reg (R.LK_SQ_SIZE c.val)) w ∧
      t.get (F.LK_SQ_HEAD_HEAD c.val) = 0 ∧ t.get (F.LK_SQ_TAIL_TAIL c.val) = 0 ∧ (t.ctx c.val).sq = [])

/-- The operations of a submission queue, carried out at its front: LOAD and LOAD_HBM where the context is EMPTY, START where
it is LOADED, EVAL, PAUSE, FENCE; each that ends leaves the queue and counts in LK_PROGRESS. An image that passes every check
is the context's; one that does not leaves it EMPTY with the code. That an EVAL ends at its acceptance is the model's reading
(log 53). Parts of R279, R463, R465, R468, Table 18-6. -/
def Obligations.QueueOperations : Prop :=
  (∀ (c : CtxId) (e : BitVec 512) (im : Image) (s : State), (s.ctx c.val).sq = [e] → entryValid e = true →
    (sqOp e = 1 → (s.ctx c.val).load = none → s.mayLoad c.val = true → ∃ t, exec (.load c) s = .next t ∧
      t.ctxState c.val = ctxLoading ∧ t.out = .dmaRead (sqAddr e) (sqLen e) :: s.out ∧
      (t.ctx c.val).load = some ⟨sqTag e, sqAddr e, sqLen e, false⟩) ∧
    (sqOp e = 1 → (s.ctx c.val).load = none → s.mayLoad c.val = false → ∃ t, exec (.load c) s = .next t ∧
      (t.ctx c.val).sq = [] ∧ t.ctxState c.val = s.ctxState c.val ∧ t.reg R.LK_PROGRESS = s.reg R.LK_PROGRESS + 1) ∧
    (sqOp e = 2 → s.mayLoad c.val = true → s.inHbm (sqAddr e) (sqLen e) = true →
      s.clean [(sqAddr e, sqLen e)] →
      ((s.startLoad c.val true e).touch rdFirmware [(sqAddr e, sqLen e)]).1.loadRefusal c.val
        { im with raw := s.bytes (sqAddr e) (sqLen e) } = none →
      ∃ t, exec (.loadHbm c im) s = .next t ∧ t.ctxState c.val = ctxLoaded ∧ (t.ctx c.val).plan = im.plan ∧
        t.get (F.LK_LOAD_RESULT_CODE c.val) = 0) ∧
    (sqOp e = 3 → s.ctxState c.val = ctxLoaded → (s.image c.val).plan ≠ [] → s.index + 2 ≤ sqArg e →
      ∃ t, exec (.start c) s = .next t ∧ t.ctxState c.val = ctxRunning ∧ (t.ctx c.val).run = some ⟨.normal, 0, sqArg e⟩ ∧
        (t.ctx c.val).sq = [] ∧ t.reg R.LK_PROGRESS = s.reg R.LK_PROGRESS + 1) ∧
    (sqOp e = 4 → sqArg e < (s.image c.val).evals.length → s.ctxState c.val = ctxLoaded → ∃ t, exec (.eval c) s = .next t ∧
      t.ctxState c.val = ctxRunning ∧ (t.ctx c.val).run =
        some ⟨.eval (sqArg e), 0, max (s.index + 1) (s.ctx c.val).earliest⟩ ∧ (t.ctx c.val).sq = []) ∧
    (sqOp e = 4 → sqArg e < (s.image c.val).evals.length → s.ctxState c.val = ctxRunning → ∃ t, exec (.eval c) s = .next t ∧
      (t.ctx c.val).evalNext = (s.ctx c.val).evalNext ++ [sqArg e] ∧ (t.ctx c.val).run = (s.ctx c.val).run) ∧
    (sqOp e = 5 → s.ctxState c.val = ctxRunning → ∃ t, exec (.pause c) s = .next t ∧ (t.ctx c.val).pauseNext = true ∧
      (t.ctx c.val).sq = [] ∧ (t.ctx c.val).run = (s.ctx c.val).run) ∧
    (sqOp e = 6 → ∃ t, exec (.sqFence c) s = .next t ∧ (t.ctx c.val).sq = [] ∧
      t.reg R.LK_PROGRESS = s.reg R.LK_PROGRESS + 1 ∧ (t.ctx c.val).run = (s.ctx c.val).run)) ∧
  ∀ (c : CtxId) (l : LoadReq) (im : Image) (s : State), (s.ctx c.val).load = some l → s.ctxState c.val = ctxLoading →
    (∀ code detail, (s.writeAt s.cap (im.raw.take (2 ^ 32))).loadRefusal c.val im = some (code, detail) →
      ∃ t, exec (.imageFetched c im) s = .next t ∧ t.ctxState c.val = ctxEmpty ∧ (t.ctx c.val).load = none ∧
        t.get (F.LK_LOAD_RESULT_CODE c.val) = code % 256) ∧
    ((s.writeAt s.cap (im.raw.take (2 ^ 32))).loadRefusal c.val im = none → ∃ t, exec (.imageFetched c im) s = .next t ∧
      t.ctxState c.val = ctxLoaded ∧ (t.ctx c.val).image = some im ∧ (t.ctx c.val).plan = im.plan ∧
      t.reg64 (R.LK_IMAGE_ID c.val) = imIdent im ∧ t.reg64 (R.TRAIN_STEP c.val) = 0 ∧
      t.reg64 (R.TRAIN_COMMIT c.val) = BitVec.allOnes 64 ∧ t.get (F.LK_LOAD_RESULT_CODE c.val) = 0)

/-! ## The module -/

/-- The management controller. Power samples move the power step, die temperatures the thermal step; a die at 115 °C trips the
module. Sensors and alarms show, and the limit takes what lies in its range. The I3C target reads what it serves, and writes
nothing but the wake of MODULE_CTL and the recorder's selector. How alarms follow the samples is the model's reading (log 66).
Parts of R474 to R476, R480 to R485. -/
def Obligations.ModuleController : Prop :=
  (∀ (watts avg : Half) (s : State), s.module.power ≠ .none → ∃ t, exec (.powerSample watts avg) s = .next t ∧
    t.sense 2 = avg.toNat ∧
    (3400 < watts.toNat → s.module.powerStep < 2 → t.module.powerStep = 2) ∧
    (watts.toNat ≤ 3400 → s.get F.MODULE_PWR_LIMIT_WATTS < avg.toNat → s.module.powerStep < 2 → 9 ≤ s.module.sinceDown →
      t.module.powerStep = s.module.powerStep + 1) ∧
    (watts.toNat ≤ 3400 → 10 * avg.toNat < 9 * s.get F.MODULE_PWR_LIMIT_WATTS → 0 < s.module.powerStep →
      999 ≤ s.module.calm → t.module.powerStep = s.module.powerStep - 1) ∧
    (watts.toNat ≤ 3400 → avg.toNat ≤ s.get F.MODULE_PWR_LIMIT_WATTS → s.module.calm < 999 →
      t.module.powerStep = s.module.powerStep)) ∧
  (∀ (s : State), s.module.power ≠ .none →
    (∀ (d : DieId) (temp : Half), ∃ t, exec (.dieThermalSample d temp) s = .next t ∧
      t.thermalOf d.val = dieStep (s.thermalOf d.val) temp.toInt ∧ t.sense (5 + d.val) = temp.toNat) ∧
    (∀ (k : Fin 15) (v : Half), ∃ t, exec (.sensorSample k v) s = .next t ∧ t.sense k.val = v.toNat ∧
      (k.val = 14 → v = 1 → t.module.raised.contains .leak = true) ∧
      (k.val = 0 → v.toNat < 4200 → t.module.raised.contains .supply = true) ∧
      (k.val = 13 → 1100 ≤ v.toInt → t.module.raised.contains .thermal = true)) ∧
    (∃ t, exec .leakNLow s = .next t ∧ t.module.raised.contains .leak = true ∧ SameBytes s t []) ∧
    (∀ al, (s.alarmHolds al = true → exec (.alarmClear al) s = .next s) ∧
      (s.alarmHolds al = false → ∃ t, exec (.alarmClear al) s = .next t ∧ t.module.raised.contains al = false ∧
        SameRegs s t [R.MODULE_STATUS])) ∧
    (∀ a, ∃ t, exec (.i3cRegisterRead a) s = .next t ∧ t.regs = s.regs ∧
      t.out = .i3cReply (if s.i3cServes a then regReadValue a (s.reg a) else 0) :: s.out) ∧
    (∀ a, ∃ t, exec (.i3cDynamicAddress a) s = .next t ∧ t.module.dynamicAddress = some a ∧ t.regs = s.regs) ∧
    (∃ t, exec .disec s = .next t ∧ t.module.ibiEnabled = false ∧ t.regs = s.regs)) ∧
  (∀ (u : TripUnit) (temp : Half) (s : State),
    (1150 ≤ temp.toInt → s.module.power = .on → ∃ t, exec (.thermalTrip u temp) s = .next t ∧ t.module.power = .tripped ∧
      t.flag F.MODULE_STATUS_TRIPPED = true ∧ t.lanes = [] ∧ t.lock.active = []) ∧
    (temp.toInt < 1150 → exec (.thermalTrip u temp) s = .next s)) ∧
  ∀ (w : Word) (s : State),
    (s.lkServes = true → 1500 ≤ F.MODULE_PWR_LIMIT_WATTS.of w → F.MODULE_PWR_LIMIT_WATTS.of w ≤ 2800 →
      ∃ t, exec (.pwrLimitWrite w) s = .next t ∧ t.get F.MODULE_PWR_LIMIT_WATTS = F.MODULE_PWR_LIMIT_WATTS.of w ∧
        SameRegs s t [R.MODULE_PWR_LIMIT]) ∧
    ((F.MODULE_PWR_LIMIT_WATTS.of w < 1500 ∨ 2800 < F.MODULE_PWR_LIMIT_WATTS.of w) → exec (.pwrLimitWrite w) s = .next s) ∧
    (F.MODULE_CTL_WAKE.of w = 1 → s.module.power = .off → ∀ c ∈ [Instr.wake w, .i3cRegisterWrite R.MODULE_CTL w],
      exec c s = .next { s with module := { s.module with power := .standby } }) ∧
    (s.lkPowered = true → goBit w = true → s.lk.recorderRead = none → ∃ t, exec (.i3cRegisterWrite R.RECORDER_RD_SEL w) s = .next t ∧
      t.lk.recorderRead = some (F.RECORDER_RD_SEL_INDEX.of w) ∧ t.flag F.RECORDER_RD_STATUS_BUSY = true) ∧
    ∀ a, a ≠ R.MODULE_CTL → a ≠ R.RECORDER_RD_SEL → exec (.i3cRegisterWrite a w) s = .next s
end

