-- ==== Sys2Proof/Laws/Exec.lean ====
section
/-! SUPPORT. Each arm of `exec`, so that no proof unfolds the whole match. -/

namespace Sys2Proof.Machine

variable (s : State)

theorem exec_lockTick : exec (.lockTick) s = execLockTick s := rfl
theorem exec_workWindowOpen : exec (.workWindowOpen) s = execWorkWindowOpen s := rfl
theorem exec_projectEndEvaluation (now : DWord) : exec (.projectEndEvaluation now) s = execProjectEndEvaluation now s := rfl
theorem exec_workWindowClose : exec (.workWindowClose) s = execWorkWindowClose s := rfl
theorem exec_drainEnd (now : DWord) : exec (.drainEnd now) s = execDrainEnd now s := rfl
theorem exec_bargeComplete (i : Nat) (now : DWord) : exec (.bargeComplete i now) s = execBargeComplete i now s := rfl
theorem exec_tickInEdge (now : DWord) : exec (.tickInEdge now) s = execTickInEdge now s := rfl
theorem exec_schedSend : exec (.schedSend) s = execSchedSend s := rfl
theorem exec_timeExchange (now : DWord) : exec (.timeExchange now) s = execTimeExchange now s := rfl
theorem exec_ftcSyncTimeout (now : DWord) : exec (.ftcSyncTimeout now) s = execFtcSyncTimeout now s := rfl
theorem exec_nop (i : Nat) : exec (.nop i) s = execNop i s := rfl
theorem exec_notify (i : Nat) : exec (.notify i) s = execNotify i s := rfl
theorem exec_controlFence (i : Nat) : exec (.controlFence i) s = execControlFence i s := rfl
theorem exec_codebookLoad (w : Word) : exec (.codebookLoad w) s = execCodebookLoad w s := rfl
theorem exec_codebookLoadEnd : exec (.codebookLoadEnd) s = execCodebookLoadEnd s := rfl
theorem exec_nonfiniteOutRead : exec (.nonfiniteOutRead) s = execNonfiniteOutRead s := rfl
theorem exec_scaleRead (w : Word) : exec (.scaleRead w) s = execScaleRead w s := rfl
theorem exec_scaleReadCopy : exec (.scaleReadCopy) s = execScaleReadCopy s := rfl
theorem exec_scaleUpdateComplete (c : CtxId) : exec (.scaleUpdateComplete c) s = execScaleUpdateComplete c s := rfl
theorem exec_sluiceRebuildDone (c : CtxId) : exec (.sluiceRebuildDone c) s = execSluiceRebuildDone c s := rfl
theorem exec_planRetimeDone (c : CtxId) : exec (.planRetimeDone c) s = execPlanRetimeDone c s := rfl
theorem exec_product (i : Nat) : exec (.product i) s = execProduct i s := rfl
theorem exec_batched (i : Nat) : exec (.batched i) s = execBatched i s := rfl
theorem exec_counted (i : Nat) : exec (.counted i) s = execCounted i s := rfl
theorem exec_taskClaim (e : EngineId) : exec (.taskClaim e) s = execTaskClaim e s := rfl
theorem exec_taskSteal (e : EngineId) : exec (.taskSteal e) s = execTaskSteal e s := rfl
theorem exec_stealRetry (e : EngineId) : exec (.stealRetry e) s = execStealRetry e s := rfl
theorem exec_splitkSlotRetry (e : EngineId) : exec (.splitkSlotRetry e) s = execSplitkSlotRetry e s := rfl
theorem exec_tileDrain (e : EngineId) (slot : Fin 2) : exec (.tileDrain e slot) s = execTileDrain e slot s := rfl
theorem exec_computeClockChange (d : DieId) (clock : ClockStep) : exec (.computeClockChange d clock) s = execComputeClockChange d clock s := rfl
theorem exec_map (i : Nat) : exec (.map i) s = execMap i s := rfl
theorem exec_row (i : Nat) : exec (.row i) s = execRow i s := rfl
theorem exec_rowStageStart (i : Nat) : exec (.rowStageStart i) s = execRowStageStart i s := rfl
theorem exec_reduce (i : Nat) : exec (.reduce i) s = execReduce i s := rfl
theorem exec_compress (i : Nat) : exec (.compress i) s = execCompress i s := rfl
theorem exec_expand (i : Nat) : exec (.expand i) s = execExpand i s := rfl
theorem exec_rotate (i : Nat) : exec (.rotate i) s = execRotate i s := rfl
theorem exec_unrotate (i : Nat) : exec (.unrotate i) s = execUnrotate i s := rfl
theorem exec_add (e : EngineId) (f : VFields) : exec (.add e f) s = execAdd e f s := rfl
theorem exec_sub (e : EngineId) (f : VFields) : exec (.sub e f) s = execSub e f s := rfl
theorem exec_mul (e : EngineId) (f : VFields) : exec (.mul e f) s = execMul e f s := rfl
theorem exec_fma (e : EngineId) (f : VFields) : exec (.fma e f) s = execFma e f s := rfl
theorem exec_min (e : EngineId) (f : VFields) : exec (.min e f) s = execMin e f s := rfl
theorem exec_max (e : EngineId) (f : VFields) : exec (.max e f) s = execMax e f s := rfl
theorem exec_abs (e : EngineId) (f : VFields) : exec (.abs e f) s = execAbs e f s := rfl
theorem exec_neg (e : EngineId) (f : VFields) : exec (.neg e f) s = execNeg e f s := rfl
theorem exec_copysign (e : EngineId) (f : VFields) : exec (.copysign e f) s = execCopysign e f s := rfl
theorem exec_mov (e : EngineId) (f : VFields) : exec (.mov e f) s = execMov e f s := rfl
theorem exec_div (e : EngineId) (f : VFields) : exec (.div e f) s = execDiv e f s := rfl
theorem exec_sqrt (e : EngineId) (f : VFields) : exec (.sqrt e f) s = execSqrt e f s := rfl
theorem exec_rcp (e : EngineId) (f : VFields) : exec (.rcp e f) s = execRcp e f s := rfl
theorem exec_rsqrt (e : EngineId) (f : VFields) : exec (.rsqrt e f) s = execRsqrt e f s := rfl
theorem exec_exp2 (e : EngineId) (f : VFields) : exec (.exp2 e f) s = execExp2 e f s := rfl
theorem exec_log2 (e : EngineId) (f : VFields) : exec (.log2 e f) s = execLog2 e f s := rfl
theorem exec_exp (e : EngineId) (f : VFields) : exec (.exp e f) s = execExp e f s := rfl
theorem exec_log (e : EngineId) (f : VFields) : exec (.log e f) s = execLog e f s := rfl
theorem exec_tanh (e : EngineId) (f : VFields) : exec (.tanh e f) s = execTanh e f s := rfl
theorem exec_sigmoid (e : EngineId) (f : VFields) : exec (.sigmoid e f) s = execSigmoid e f s := rfl
theorem exec_erf (e : EngineId) (f : VFields) : exec (.erf e f) s = execErf e f s := rfl
theorem exec_sinpi (e : EngineId) (f : VFields) : exec (.sinpi e f) s = execSinpi e f s := rfl
theorem exec_cospi (e : EngineId) (f : VFields) : exec (.cospi e f) s = execCospi e f s := rfl
theorem exec_cmpeq (e : EngineId) (f : VFields) : exec (.cmpeq e f) s = execCmpeq e f s := rfl
theorem exec_cmpne (e : EngineId) (f : VFields) : exec (.cmpne e f) s = execCmpne e f s := rfl
theorem exec_cmplt (e : EngineId) (f : VFields) : exec (.cmplt e f) s = execCmplt e f s := rfl
theorem exec_cmple (e : EngineId) (f : VFields) : exec (.cmple e f) s = execCmple e f s := rfl
theorem exec_cmpun (e : EngineId) (f : VFields) : exec (.cmpun e f) s = execCmpun e f s := rfl
theorem exec_sel (e : EngineId) (f : VFields) : exec (.sel e f) s = execSel e f s := rfl
theorem exec_iadd (e : EngineId) (f : VFields) : exec (.iadd e f) s = execIadd e f s := rfl
theorem exec_isub (e : EngineId) (f : VFields) : exec (.isub e f) s = execIsub e f s := rfl
theorem exec_imul (e : EngineId) (f : VFields) : exec (.imul e f) s = execImul e f s := rfl
theorem exec_and (e : EngineId) (f : VFields) : exec (.and e f) s = execAnd e f s := rfl
theorem exec_or (e : EngineId) (f : VFields) : exec (.or e f) s = execOr e f s := rfl
theorem exec_xor (e : EngineId) (f : VFields) : exec (.xor e f) s = execXor e f s := rfl
theorem exec_shl (e : EngineId) (f : VFields) : exec (.shl e f) s = execShl e f s := rfl
theorem exec_shr (e : EngineId) (f : VFields) : exec (.shr e f) s = execShr e f s := rfl
theorem exec_icmplt (e : EngineId) (f : VFields) : exec (.icmplt e f) s = execIcmplt e f s := rfl
theorem exec_icmpeq (e : EngineId) (f : VFields) : exec (.icmpeq e f) s = execIcmpeq e f s := rfl
theorem exec_cvtif (e : EngineId) (f : VFields) : exec (.cvtif e f) s = execCvtif e f s := rfl
theorem exec_cvtfi (e : EngineId) (f : VFields) : exec (.cvtfi e f) s = execCvtfi e f s := rfl
theorem exec_rndbf16 (e : EngineId) (f : VFields) : exec (.rndbf16 e f) s = execRndbf16 e f s := rfl
theorem exec_rndf16 (e : EngineId) (f : VFields) : exec (.rndf16 e f) s = execRndf16 e f s := rfl
theorem exec_rand (e : EngineId) (f : VFields) : exec (.rand e f) s = execRand e f s := rfl
theorem exec_forward (i : Nat) : exec (.forward i) s = execForward i s := rfl
theorem exec_partialSegments (i : Nat) : exec (.partialSegments i) s = execPartialSegments i s := rfl
theorem exec_join (i : Nat) : exec (.join i) s = execJoin i s := rfl
theorem exec_backward (i : Nat) : exec (.backward i) s = execBackward i s := rfl
theorem exec_rope (i : Nat) : exec (.rope i) s = execRope i s := rfl
theorem exec_copy (i : Nat) : exec (.copy i) s = execCopy i s := rfl
theorem exec_copy2d (i : Nat) : exec (.copy2d i) s = execCopy2d i s := rfl
theorem exec_fill (i : Nat) : exec (.fill i) s = execFill i s := rfl
theorem exec_stashSave (i : Nat) : exec (.stashSave i) s = execStashSave i s := rfl
theorem exec_stashLoad (i : Nat) : exec (.stashLoad i) s = execStashLoad i s := rfl
theorem exec_adam (i : Nat) : exec (.adam i) s = execAdam i s := rfl
theorem exec_momentum (i : Nat) : exec (.momentum i) s = execMomentum i s := rfl
theorem exec_updateCopy (i : Nat) : exec (.updateCopy i) s = execUpdateCopy i s := rfl
theorem exec_voteStep (i : Nat) : exec (.voteStep i) s = execVoteStep i s := rfl
theorem exec_voteCommit (i : Nat) : exec (.voteCommit i) s = execVoteCommit i s := rfl
theorem exec_stepVerdict (c : CtxId) (v : BitVec 2048) : exec (.stepVerdict c v) s = execStepVerdict c v s := rfl
theorem exec_commitVerdict (c : CtxId) (v : BitVec 256) : exec (.commitVerdict c v) s = execCommitVerdict c v s := rfl
theorem exec_reduceScatter (i : Nat) : exec (.reduceScatter i) s = execReduceScatter i s := rfl
theorem exec_allReduce (i : Nat) : exec (.allReduce i) s = execAllReduce i s := rfl
theorem exec_allGather (i : Nat) : exec (.allGather i) s = execAllGather i s := rfl
theorem exec_broadcast (i : Nat) : exec (.broadcast i) s = execBroadcast i s := rfl
theorem exec_shift (i : Nat) : exec (.shift i) s = execShift i s := rfl
theorem exec_allToAll (i : Nat) : exec (.allToAll i) s = execAllToAll i s := rfl
theorem exec_amaxAgree (i : Nat) : exec (.amaxAgree i) s = execAmaxAgree i s := rfl
theorem exec_cstatAgree (i : Nat) : exec (.cstatAgree i) s = execCstatAgree i s := rfl
theorem exec_testEngine (i : Nat) (sigs : List DWord) : exec (.testEngine i sigs) s = execTestEngine i sigs s := rfl
theorem exec_testDrain (i : Nat) : exec (.testDrain i) s = execTestDrain i s := rfl
theorem exec_testScrub (i : Nat) : exec (.testScrub i) s = execTestScrub i s := rfl
theorem exec_testSliceEnd (e : EngineId) (sig : DWord) : exec (.testSliceEnd e sig) s = execTestSliceEnd e sig s := rfl
theorem exec_resumeContext (w : Word) : exec (.resumeContext w) s = execResumeContext w s := rfl
theorem exec_clearSkipRun (w : Word) : exec (.clearSkipRun w) s = execClearSkipRun w s := rfl
theorem exec_cstatRead (w : Word) : exec (.cstatRead w) s = execCstatRead w s := rfl
theorem exec_cstatReadCopy : exec (.cstatReadCopy) s = execCstatReadCopy s := rfl
theorem exec_retrainPhaseEnd (r : RetrainReport) : exec (.retrainPhaseEnd r) s = execRetrainPhaseEnd r s := rfl
theorem exec_stackTemperatureRead (st : StackId) (temp : Byte) : exec (.stackTemperatureRead st temp) s = execStackTemperatureRead st temp s := rfl
theorem exec_refreshManagementRequest (st : StackId) : exec (.refreshManagementRequest st) s = execRefreshManagementRequest st s := rfl
theorem exec_marginSweep (w : Word) : exec (.marginSweep w) s = execMarginSweep w s := rfl
theorem exec_marginSweepEnd (low high : Byte) (worst : BitVec 5) : exec (.marginSweepEnd low high worst) s = execMarginSweepEnd low high worst s := rfl
theorem exec_memXlate (addr : DWord) : exec (.memXlate addr) s = execMemXlate addr s := rfl
theorem exec_dataFlit (p : PortId) (f : Arrival) : exec (.dataFlit p f) s = execDataFlit p f s := rfl
theorem exec_idleFlit (p : PortId) (f : Arrival) : exec (.idleFlit p f) s = execIdleFlit p f s := rfl
theorem exec_nak (p : PortId) (f : Arrival) : exec (.nak p f) s = execNak p f s := rfl
theorem exec_hello (p : PortId) (f : Arrival) : exec (.hello p f) s = execHello p f s := rfl
theorem exec_time (p : PortId) (f : Arrival) (now : DWord) : exec (.time p f now) s = execTime p f now s := rfl
theorem exec_eq (p : PortId) (f : Arrival) : exec (.eq p f) s = execEq p f s := rfl
theorem exec_linkSilence (p : PortId) : exec (.linkSilence p) s = execLinkSilence p s := rfl
theorem exec_linkTrainingFailed (p : PortId) : exec (.linkTrainingFailed p) s = execLinkTrainingFailed p s := rfl
theorem exec_linkRetrain (p : PortId) : exec (.linkRetrain p) s = execLinkRetrain p s := rfl
theorem exec_linkUp (p : PortId) : exec (.linkUp p) s = execLinkUp p s := rfl
theorem exec_portAccept (p : PortId) : exec (.portAccept p) s = execPortAccept p s := rfl
theorem exec_equalisationStepEnd (p : PortId) : exec (.equalisationStepEnd p) s = execEqualisationStepEnd p s := rfl
theorem exec_packetForward (p : PortId) (pk : LanePacket) : exec (.packetForward p pk) s = execPacketForward p pk s := rfl
theorem exec_put (p : PortId) (pk : Packet) : exec (.put p pk) s = execPut p pk s := rfl
theorem exec_putAck (p : PortId) (pk : Packet) : exec (.putAck p pk) s = execPutAck p pk s := rfl
theorem exec_putResend (n : Nat) : exec (.putResend n) s = execPutResend n s := rfl
theorem exec_sched (p : PortId) (pk : Packet) (now : DWord) : exec (.sched p pk now) s = execSched p pk now s := rfl
theorem exec_stretchReq (p : PortId) (pk : Packet) (now : DWord) : exec (.stretchReq p pk now) s = execStretchReq p pk now s := rfl
theorem exec_abort (p : PortId) (pk : Packet) : exec (.abort p pk) s = execAbort p pk s := rfl
theorem exec_agree (p : PortId) (pk : Packet) : exec (.agree p pk) s = execAgree p pk s := rfl
theorem exec_mgmt (p : PortId) (pk : Packet) (tags : Option (Word × Word)) : exec (.mgmt p pk tags) s = execMgmt p pk tags s := rfl
theorem exec_agreementMax (w : Word) : exec (.agreementMax w) s = execAgreementMax w s := rfl
theorem exec_agreementMin (w : Word) : exec (.agreementMin w) s = execAgreementMin w s := rfl
theorem exec_agreementTimeout : exec (.agreementTimeout) s = execAgreementTimeout s := rfl
theorem exec_groupTableWrite (t : GroupWrite) (w : Word) : exec (.groupTableWrite t w) s = execGroupTableWrite t w s := rfl
theorem exec_ctxEpochWrite (c : CtxId) (w : Word) : exec (.ctxEpochWrite c w) s = execCtxEpochWrite c w s := rfl
theorem exec_lockstepMismatch (pair : Fin 24) : exec (.lockstepMismatch pair) s = execLockstepMismatch pair s := rfl
theorem exec_ucieLinkRecovery (link : Byte) (ok : Bool) : exec (.ucieLinkRecovery link ok) s = execUcieLinkRecovery link ok s := rfl
theorem exec_watchtowerEval : exec (.watchtowerEval) s = execWatchtowerEval s := rfl
theorem exec_watchtowerWindowAdvance : exec (.watchtowerWindowAdvance) s = execWatchtowerWindowAdvance s := rfl
theorem exec_graceExpiry : exec (.graceExpiry) s = execGraceExpiry s := rfl
theorem exec_recorderRead (w : Word) : exec (.recorderRead w) s = execRecorderRead w s := rfl
theorem exec_recorderReadCopy : exec (.recorderReadCopy) s = execRecorderReadCopy s := rfl
theorem exec_watchdogSample : exec (.watchdogSample) s = execWatchdogSample s := rfl
theorem exec_computeResetTimeout : exec (.computeResetTimeout) s = execComputeResetTimeout s := rfl
theorem exec_recoveryTimeout : exec (.recoveryTimeout) s = execRecoveryTimeout s := rfl
theorem exec_computeReset (w : Word) : exec (.computeReset w) s = execComputeReset w s := rfl
theorem exec_deviceRecovery (w : Word) : exec (.deviceRecovery w) s = execDeviceRecovery w s := rfl
theorem exec_contextTeardown (w : Word) : exec (.contextTeardown w) s = execContextTeardown w s := rfl
theorem exec_resetDrainEnd (now : DWord) : exec (.resetDrainEnd now) s = execResetDrainEnd now s := rfl
theorem exec_computeResetDone (ms : Word) : exec (.computeResetDone ms) s = execComputeResetDone ms s := rfl
theorem exec_deviceRecoveryDone (r : RecoveryReport) : exec (.deviceRecoveryDone r) s = execDeviceRecoveryDone r s := rfl
theorem exec_teardownDrainEnd (c : CtxId) (us : Word) : exec (.teardownDrainEnd c us) s = execTeardownDrainEnd c us s := rfl
theorem exec_quarantineFree (w : Word) : exec (.quarantineFree w) s = execQuarantineFree w s := rfl
theorem exec_captureNext (w : Word) : exec (.captureNext w) s = execCaptureNext w s := rfl
theorem exec_seal (w : Word) : exec (.seal w) s = execSeal w s := rfl
theorem exec_sealAck : exec (.sealAck) s = execSealAck s := rfl
theorem exec_sealTimeout : exec (.sealTimeout) s = execSealTimeout s := rfl
theorem exec_restore (w : Word) (remote : Option (List Byte)) : exec (.restore w remote) s = execRestore w remote s := rfl
theorem exec_restoreSourceTimeout : exec (.restoreSourceTimeout) s = execRestoreSourceTimeout s := rfl
theorem exec_bindBuddy (w : Word) (tags : Option (Word × Word)) : exec (.bindBuddy w tags) s = execBindBuddy w tags s := rfl
theorem exec_buddyTimeout : exec (.buddyTimeout) s = execBuddyTimeout s := rfl
theorem exec_snapshotStart (w : Word) : exec (.snapshotStart w) s = execSnapshotStart w s := rfl
theorem exec_captureComplete (c : CtxId) : exec (.captureComplete c) s = execCaptureComplete c s := rfl
theorem exec_captureGapExpiry (c : CtxId) : exec (.captureGapExpiry c) s = execCaptureGapExpiry c s := rfl
theorem exec_snapshotExport (c : CtxId) : exec (.snapshotExport c) s = execSnapshotExport c s := rfl
theorem exec_exportAck (c : CtxId) : exec (.exportAck c) s = execExportAck c s := rfl
theorem exec_wardCopyReceived (c : CtxId) (slot : Fin 2) (bytes : List Byte) : exec (.wardCopyReceived c slot bytes) s = execWardCopyReceived c slot bytes s := rfl
theorem exec_fwWrite (w : Word) : exec (.fwWrite w) s = execFwWrite w s := rfl
theorem exec_fwCommit (w : Word) : exec (.fwCommit w) s = execFwCommit w s := rfl
theorem exec_fwConfirm (w : Word) : exec (.fwConfirm w) s = execFwConfirm w s := rfl
theorem exec_siteWrite (w : Word) : exec (.siteWrite w) s = execSiteWrite w s := rfl
theorem exec_enrol (w : Word) : exec (.enrol w) s = execEnrol w s := rfl
theorem exec_release (w : Word) (nonce : DWord) : exec (.release w nonce) s = execRelease w nonce s := rfl
theorem exec_flashCommandDone : exec (.flashCommandDone) s = execFlashCommandDone s := rfl
theorem exec_enterStandby : exec (.enterStandby) s = execEnterStandby s := rfl
theorem exec_leaveStandby : exec (.leaveStandby) s = execLeaveStandby s := rfl
theorem exec_leaveStandbyDone (r : RecoveryReport) : exec (.leaveStandbyDone r) s = execLeaveStandbyDone r s := rfl
theorem exec_enterOff : exec (.enterOff) s = execEnterOff s := rfl
theorem exec_doeDiscovery (req : List Byte) : exec (.doeDiscovery req) s = execDoeDiscovery req s := rfl
theorem exec_getVersion (req : List Byte) : exec (.getVersion req) s = execGetVersion req s := rfl
theorem exec_getCapabilities (req : List Byte) : exec (.getCapabilities req) s = execGetCapabilities req s := rfl
theorem exec_negotiateAlgorithms (req : List Byte) : exec (.negotiateAlgorithms req) s = execNegotiateAlgorithms req s := rfl
theorem exec_getDigests (req : List Byte) : exec (.getDigests req) s = execGetDigests req s := rfl
theorem exec_getCertificate (req : List Byte) : exec (.getCertificate req) s = execGetCertificate req s := rfl
theorem exec_challenge (req : List Byte) : exec (.challenge req) s = execChallenge req s := rfl
theorem exec_getMeasurements (req : List Byte) : exec (.getMeasurements req) s = execGetMeasurements req s := rfl
theorem exec_spdmUnsupportedRequest (req : List Byte) : exec (.spdmUnsupportedRequest req) s = execSpdmUnsupportedRequest req s := rfl
theorem exec_sqDoorbell (c : CtxId) (w : Word) (entries : List (BitVec 512)) : exec (.sqDoorbell c w entries) s = execSqDoorbell c w entries s := rfl
theorem exec_cqHeadDoorbell (c : CtxId) (w : Word) : exec (.cqHeadDoorbell c w) s = execCqHeadDoorbell c w s := rfl
theorem exec_queueConfigWrite (c : CtxId) (q : QueueSetting) (w : Word) : exec (.queueConfigWrite c q w) s = execQueueConfigWrite c q w s := rfl
theorem exec_load (c : CtxId) : exec (.load c) s = execLoad c s := rfl
theorem exec_imageFetched (c : CtxId) (im : Image) : exec (.imageFetched c im) s = execImageFetched c im s := rfl
theorem exec_loadHbm (c : CtxId) (im : Image) : exec (.loadHbm c im) s = execLoadHbm c im s := rfl
theorem exec_start (c : CtxId) : exec (.start c) s = execStart c s := rfl
theorem exec_eval (c : CtxId) : exec (.eval c) s = execEval c s := rfl
theorem exec_pause (c : CtxId) : exec (.pause c) s = execPause c s := rfl
theorem exec_sqFence (c : CtxId) : exec (.sqFence c) s = execSqFence c s := rfl
theorem exec_heartbeat : exec (.heartbeat) s = execHeartbeat s := rfl
theorem exec_msixMessage (v : Fin 64) : exec (.msixMessage v) s = execMsixMessage v s := rfl
theorem exec_bar2Read (x : Nat) (len : Nat) : exec (.bar2Read x len) s = execBar2Read x len s := rfl
theorem exec_bar2Write (x : Nat) (bytes : List Byte) : exec (.bar2Write x bytes) s = execBar2Write x bytes s := rfl
theorem exec_hotReset : exec (.hotReset) s = execHotReset s := rfl
theorem exec_pmcsrWrite (w : Word) : exec (.pmcsrWrite w) s = execPmcsrWrite w s := rfl
theorem exec_registerWrite (a : Nat) (size : Nat) (w : Word) : exec (.registerWrite a size w) s = execRegisterWrite a size w s := rfl
theorem exec_reg64LowHalfRead (a : RegRead) : exec (.reg64LowHalfRead a) s = execReg64LowHalfRead a s := rfl
theorem exec_reg64HighHalfRead (a : RegRead) : exec (.reg64HighHalfRead a) s = execReg64HighHalfRead a s := rfl
theorem exec_reg64LowHalfWrite (a : Nat) (w : Word) : exec (.reg64LowHalfWrite a w) s = execReg64LowHalfWrite a w s := rfl
theorem exec_reg64HighHalfWrite (a : Nat) (w : Word) : exec (.reg64HighHalfWrite a w) s = execReg64HighHalfWrite a w s := rfl
theorem exec_coldPowerOn : exec (.coldPowerOn) s = execColdPowerOn s := rfl
theorem exec_pwrGoodFall : exec (.pwrGoodFall) s = execPwrGoodFall s := rfl
theorem exec_undervoltageShutdown : exec (.undervoltageShutdown) s = execUndervoltageShutdown s := rfl
theorem exec_perstNAssert : exec (.perstNAssert) s = execPerstNAssert s := rfl
theorem exec_boot (r : BootReport) : exec (.boot r) s = execBoot r s := rfl
theorem exec_powerSample (watts avg : Half) : exec (.powerSample watts avg) s = execPowerSample watts avg s := rfl
theorem exec_dieThermalSample (d : DieId) (temp : Half) : exec (.dieThermalSample d temp) s = execDieThermalSample d temp s := rfl
theorem exec_thermalTrip (u : TripUnit) (temp : Half) : exec (.thermalTrip u temp) s = execThermalTrip u temp s := rfl
theorem exec_sensorSample (k : Fin 15) (value : Half) : exec (.sensorSample k value) s = execSensorSample k value s := rfl
theorem exec_leakNLow : exec (.leakNLow) s = execLeakNLow s := rfl
theorem exec_alarmClear (al : Alarm) : exec (.alarmClear al) s = execAlarmClear al s := rfl
theorem exec_i3cRegisterRead (a : Nat) : exec (.i3cRegisterRead a) s = execI3cRegisterRead a s := rfl
theorem exec_i3cRegisterWrite (a : Nat) (w : Word) : exec (.i3cRegisterWrite a w) s = execI3cRegisterWrite a w s := rfl
theorem exec_i3cDynamicAddress (a : BitVec 7) : exec (.i3cDynamicAddress a) s = execI3cDynamicAddress a s := rfl
theorem exec_disec : exec (.disec) s = execDisec s := rfl
theorem exec_wake (w : Word) : exec (.wake w) s = execWake w s := rfl
theorem exec_pwrLimitWrite (w : Word) : exec (.pwrLimitWrite w) s = execPwrLimitWrite w s := rfl
theorem exec_sramScrub (arisen : List SramWord) : exec (.sramScrub arisen) s = execSramScrub arisen s := rfl
theorem exec_pwrGoodRise : exec (.pwrGoodRise) s = execPwrGoodRise s := rfl
theorem exec_lossOf48vFeed : exec (.lossOf48vFeed) s = execLossOf48vFeed s := rfl

end Sys2Proof.Machine
end

