-- ==== Sys2Proof/Laws/Table.lean ====
section
/-! SUPPORT. The laws of sparse tables: read after write, and the canonical form. -/

namespace Sys2Proof.Machine
variable {α : Type}

theorem lookup_filter_ne (t : List (Nat × α)) (k : Nat) : (tblErase t k).lookup k = none := by
  induction t with
  | nil => rfl
  | cons e t ih =>
    obtain ⟨j, w⟩ := e
    unfold tblErase at *
    by_cases h : j = k
    · subst h; simpa using ih
    · simp [h, List.lookup_cons, ih, beq_eq_false_iff_ne.2 (Ne.symm h)]

theorem lookup_erase_other (t : List (Nat × α)) {j k : Nat} (h : j ≠ k) : (tblErase t k).lookup j = t.lookup j := by
  induction t with
  | nil => rfl
  | cons e t ih =>
    obtain ⟨i, w⟩ := e
    unfold tblErase at *
    by_cases hi : i = k
    · subst hi; simp [List.lookup_cons, ih, beq_eq_false_iff_ne.2 h]
    · by_cases hj : j = i <;> simp [hi, List.lookup_cons, ih, hj]

theorem lookup_ins_same (t : List (Nat × α)) (k : Nat) (v : α) (h : t.lookup k = none) :
    (tblIns k v t).lookup k = some v := by
  induction t with
  | nil => simp [tblIns]
  | cons e t ih =>
    obtain ⟨i, w⟩ := e
    have hk : (k == i) = false := by
      by_contra hc
      simp [List.lookup_cons, Bool.not_eq_false _ ▸ hc] at h
    rw [List.lookup_cons, hk] at h
    unfold tblIns
    split
    · simp
    · simpa [List.lookup_cons, hk] using ih h

theorem lookup_ins_other (t : List (Nat × α)) {j k : Nat} (v : α) (h : j ≠ k) :
    (tblIns k v t).lookup j = t.lookup j := by
  induction t with
  | nil => simp [tblIns, List.lookup_cons, beq_eq_false_iff_ne.2 h]
  | cons e t ih =>
    obtain ⟨i, w⟩ := e
    unfold tblIns
    split
    · simp [List.lookup_cons, beq_eq_false_iff_ne.2 h]
    · simp [List.lookup_cons, ih]

/-- A read after a write to the same key gives the value written. -/
@[simp] theorem tblGet_set_same [DecidableEq α] (d : Nat → α) (t : List (Nat × α)) (k : Nat) (v : α) :
    tblGet d (tblSet d t k v) k = v := by
  unfold tblSet
  split
  · rename_i h; unfold tblGet; rw [lookup_filter_ne, h]
  · unfold tblGet; rw [lookup_ins_same _ _ _ (lookup_filter_ne t k)]

/-- A write leaves every other key alone. -/
theorem tblGet_set_other [DecidableEq α] (d : Nat → α) (t : List (Nat × α)) {j k : Nat} (v : α) (h : j ≠ k) :
    tblGet d (tblSet d t k v) j = tblGet d t j := by
  unfold tblSet
  split
  · unfold tblGet; rw [lookup_erase_other _ h]
  · unfold tblGet; rw [lookup_ins_other _ _ h, lookup_erase_other _ h]

theorem tblGet_set [DecidableEq α] (d : Nat → α) (t : List (Nat × α)) (j k : Nat) (v : α) :
    tblGet d (tblSet d t k v) j = if j = k then v else tblGet d t j := by
  split
  · rename_i h; subst h; simp
  · rename_i h; exact tblGet_set_other d t v h

theorem tblSorted_cons {e : Nat × α} {t : List (Nat × α)} (h : tblSorted (e :: t) = true) :
    tblSorted t = true ∧ ∀ x ∈ t, e.1 < x.1 := by
  induction t generalizing e with
  | nil => simp [tblSorted]
  | cons b t ih =>
    simp only [tblSorted, Bool.and_eq_true, decide_eq_true_eq] at h
    refine ⟨h.2, fun x hx => ?_⟩
    rcases List.mem_cons.1 hx with rfl | hx
    · exact h.1
    · exact lt_trans h.1 ((ih h.2).2 x hx)

theorem tblSorted_of {e : Nat × α} {t : List (Nat × α)} (h : tblSorted t = true) (hl : ∀ x ∈ t, e.1 < x.1) :
    tblSorted (e :: t) = true := by
  cases t with
  | nil => rfl
  | cons b t => simp only [tblSorted, Bool.and_eq_true, decide_eq_true_eq]; exact ⟨hl b (by simp), h⟩

theorem tblSorted_erase {t : List (Nat × α)} (k : Nat) (h : tblSorted t = true) : tblSorted (tblErase t k) = true := by
  induction t with
  | nil => rfl
  | cons e t ih =>
    obtain ⟨h1, h2⟩ := tblSorted_cons h
    unfold tblErase at *
    by_cases he : e.1 = k
    · simpa [he] using ih h1
    · have : (e.1 != k) = true := by simpa using he
      simp only [List.filter_cons, this, if_true]
      exact tblSorted_of (ih h1) (fun x hx => h2 x (List.mem_filter.1 hx).1)

theorem mem_tblIns {t : List (Nat × α)} {k : Nat} {v : α} {x : Nat × α} (h : x ∈ tblIns k v t) :
    x = (k, v) ∨ x ∈ t := by
  induction t with
  | nil => simpa [tblIns] using h
  | cons e t ih =>
    unfold tblIns at h
    split at h
    · simpa using h
    · rcases List.mem_cons.1 h with rfl | h
      · simp
      · rcases ih h with h | h <;> simp [h]

theorem tblSorted_ins {t : List (Nat × α)} {k : Nat} (v : α) (h : tblSorted t = true) (hk : ∀ x ∈ t, x.1 ≠ k) :
    tblSorted (tblIns k v t) = true := by
  induction t with
  | nil => rfl
  | cons e t ih =>
    obtain ⟨h1, h2⟩ := tblSorted_cons h
    unfold tblIns
    split
    · rename_i hlt
      refine tblSorted_of h (fun x hx => ?_)
      rcases List.mem_cons.1 hx with rfl | hx
      · exact hlt
      · exact lt_trans hlt (h2 x hx)
    · rename_i hlt
      refine tblSorted_of (ih h1 (fun x hx => hk x (by simp [hx]))) (fun x hx => ?_)
      rcases mem_tblIns hx with rfl | hx
      · exact lt_of_le_of_ne (Nat.le_of_not_lt hlt) (hk e (by simp))
      · exact h2 x hx

/-- A write keeps the canonical form. -/
theorem tblWf_set [DecidableEq α] (d : Nat → α) {t : List (Nat × α)} (k : Nat) (v : α) (h : tblWf d t = true) :
    tblWf d (tblSet d t k v) = true := by
  simp only [tblWf, Bool.and_eq_true, List.all_eq_true, decide_eq_true_eq] at *
  have he : ∀ x ∈ tblErase t k, x.2 ≠ d x.1 := fun x hx => h.2 x (List.mem_filter.1 hx).1
  have hne : ∀ x ∈ tblErase t k, x.1 ≠ k := fun x hx => by simpa using (List.mem_filter.1 hx).2
  unfold tblSet
  split
  · exact ⟨tblSorted_erase k h.1, he⟩
  · rename_i hv
    refine ⟨tblSorted_ins v (tblSorted_erase k h.1) hne, fun x hx => ?_⟩
    rcases mem_tblIns hx with rfl | hx
    · exact hv
    · exact he x hx

/-- In canonical form a write of the value already held changes nothing that can be read. -/
theorem tblGet_set_self [DecidableEq α] (d : Nat → α) (t : List (Nat × α)) (j k : Nat) :
    tblGet d (tblSet d t k (tblGet d t k)) j = tblGet d t j := by
  rw [tblGet_set]; split <;> simp_all

theorem tblSorted_filter {t : List (Nat × α)} (p : Nat × α → Bool) (h : tblSorted t = true) :
    tblSorted (t.filter p) = true := by
  induction t with
  | nil => rfl
  | cons e t ih =>
    obtain ⟨h1, h2⟩ := tblSorted_cons h
    rw [List.filter_cons]
    split
    · exact tblSorted_of (ih h1) (fun x hx => h2 x (List.mem_filter.1 hx).1)
    · exact ih h1

/-- Taking entries out keeps the canonical form. -/
theorem tblWf_filter [DecidableEq α] (d : Nat → α) {t : List (Nat × α)} (p : Nat × α → Bool) (h : tblWf d t = true) :
    tblWf d (t.filter p) = true := by
  simp only [tblWf, Bool.and_eq_true, List.all_eq_true, decide_eq_true_eq] at *
  exact ⟨tblSorted_filter p h.1, fun x hx => h.2 x (List.mem_filter.1 hx).1⟩

theorem tblSorted_append {t u : List (Nat × α)} (ht : tblSorted t = true) (hu : tblSorted u = true)
    (h : ∀ a ∈ t, ∀ b ∈ u, a.1 < b.1) : tblSorted (t ++ u) = true := by
  induction t with
  | nil => exact hu
  | cons e t ih =>
    obtain ⟨h1, h2⟩ := tblSorted_cons ht
    refine tblSorted_of (ih h1 (fun a ha => h a (by simp [ha]))) (fun x hx => ?_)
    rcases List.mem_append.1 hx with hx | hx
    · exact h2 x hx
    · exact h e (by simp) x hx

/-- Two tables in canonical form, the second's keys above the first's, make one. -/
theorem tblWf_append [DecidableEq α] {d : Nat → α} {t u : List (Nat × α)} (ht : tblWf d t = true) (hu : tblWf d u = true)
    (h : ∀ a ∈ t, ∀ b ∈ u, a.1 < b.1) : tblWf d (t ++ u) = true := by
  simp only [tblWf, Bool.and_eq_true, List.all_eq_true, decide_eq_true_eq] at *
  refine ⟨tblSorted_append ht.1 hu.1 h, fun x hx => ?_⟩
  rcases List.mem_append.1 hx with hx | hx
  · exact ht.2 x hx
  · exact hu.2 x hx

/-- The canonical form depends only on the defaults of the keys listed. -/
theorem tblWf_congr [DecidableEq α] {d e : Nat → α} {t : List (Nat × α)} (he : ∀ x ∈ t, d x.1 = e x.1)
    (h : tblWf d t = true) : tblWf e t = true := by
  simp only [tblWf, Bool.and_eq_true, List.all_eq_true, decide_eq_true_eq] at *
  exact ⟨h.1, fun x hx => by rw [← he x hx]; exact h.2 x hx⟩

end Sys2Proof.Machine
end

