-- ==== Sys2Proof/Laws/Kept.lean ====
section
/-! SUPPORT. What every operation keeps: the queue of waiting commands, and the canonical forms of the register file and of
memory. One lemma per operation stands in the files KeptA, KeptB and so on; each says so of the operation applied to a
state that has itself kept them since a state `r`. -/

namespace Sys2Proof.Machine

/-- `s` has the queue of `r`, and is in canonical form if `r` is. -/
structure Kept (r s : State) : Prop where
  queue : s.pending = r.pending
  regs : r.regsWf = true → s.regsWf = true
  mem : Memory.wf r = true → Memory.wf s = true

theorem Kept.refl (s : State) : Kept s s := ⟨rfl, id, id⟩

theorem Kept.trans {r s t : State} (h : Kept r s) (k : Kept s t) : Kept r t :=
  ⟨k.queue.trans h.queue, fun x => k.regs (h.regs x), fun x => k.mem (h.mem x)⟩

/-- An update of fields other than the queue, the registers and memory. -/
theorem kept_mk (r s : State) {f la hl lo cx ar ke ln sc cs wi li he lk mo ou} :
    Kept r (State.mk s.pending f s.regs la hl lo cx ar ke ln sc cs wi s.mem li he lk mo ou) ↔ Kept r s :=
  ⟨fun h => ⟨h.queue, h.regs, h.mem⟩, fun h => ⟨h.queue, h.regs, h.mem⟩⟩

/-- The same with an update of what memory holds beside its bytes. -/
theorem kept_mk_mem (r s : State) {f la hl lo cx ar ke ln sc cs wi li he lk mo ou ms mf ml mp mn mr mh mw mu} :
    Kept r (State.mk s.pending f s.regs la hl lo cx ar ke ln sc cs wi ⟨s.mem.cells, s.mem.lost, ms, mf, ml, mp, mn, mr, mh, mw, mu⟩ li he lk mo
      ou)
      ↔ Kept r s :=
  ⟨fun h => ⟨h.queue, h.regs, h.mem⟩, fun h => ⟨h.queue, h.regs, h.mem⟩⟩

theorem setReg_kept {r s : State} (h : Kept r s) (a : Nat) (w : BitVec 32) : Kept r (s.setReg a w) :=
  ⟨h.queue, fun x => tblWf_set _ _ _ (h.regs x), h.mem⟩

theorem setByte_kept {r s : State} (h : Kept r s) (a : Nat) (b : Byte) : Kept r (s.setByte a b) :=
  ⟨h.queue, h.regs, fun x => tblWf_set _ _ _ (h.mem x)⟩

theorem mem_regsAfterReset {d : Domain} {t : List (Nat × BitVec 32)} {x : Nat × BitVec 32}
    (h : x ∈ regsAfterReset d t) : (∃ y ∈ t, y.1 = x.1) ∧ x.2 ≠ regDefault x.1 := by
  induction t with
  | nil => simp [regsAfterReset] at h
  | cons e t ih =>
    obtain ⟨a, v⟩ := e
    unfold regsAfterReset at h
    dsimp only at h
    split at h
    · obtain ⟨⟨y, hy, e⟩, k⟩ := ih h
      exact ⟨⟨y, by simp [hy], e⟩, k⟩
    · rcases List.mem_cons.1 h with rfl | h
      · exact ⟨⟨(a, v), by simp, rfl⟩, by assumption⟩
      · obtain ⟨⟨y, hy, e⟩, k⟩ := ih h
        exact ⟨⟨y, by simp [hy], e⟩, k⟩

/-- R8: a reset of a domain keeps the register file canonical. -/
theorem regsAfterReset_wf (d : Domain) {t : List (Nat × BitVec 32)} (h : tblWf regDefault t = true) :
    tblWf regDefault (regsAfterReset d t) = true := by
  simp only [tblWf, Bool.and_eq_true, List.all_eq_true, decide_eq_true_eq] at *
  refine ⟨?_, fun x hx => (mem_regsAfterReset hx).2⟩
  have h1 := h.1
  clear h
  induction t with
  | nil => rfl
  | cons e t ih =>
    obtain ⟨a, v⟩ := e
    obtain ⟨k1, k2⟩ := tblSorted_cons h1
    unfold regsAfterReset
    dsimp only
    split
    · exact ih k1
    · refine tblSorted_of (ih k1) (fun x hx => ?_)
      obtain ⟨⟨y, hy, e⟩, -⟩ := mem_regsAfterReset hx
      have := k2 y hy
      dsimp only at *
      omega

/-- Bytes outside HBM have the same default whatever HBM has lost. -/
theorem tblWf_basin (l m : Nat) {t : List Host.Cell} (h : tblWf (memDefault l) t = true) :
    tblWf (memDefault m) (t.filter (fun e => decide (0xFE0000000000 ≤ e.1))) = true := by
  refine tblWf_congr (fun x hx => ?_) (tblWf_filter _ _ h)
  have : 0xFE0000000000 ≤ x.1 := by simpa using (List.mem_filter.1 hx).2
  simp [memDefault, this]

/-- Work done along a list. -/
theorem foldl_kept {α : Type} {f : State → α → State} {l : List α} {r s : State} (h : Kept r s)
    (hf : ∀ t a, Kept r t → Kept r (f t a)) : Kept r (l.foldl f s) := by
  induction l generalizing s with
  | nil => exact h
  | cons a l ih => exact ih (hf s a h)

end Sys2Proof.Machine
end

