-- ==== Sys2Proof/Laws/KeptA.lean ====
section
/-! SUPPORT. What operations keep (see Kept), part A: one lemma per operation, each from those of the operations it calls. -/

namespace Sys2Proof.Machine

theorem forEach_kept {r s : State} (h : Kept r s) (cs : List Nat) {f : Nat → State → State}
    (hf : ∀ c t, Kept r t → Kept r (f c t)) : Kept r (s.forEach cs f) := by
  unfold State.forEach
  exact foldl_kept h (fun t c k => hf c t k)

theorem setPort_kept {r s : State} (h : Kept r s) (p : Nat) (x : Port) :
    Kept r (State.setPort s p x) := by
  unfold State.setPort
  try dsimp only
  repeat' with_reducible first | assumption | apply foldl_kept | split | intro _ | simp only [kept_mk]

theorem updPort_kept {r s : State} (h : Kept r s) (p : Nat) (f : Port → Port) :
    Kept r (State.updPort s p f) := by
  unfold State.updPort
  try dsimp only
  repeat' with_reducible first | assumption | apply setPort_kept

theorem emit_kept {r s : State} (h : Kept r s) (o : Output) :
    Kept r (State.emit s o) := by
  unfold State.emit
  try dsimp only
  repeat' with_reducible first | assumption | apply foldl_kept | split | intro _ | simp only [kept_mk]

theorem sendFlit_kept {r s : State} (h : Kept r s) (p : Nat) (ty : Nat) (vl : Nat) (sop : Bool) (eop : Bool) (seq : Nat) (payload : List Byte) :
    Kept r (State.sendFlit s p ty vl sop eop seq payload) := by
  unfold State.sendFlit
  try dsimp only
  repeat' with_reducible first | assumption | apply emit_kept | apply setPort_kept

theorem sendData_kept {r s : State} (h : Kept r s) (p : Nat) (seq : Nat) (times : Nat) (f : BitVec 2048) :
    Kept r (State.sendData s p seq times f) := by
  unfold State.sendData
  try dsimp only
  repeat' with_reducible first | assumption | apply sendFlit_kept | apply updPort_kept

theorem pump_kept {r s : State} (h : Kept r s) (p n : Nat) : Kept r (s.pump p n) := by
  induction n generalizing s with
  | zero => exact h
  | succ n ih =>
    unfold State.pump
    dsimp only
    split
    · exact h
    · split
      · exact h
      · split
        · exact h
        · exact ih (sendData_kept (setPort_kept h _ _) _ _ _ _)

theorem queuePacket_kept {r s : State} (h : Kept r s) (p : Nat) (vl : Nat) (pk : Packet) :
    Kept r (State.queuePacket s p vl pk) := by
  unfold State.queuePacket
  try dsimp only
  repeat' with_reducible first | assumption | apply updPort_kept | apply pump_kept

theorem sendAbort_kept {r s : State} (h : Kept r s) (c : Nat) :
    Kept r (State.sendAbort s c) := by
  unfold State.sendAbort
  try dsimp only
  repeat' with_reducible first | assumption | apply queuePacket_kept | apply foldl_kept | split | intro _

theorem tick_kept {r s : State} (h : Kept r s) (a : Nat) :
    Kept r (State.tick s a) := by
  unfold State.tick
  try dsimp only
  repeat' with_reducible first | assumption | apply setReg_kept

theorem setReg64_kept {r s : State} (h : Kept r s) (a : Nat) (v : BitVec 64) :
    Kept r (State.setReg64 s a v) := by
  unfold State.setReg64
  try dsimp only
  repeat' with_reducible first | assumption | apply setReg_kept

theorem count_kept {r s : State} (h : Kept r s) (a : Nat) (n : Nat) :
    Kept r (State.count s a n) := by
  unfold State.count
  try dsimp only
  repeat' with_reducible first | assumption | apply setReg_kept

theorem put_kept {r s : State} (h : Kept r s) (f : Fld) (v : Nat) :
    Kept r (State.put s f v) := by
  unfold State.put
  try dsimp only
  repeat' with_reducible first | assumption | apply setReg_kept

theorem countField_kept {r s : State} (h : Kept r s) (f : Fld) :
    Kept r (State.countField s f) := by
  unfold State.countField
  try dsimp only
  repeat' with_reducible first | assumption | apply put_kept

theorem storeRec_kept {r s : State} (h : Kept r s) (e : Event) :
    Kept r (State.storeRec s e) := by
  unfold State.storeRec
  try dsimp only
  repeat' with_reducible first | assumption | apply countField_kept | apply tick_kept | apply foldl_kept | split | intro _ | simp only [kept_mk]

theorem raise_kept {r s : State} (h : Kept r s) (v : Nat) :
    Kept r (State.raise s v) := by
  unfold State.raise
  try dsimp only
  repeat' with_reducible first | assumption | apply setReg64_kept | apply foldl_kept | split | intro _ | simp only [kept_mk]

theorem on_kept {r s : State} (h : Kept r s) (f : Fld) :
    Kept r (State.on s f) := by
  unfold State.on
  try dsimp only
  repeat' with_reducible first | assumption | apply put_kept

theorem recordEvent_kept {r s : State} (h : Kept r s) (e : Event) :
    Kept r (State.recordEvent s e) := by
  unfold State.recordEvent
  try dsimp only
  repeat' with_reducible first | assumption | apply tick_kept | apply setReg64_kept | apply count_kept | apply storeRec_kept | apply raise_kept | apply on_kept | apply foldl_kept | split | intro _ | simp only [kept_mk]

theorem event_kept {r s : State} (h : Kept r s) (code : BitVec 16) (src : BitVec 16) (fields : List (Nat × Nat)) :
    Kept r (State.event s code src fields) := by
  unfold State.event
  try dsimp only
  repeat' with_reducible first | assumption | apply recordEvent_kept | apply foldl_kept | split | intro _ | simp only [kept_mk]

theorem forgetPuts_kept {r s : State} (h : Kept r s) (b : Barge) :
    Kept r (State.forgetPuts s b) := by
  unfold State.forgetPuts
  try dsimp only
  repeat' with_reducible first | assumption | apply foldl_kept | split | intro _ | simp only [kept_mk]

theorem endCollective_kept {r s : State} (h : Kept r s) (b : Barge) :
    Kept r (State.endCollective s b) := by
  unfold State.endCollective
  try dsimp only
  repeat' with_reducible first | assumption | apply event_kept | apply forgetPuts_kept

theorem off_kept {r s : State} (h : Kept r s) (f : Fld) :
    Kept r (State.off s f) := by
  unfold State.off
  try dsimp only
  repeat' with_reducible first | assumption | apply put_kept

theorem showKernels_kept {r s : State} (h : Kept r s) :
    Kept r (State.showKernels s) := by
  unfold State.showKernels
  try dsimp only
  repeat' with_reducible first | assumption | apply put_kept | apply on_kept | apply setReg_kept | apply foldl_kept | split

theorem layStore_kept {r s : State} (h : Kept r s) :
    Kept r (State.layStore s) := by
  unfold State.layStore
  try dsimp only
  repeat' with_reducible first | assumption | apply showKernels_kept | apply foldl_kept | split | intro _ | simp only [kept_mk]

theorem layDue_kept {r s : State} (h : Kept r s) :
    Kept r (State.layDue s) := by
  unfold State.layDue
  try dsimp only
  repeat' with_reducible first | assumption | apply layStore_kept | apply foldl_kept | split

theorem showEngine_kept {r s : State} (h : Kept r s) (d : Nat) :
    Kept r (State.showEngine s d) := by
  unfold State.showEngine
  try dsimp only
  repeat' with_reducible first | assumption | apply put_kept

theorem showEngines_kept {r s : State} (h : Kept r s) :
    Kept r (State.showEngines s) := by
  unfold State.showEngines
  try dsimp only
  repeat' with_reducible first | assumption | apply showEngine_kept | apply foldl_kept | split | intro _

theorem freeArray_kept {r s : State} (h : Kept r s) :
    Kept r (State.freeArray s) := by
  unfold State.freeArray
  try dsimp only
  repeat' with_reducible first | assumption | apply off_kept | apply layDue_kept | apply showEngines_kept | apply put_kept | apply foldl_kept | split | intro _ | simp only [kept_mk]

theorem reportRows_kept {r s : State} (h : Kept r s) (b : Barge) :
    Kept r (State.reportRows s b) := by
  unfold State.reportRows
  try dsimp only
  repeat' with_reducible first | assumption | apply event_kept | apply foldl_kept | split

theorem draw_kept {r s : State} (h : Kept r s) :
    Kept r (State.draw s).2 := by
  unfold State.draw
  try dsimp only
  repeat' with_reducible first | assumption | apply foldl_kept | split | intro _ | simp only [kept_mk]

theorem draw_kept_pair {r s : State} (h : Kept r s) {x y} (e : State.draw s = (x, y)) : Kept r y := by
  have k := draw_kept h 
  rwa [e] at k

theorem undefine_kept {r s : State} (h : Kept r s) (regions : List (Nat × Nat)) :
    Kept r (State.undefine s regions) := by
  unfold State.undefine
  try dsimp only
  repeat' with_reducible first | assumption | apply draw_kept | refine draw_kept_pair ?_ ‹_› | apply setByte_kept | apply foldl_kept | split | intro _

theorem dropArray_kept {r s : State} (h : Kept r s) (b : Barge) :
    Kept r (State.dropArray s b) := by
  unfold State.dropArray
  try dsimp only
  repeat' with_reducible first | assumption | apply on_kept | apply freeArray_kept | apply reportRows_kept | apply undefine_kept | apply event_kept | apply foldl_kept | split

theorem promoteTo_kept {r s : State} (h : Kept r s) (b : Barge) (key : Nat) (n : Nat) :
    Kept r (State.promoteTo s b key n) := by
  unfold State.promoteTo
  try dsimp only
  repeat' with_reducible first | assumption | apply count_kept | apply foldl_kept | split | intro _ | simp only [kept_mk]

theorem runOn_kept {r s : State} (h : Kept r s) (b : Barge) (key : Nat) (lo : Nat) :
    Kept r (State.runOn s b key lo) := by
  unfold State.runOn
  try dsimp only
  repeat' with_reducible first | assumption | apply draw_kept | refine draw_kept_pair ?_ ‹_› | apply promoteTo_kept | apply foldl_kept | split

theorem forceSlot_kept {r s : State} (h : Kept r s) (b : Barge) (key : Nat) :
    Kept r (State.forceSlot s b key) := by
  unfold State.forceSlot
  try dsimp only
  repeat' with_reducible first | assumption | apply count_kept | apply runOn_kept | apply draw_kept | refine draw_kept_pair ?_ ‹_› | apply foldl_kept | split

theorem forceDrains_kept {r s : State} (h : Kept r s) (b : Barge) :
    Kept r (State.forceDrains s b) := by
  unfold State.forceDrains
  try dsimp only
  repeat' with_reducible first | assumption | apply forceSlot_kept | apply foldl_kept | split | intro _

theorem endArray_kept {r s : State} (h : Kept r s) :
    Kept r (State.endArray s) := by
  unfold State.endArray
  try dsimp only
  repeat' with_reducible first | assumption | apply dropArray_kept | apply forceDrains_kept | apply foldl_kept | split

theorem setCtx_kept {r s : State} (h : Kept r s) (c : Nat) (x : Ctx) :
    Kept r (State.setCtx s c x) := by
  unfold State.setCtx
  try dsimp only
  repeat' with_reducible first | assumption | apply foldl_kept | split | intro _ | simp only [kept_mk]

theorem updCtx_kept {r s : State} (h : Kept r s) (c : Nat) (f : Ctx → Ctx) :
    Kept r (State.updCtx s c f) := by
  unfold State.updCtx
  try dsimp only
  repeat' with_reducible first | assumption | apply setCtx_kept

theorem setPhase_kept {r s : State} (h : Kept r s) (c : Nat) (p : Nat) :
    Kept r (State.setPhase s c p) := by
  unfold State.setPhase
  try dsimp only
  repeat' with_reducible first | assumption | apply put_kept

theorem abortCtx_kept {r s : State} (h : Kept r s) (c : Nat) :
    Kept r (State.abortCtx s c) := by
  unfold State.abortCtx
  try dsimp only
  repeat' with_reducible first | assumption | apply updCtx_kept | apply setPhase_kept | apply off_kept | apply foldl_kept | split

theorem abortSteps_kept {r s : State} (h : Kept r s) (cs : List Nat) :
    Kept r (State.abortSteps s cs) := by
  unfold State.abortSteps
  try dsimp only
  repeat' with_reducible first | assumption | apply endCollective_kept | apply endArray_kept | apply on_kept | apply forEach_kept | apply abortCtx_kept | apply foldl_kept | split | intro _ | simp only [kept_mk]

theorem abandon_kept {r s : State} (h : Kept r s) (cs : List Nat) :
    Kept r (State.abandon s cs) := by
  unfold State.abandon
  try dsimp only
  repeat' with_reducible first | assumption | apply forEach_kept | apply sendAbort_kept | apply abortSteps_kept | apply on_kept | apply foldl_kept | split | intro _

theorem setSlot_kept {r s : State} (h : Kept r s) (c : Nat) (j : Nat) (state : Nat) (step : Nat) :
    Kept r (State.setSlot s c j state step) := by
  unfold State.setSlot
  try dsimp only
  repeat' with_reducible first | assumption | apply put_kept

theorem setSector_kept {r s : State} (h : Kept r s) (n : Nat) (x : Sector) :
    Kept r (State.setSector s n x) := by
  unfold State.setSector
  try dsimp only
  repeat' with_reducible first | assumption | apply foldl_kept | split | intro _ | simp only [kept_mk_mem]

theorem store_kept {r s : State} (h : Kept r s) (ws : List (Nat × Byte)) :
    Kept r (State.store s ws) := by
  unfold State.store
  try dsimp only
  repeat' with_reducible first | assumption | apply setByte_kept | apply foldl_kept | split | intro _

theorem settle_kept {r s : State} (h : Kept r s) (n : Nat) :
    Kept r (State.settle s n) := by
  unfold State.settle
  try dsimp only
  repeat' with_reducible first | assumption | apply store_kept | apply setSector_kept | apply foldl_kept | split

theorem markLane_kept {r s : State} (h : Kept r s) (channel : Nat) (pc : Nat) (lane : Nat) (cause : Nat) :
    Kept r (State.markLane s channel pc lane cause) := by
  unfold State.markLane
  try dsimp only
  repeat' with_reducible first | assumption | apply put_kept | apply on_kept | apply event_kept | apply settle_kept | apply foldl_kept | split | intro _

theorem countRun_kept {r s : State} (h : Kept r s) (p : Place) (lane : Option Nat) :
    Kept r (State.countRun s p lane) := by
  unfold State.countRun
  try dsimp only
  repeat' with_reducible first | assumption | apply markLane_kept | apply foldl_kept | split | intro _ | simp only [kept_mk_mem]

theorem measure_kept {r s : State} (h : Kept r s) (i : Nat) (n : Nat) :
    Kept r (State.measure s i n) := by
  unfold State.measure
  try dsimp only
  repeat' with_reducible first | assumption | apply foldl_kept | split | intro _ | simp only [kept_mk]

theorem readSector_kept {r s : State} (h : Kept r s) (n : Nat) :
    Kept r (State.readSector s n).1 := by
  unfold State.readSector
  try dsimp only
  repeat' with_reducible first | assumption | apply count_kept | apply countRun_kept | apply measure_kept | apply foldl_kept | split

theorem readSector_kept_pair {r s : State} (h : Kept r s) (n : Nat) {x y} (e : State.readSector s n = (x, y)) : Kept r x := by
  have k := readSector_kept h n
  rwa [e] at k

theorem uncorrectable_kept {r s : State} (h : Kept r s) (reader : Nat) (n : Nat) :
    Kept r (State.uncorrectable s reader n) := by
  unfold State.uncorrectable
  try dsimp only
  repeat' with_reducible first | assumption | apply setReg64_kept | apply count_kept | apply event_kept | apply foldl_kept | split | intro _ | simp only [kept_mk]

theorem readSectors_kept {r s : State} (h : Kept r s) (reader : Nat) (ns : List Nat) :
    Kept r (s.readSectors reader ns).1 := by
  unfold State.readSectors
  have key : ∀ (l : List Nat) (s : State) (bad : List Nat), Kept r s → Kept r (l.foldl (fun (s, bad) n =>
      if s.isNotable n then
        let (s, r) := s.readSector n
        if r = .uncorrectable then (s.uncorrectable reader n, bad ++ [n]) else (s, bad)
      else (s, bad)) (s, bad)).1 := by
    intro l
    induction l with
    | nil => exact fun _ _ h => h
    | cons n l ih =>
      intro s bad h
      rw [List.foldl_cons]
      dsimp only
      split
      · split
        · exact ih _ _ (uncorrectable_kept (readSector_kept h n) reader n)
        · exact ih _ _ (readSector_kept h n)
      · exact ih _ _ h
  exact key ns s [] h

theorem readSectors_kept_pair {r s : State} (h : Kept r s) (reader : Nat) (ns : List Nat) {x y}
    (e : State.readSectors s reader ns = (x, y)) : Kept r x := by
  have k := readSectors_kept h reader ns
  rwa [e] at k

theorem writeSector_kept {r s : State} (h : Kept r s) (n : Nat) (covered : Nat) :
    Kept r (State.writeSector s n covered) := by
  unfold State.writeSector
  try dsimp only
  repeat' with_reducible first | assumption | apply setSector_kept | apply count_kept | apply readSectors_kept | refine readSectors_kept_pair ?_ ‹_› | apply foldl_kept | split

theorem writeAt_kept {r s : State} (h : Kept r s) (a : Nat) (bs : List Byte) :
    Kept r (State.writeAt s a bs) := by
  unfold State.writeAt
  try dsimp only
  repeat' with_reducible first | assumption | apply writeSector_kept | apply store_kept | apply foldl_kept | split | intro _

theorem abandonCapture_kept {r s : State} (h : Kept r s) (c : Nat) :
    Kept r (State.abandonCapture s c) := by
  unfold State.abandonCapture
  try dsimp only
  repeat' with_reducible first | assumption | apply setSlot_kept | apply writeAt_kept | apply event_kept | apply updCtx_kept | apply foldl_kept | split

theorem storeCodebook_kept {r s : State} (h : Kept r s) (ctx : Nat) (id : Nat) (c : Codebook) :
    Kept r (State.storeCodebook s ctx id c) := by
  unfold State.storeCodebook
  try dsimp only
  repeat' with_reducible first | assumption | apply setReg_kept | apply on_kept | apply put_kept | apply setReg64_kept | apply foldl_kept | split | intro _

theorem claimSlots_kept {r s : State} (h : Kept r s) (c : Nat) (im : Image) :
    Kept r (State.claimSlots s c im) := by
  unfold State.claimSlots
  try dsimp only
  repeat' with_reducible first | assumption | apply put_kept | apply on_kept | apply setReg_kept | apply store_kept | apply foldl_kept | split | intro _

theorem claimArenas_kept {r s : State} (h : Kept r s) (c : Nat) (im : Image) :
    Kept r (State.claimArenas s c im) := by
  unfold State.claimArenas
  try dsimp only
  repeat' with_reducible first | assumption | apply put_kept | apply setReg64_kept

theorem setWindow_kept {r s : State} (h : Kept r s) (bank : Bool) (table : Nat) (w : Nat) (l : List Nat) :
    Kept r (State.setWindow s bank table w l) := by
  unfold State.setWindow
  try dsimp only
  repeat' with_reducible first | assumption | apply foldl_kept | split | intro _ | simp only [kept_mk]

theorem freshLists_kept {r s : State} (h : Kept r s) (im : Image) :
    Kept r (State.freshLists s im) := by
  unfold State.freshLists
  try dsimp only
  repeat' with_reducible first | assumption | apply setWindow_kept | apply foldl_kept | split | intro _

theorem dropClaims_kept {r s : State} (h : Kept r s) (im : Image) :
    Kept r (State.dropClaims s im) := by
  unfold State.dropClaims
  try dsimp only
  repeat' with_reducible first | assumption | apply foldl_kept | split | intro _ | simp only [kept_mk]

theorem setScale_kept {r s : State} (h : Kept r s) (i : Nat) (e : ScaleEntry) :
    Kept r (State.setScale s i e) := by
  unfold State.setScale
  try dsimp only
  repeat' with_reducible first | assumption | apply foldl_kept | split | intro _ | simp only [kept_mk]

theorem freshTables_kept {r s : State} (h : Kept r s) (im : Image) :
    Kept r (State.freshTables s im) := by
  unfold State.freshTables
  try dsimp only
  repeat' with_reducible first | assumption | apply dropClaims_kept | apply setScale_kept | apply foldl_kept | split | intro _

theorem showHistory_kept {r s : State} (h : Kept r s) (c : Nat) :
    Kept r (State.showHistory s c) := by
  unfold State.showHistory
  try dsimp only
  repeat' with_reducible first | assumption | apply put_kept

theorem claimTables_kept {r s : State} (h : Kept r s) (c : Nat) (im : Image) :
    Kept r (State.claimTables s c im) := by
  unfold State.claimTables
  try dsimp only
  repeat' with_reducible first | assumption | apply freshLists_kept | apply freshTables_kept | apply put_kept | apply showHistory_kept

theorem freshStep_kept {r s : State} (h : Kept r s) (c : Nat) :
    Kept r (State.freshStep s c) := by
  unfold State.freshStep
  try dsimp only
  repeat' with_reducible first | assumption | apply setReg_kept | apply setReg64_kept

theorem setCtxState_kept {r s : State} (h : Kept r s) (c : Nat) (v : Nat) :
    Kept r (State.setCtxState s c v) := by
  unfold State.setCtxState
  try dsimp only
  repeat' with_reducible first | assumption | apply put_kept

theorem touch_kept {r s : State} (h : Kept r s) (reader : Nat) (regions : List (Nat × Nat)) :
    Kept r (State.touch s reader regions).1 := by
  unfold State.touch
  try dsimp only
  repeat' with_reducible first | assumption | apply readSectors_kept

theorem touch_kept_pair {r s : State} (h : Kept r s) (reader : Nat) (regions : List (Nat × Nat)) {x y} (e : State.touch s reader regions = (x, y)) : Kept r x := by
  have k := touch_kept h reader regions
  rwa [e] at k

theorem readSlot_kept {r s : State} (h : Kept r s) (c : Nat) (j : Nat) :
    Kept r (State.readSlot s c j).1 := by
  unfold State.readSlot
  try dsimp only
  repeat' with_reducible first | assumption | apply touch_kept

theorem readSlot_kept_pair {r s : State} (h : Kept r s) (c : Nat) (j : Nat) {x y} (e : State.readSlot s c j = (x, y)) : Kept r x := by
  have k := readSlot_kept h c j
  rwa [e] at k

theorem setWardSlot_kept {r s : State} (h : Kept r s) (c : Nat) (j : Nat) (state : Nat) (step : Nat) :
    Kept r (State.setWardSlot s c j state step) := by
  unfold State.setWardSlot
  try dsimp only
  repeat' with_reducible first | assumption | apply put_kept

theorem readSlots_kept {r s : State} (h : Kept r s) (c : Nat) (im : Image) :
    Kept r (State.readSlots s c im) := by
  unfold State.readSlots
  try dsimp only
  repeat' with_reducible first | assumption | apply readSlot_kept | refine readSlot_kept_pair ?_ ‹_› | apply setSlot_kept | apply setWardSlot_kept | apply put_kept | apply foldl_kept | split | intro _

theorem cqWrite_kept {r s : State} (h : Kept r s) (c : Nat) (r1 : BitVec 256) :
    Kept r (State.cqWrite s c r1) := by
  unfold State.cqWrite
  try dsimp only
  repeat' with_reducible first | assumption | apply emit_kept | apply put_kept | apply updCtx_kept | apply raise_kept | apply foldl_kept | split

theorem complete_kept {r s : State} (h : Kept r s) (c : Nat) (tag : Nat) (kind : Nat) (status : Nat) (detail : Nat) :
    Kept r (State.complete s c tag kind status detail) := by
  unfold State.complete
  try dsimp only
  repeat' with_reducible first | assumption | apply cqWrite_kept | apply setCtx_kept | apply count_kept | apply event_kept | apply foldl_kept | split

theorem endEntry_kept {r s : State} (h : Kept r s) (c : Nat) (status : Nat) (detail : Nat) :
    Kept r (State.endEntry s c status detail) := by
  unfold State.endEntry
  try dsimp only
  repeat' with_reducible first | assumption | apply complete_kept | apply tick_kept | apply updCtx_kept | apply foldl_kept | split

theorem skipBad_kept {r s : State} (h : Kept r s) (c n : Nat) : Kept r (s.skipBad c n) := by
  induction n generalizing s with
  | zero => exact h
  | succ n ih =>
    unfold State.skipBad
    repeat' with_reducible first | assumption | apply ih | apply endEntry_kept | split

theorem finish_kept {r s : State} (h : Kept r s) (c : Nat) (status : Nat) (detail : Nat) :
    Kept r (State.finish s c status detail) := by
  unfold State.finish
  try dsimp only
  repeat' with_reducible first | assumption | apply endEntry_kept | apply skipBad_kept

theorem loadDone_kept {r s : State} (h : Kept r s) (c : Nat) (code : Nat) (detail : Nat) :
    Kept r (State.loadDone s c code detail) := by
  unfold State.loadDone
  try dsimp only
  repeat' with_reducible first | assumption | apply finish_kept | apply put_kept

theorem showWiden_kept {r s : State} (h : Kept r s) :
    Kept r (State.showWiden s) := by
  unfold State.showWiden
  try dsimp only
  repeat' with_reducible first | assumption | apply put_kept

theorem accept_kept {r s : State} (h : Kept r s) (c : Nat) (im : Image) :
    Kept r (State.accept s c im) := by
  unfold State.accept
  try dsimp only
  repeat' with_reducible first | assumption | apply storeCodebook_kept | apply updCtx_kept | apply claimSlots_kept | apply claimArenas_kept | apply claimTables_kept | apply freshStep_kept | apply setCtxState_kept | apply setReg64_kept | apply readSlots_kept | apply loadDone_kept | apply event_kept | apply showWiden_kept | apply layStore_kept | apply foldl_kept | split | intro _

theorem setBuddy_kept {r s : State} (h : Kept r s) (c : Nat) (ok : Bool) :
    Kept r (State.setBuddy s c ok) := by
  unfold State.setBuddy
  try dsimp only
  repeat' with_reducible first | assumption | apply updCtx_kept

theorem snapDone_kept {r s : State} (h : Kept r s) (code : Nat) :
    Kept r (State.snapDone s code) := by
  unfold State.snapDone
  try dsimp only
  repeat' with_reducible first | assumption | apply raise_kept | apply put_kept | apply off_kept | apply foldl_kept | split | intro _ | simp only [kept_mk]

theorem acceptBuddy_kept {r s : State} (h : Kept r s) (c : Nat) (warning : Option Nat) :
    Kept r (State.acceptBuddy s c warning) := by
  unfold State.acceptBuddy
  try dsimp only
  repeat' with_reducible first | assumption | apply setBuddy_kept | apply snapDone_kept | apply event_kept | apply foldl_kept | split

theorem checked_kept {r s : State} (h : Kept r s) (pk : Packet) {f : State → State} (hf : ∀ t, Kept r t → Kept r (f t)) :
    Kept r (State.checked s pk f) := by
  unfold State.checked
  try dsimp only
  repeat' with_reducible first | assumption | apply hf | apply count_kept | apply foldl_kept | split

theorem overrun_kept {r s : State} (h : Kept r s) (kind : Nat) :
    Kept r (State.overrun s kind) := by
  unfold State.overrun
  try dsimp only
  repeat' with_reducible first | assumption | apply forEach_kept | apply sendAbort_kept | apply count_kept | apply on_kept | apply measure_kept | apply event_kept | apply abortSteps_kept | apply foldl_kept | split | intro _ | simp only [kept_mk]

theorem takeIndex_kept {r s : State} (h : Kept r s) (own : Nat) (index : Nat) (set : Nat) :
    Kept r (State.takeIndex s own index set) := by
  unfold State.takeIndex
  try dsimp only
  repeat' with_reducible first | assumption | apply setReg64_kept | apply event_kept | apply overrun_kept | apply foldl_kept | split

theorem noteLate_kept {r s : State} (h : Kept r s) (index : Nat) (ns : Nat) :
    Kept r (State.noteLate s index ns) := by
  unfold State.noteLate
  try dsimp only
  repeat' with_reducible first | assumption | apply event_kept | apply count_kept

theorem applyGrant_kept {r s : State} (h : Kept r s) (g : Nat) :
    Kept r (State.applyGrant s g) := by
  unfold State.applyGrant
  try dsimp only
  repeat' with_reducible first | assumption | apply count_kept | apply on_kept | apply put_kept | apply event_kept | apply foldl_kept | split | intro _ | simp only [kept_mk]

theorem takeSched_kept {r s : State} (h : Kept r s) (next : Nat) (index : Nat) (g : Nat) :
    Kept r (State.takeSched s next index g) := by
  unfold State.takeSched
  try dsimp only
  repeat' with_reducible first | assumption | apply takeIndex_kept | apply noteLate_kept | apply setReg64_kept | apply applyGrant_kept | apply foldl_kept | split | intro _ | simp only [kept_mk]

theorem passOn_kept {r s : State} (h : Kept r s) (pk : Packet) {f : Packet → State → State} (hf : ∀ a0 t, Kept r t → Kept r (f a0 t)) :
    Kept r (State.passOn s pk f) := by
  unfold State.passOn
  try dsimp only
  repeat' with_reducible first | assumption | apply hf | apply count_kept | apply foldl_kept | split

theorem toChildren_kept {r s : State} (h : Kept r s) (pk : Packet) :
    Kept r (State.toChildren s pk) := by
  unfold State.toChildren
  try dsimp only
  repeat' with_reducible first | assumption | apply passOn_kept | apply queuePacket_kept | apply foldl_kept | split | intro _

theorem receiveSched_kept {r s : State} (h : Kept r s) (p : Nat) (pk : Packet) :
    Kept r (State.receiveSched s p pk) := by
  unfold State.receiveSched
  try dsimp only
  repeat' with_reducible first | assumption | apply checked_kept | apply takeSched_kept | apply toChildren_kept | apply foldl_kept | split | intro _

theorem holdNeed_kept {r s : State} (h : Kept r s) (need : Nat) :
    Kept r (State.holdNeed s need) := by
  unfold State.holdNeed
  try dsimp only
  repeat' with_reducible first | assumption | apply queuePacket_kept | apply foldl_kept | split | intro _ | simp only [kept_mk]

theorem receiveStretch_kept {r s : State} (h : Kept r s) (p : Nat) (pk : Packet) :
    Kept r (State.receiveStretch s p pk) := by
  unfold State.receiveStretch
  try dsimp only
  repeat' with_reducible first | assumption | apply checked_kept | apply event_kept | apply count_kept | apply holdNeed_kept | apply foldl_kept | split | intro _

theorem passAbort_kept {r s : State} (h : Kept r s) (p : Nat) (pk : Packet) :
    Kept r (State.passAbort s p pk) := by
  unfold State.passAbort
  try dsimp only
  repeat' with_reducible first | assumption | apply passOn_kept | apply queuePacket_kept | apply foldl_kept | split | intro _

theorem actAbort_kept {r s : State} (h : Kept r s) (src : Nat) (index : Nat) (cs : List Nat) :
    Kept r (State.actAbort s src index cs) := by
  unfold State.actAbort
  try dsimp only
  repeat' with_reducible first | assumption | apply event_kept | apply on_kept | apply abortSteps_kept | apply foldl_kept | split | intro _ | simp only [kept_mk]

theorem takeAbort_kept {r s : State} (h : Kept r s) (p : Nat) (pk : Packet) :
    Kept r (State.takeAbort s p pk) := by
  unfold State.takeAbort
  try dsimp only
  repeat' with_reducible first | assumption | apply passAbort_kept | apply actAbort_kept | apply foldl_kept | split | intro _ | simp only [kept_mk]

theorem receiveAbort_kept {r s : State} (h : Kept r s) (p : Nat) (pk : Packet) :
    Kept r (State.receiveAbort s p pk) := by
  unfold State.receiveAbort
  try dsimp only
  repeat' with_reducible first | assumption | apply checked_kept | apply takeAbort_kept | apply foldl_kept | split | intro _

theorem routePacket_kept {r s : State} (h : Kept r s) (d : Nat) (vl : Nat) (pk : Packet) :
    Kept r (State.routePacket s d vl pk) := by
  unfold State.routePacket
  try dsimp only
  repeat' with_reducible first | assumption | apply queuePacket_kept | apply count_kept | apply event_kept | apply foldl_kept | split | intro _ | simp only [kept_mk]

theorem forward_kept {r s : State} (h : Kept r s) (p : Nat) (vl : Nat) (pk : Packet) :
    Kept r (State.forward s p vl pk) := by
  unfold State.forward
  try dsimp only
  repeat' with_reducible first | assumption | apply passOn_kept | apply routePacket_kept | apply foldl_kept | split | intro _

theorem dropStale_kept {r s : State} (h : Kept r s) (c : Nat) :
    Kept r (State.dropStale s c) := by
  unfold State.dropStale
  try dsimp only
  repeat' with_reducible first | assumption | apply updCtx_kept | apply count_kept

theorem setCollective_kept {r s : State} (h : Kept r s) (i : Nat) (n : Nat) :
    Kept r (State.setCollective s i n) := by
  unfold State.setCollective
  try dsimp only
  repeat' with_reducible first | assumption | apply foldl_kept | split | intro _ | simp only [kept_mk]

theorem sendPacket_kept {r s : State} (h : Kept r s) (vl : Nat) (a : PacketArgs) :
    Kept r (State.sendPacket s vl a) := by
  unfold State.sendPacket
  try dsimp only
  repeat' with_reducible first | assumption | apply routePacket_kept | apply foldl_kept | split

theorem sendStream_kept {r s : State} (h : Kept r s) (vl : Nat) (a : PacketArgs) (bs : List Byte) :
    Kept r (State.sendStream s vl a bs) := by
  unfold State.sendStream
  try dsimp only
  repeat' with_reducible first | assumption | apply sendPacket_kept | apply foldl_kept | split | intro _ | simp only [kept_mk]

theorem sendTo_kept {r s : State} (h : Kept r s) (b : Barge) (phase : Nat) (j : Nat) (bs : List Byte) :
    Kept r (State.sendTo s b phase j bs) := by
  unfold State.sendTo
  try dsimp only
  repeat' with_reducible first | assumption | apply sendStream_kept | apply foldl_kept | split

theorem coPass_kept {r s : State} (h : Kept r s) (b : Barge) :
    Kept r (State.coPass s b) := by
  unfold State.coPass
  try dsimp only
  repeat' with_reducible first | assumption | apply sendTo_kept | apply foldl_kept | split | intro _

theorem write_kept {r s : State} (h : Kept r s) (ws : List (Nat × Byte)) :
    Kept r (State.write s ws) := by
  unfold State.write
  try dsimp only
  repeat' with_reducible first | assumption | apply writeSector_kept | apply store_kept | apply foldl_kept | split | intro _

theorem coWrite_kept {r s : State} (h : Kept r s) (b : Barge) (rs : List (List Byte)) :
    Kept r (State.coWrite s b rs) := by
  unfold State.coWrite
  try dsimp only
  repeat' with_reducible first | assumption | apply write_kept

theorem setCstat_kept {r s : State} (h : Kept r s) (bank : Bool) (i : Nat) (e : CStat) :
    Kept r (State.setCstat s bank i e) := by
  unfold State.setCstat
  try dsimp only
  repeat' with_reducible first | assumption | apply foldl_kept | split | intro _ | simp only [kept_mk]

theorem coAgree_kept {r s : State} (h : Kept r s) (b : Barge) (rs : List (List Byte)) :
    Kept r (State.coAgree s b rs) := by
  unfold State.coAgree
  try dsimp only
  repeat' with_reducible first | assumption | apply setScale_kept | apply setCstat_kept | apply foldl_kept | split | intro _

theorem coOutput_kept {r s : State} (h : Kept r s) (b : Barge) :
    Kept r (State.coOutput s b) := by
  unfold State.coOutput
  try dsimp only
  repeat' with_reducible first | assumption | apply coWrite_kept | apply coAgree_kept | apply writeAt_kept | apply foldl_kept | split

theorem updBarge_kept {r s : State} (h : Kept r s) (i : Nat) (f : Barge → Barge) :
    Kept r (State.updBarge s i f) := by
  unfold State.updBarge
  try dsimp only
  repeat' with_reducible first | assumption | apply foldl_kept | split | intro _ | simp only [kept_mk]

theorem showCounts_kept {r s : State} (h : Kept r s) (b : Barge) :
    Kept r (State.showCounts s b) := by
  unfold State.showCounts
  try dsimp only
  repeat' with_reducible first | assumption | apply put_kept | apply on_kept | apply foldl_kept | split | intro _

theorem finishBarge_kept {r s : State} (h : Kept r s) (i : Nat) (start : Nat) (b : Barge) :
    Kept r (State.finishBarge s i start b) := by
  unfold State.finishBarge
  try dsimp only
  repeat' with_reducible first | assumption | apply updBarge_kept | apply event_kept | apply on_kept | apply count_kept | apply showCounts_kept | apply freeArray_kept | apply reportRows_kept | apply complete_kept | apply foldl_kept | split | intro _ | simp only [kept_mk]

theorem tryFinish_kept {r s : State} (h : Kept r s) (i : Nat) :
    Kept r (State.tryFinish s i) := by
  unfold State.tryFinish
  try dsimp only
  repeat' with_reducible first | assumption | apply finishBarge_kept | apply foldl_kept | split

theorem progress_kept {r s : State} (h : Kept r s) (i : Nat) :
    Kept r (State.progress s i) := by
  unfold State.progress
  try dsimp only
  repeat' with_reducible first | assumption | apply setCollective_kept | apply coPass_kept | apply coOutput_kept | apply tryFinish_kept | apply foldl_kept | split

theorem ackPut_kept {r s : State} (h : Kept r s) (k : StreamKey) (n : Nat) :
    Kept r (State.ackPut s k n) := by
  unfold State.ackPut
  try dsimp only
  repeat' with_reducible first | assumption | apply sendPacket_kept

theorem takePut_kept {r s : State} (h : Kept r s) (pk : Packet) :
    Kept r (State.takePut s pk) := by
  unfold State.takePut
  try dsimp only
  repeat' with_reducible first | assumption | apply count_kept | apply progress_kept | apply ackPut_kept | apply foldl_kept | split | intro _ | simp only [kept_mk]

theorem receivePut_kept {r s : State} (h : Kept r s) (pk : Packet) :
    Kept r (State.receivePut s pk) := by
  unfold State.receivePut
  try dsimp only
  repeat' with_reducible first | assumption | apply checked_kept | apply dropStale_kept | apply takePut_kept | apply foldl_kept | split | intro _

theorem takeAck_kept {r s : State} (h : Kept r s) (pk : Packet) :
    Kept r (State.takeAck s pk) := by
  unfold State.takeAck
  try dsimp only
  repeat' with_reducible first | assumption | apply tryFinish_kept | apply foldl_kept | split | intro _ | simp only [kept_mk]

theorem receiveAck_kept {r s : State} (h : Kept r s) (pk : Packet) :
    Kept r (State.receiveAck s pk) := by
  unfold State.receiveAck
  try dsimp only
  repeat' with_reducible first | assumption | apply checked_kept | apply dropStale_kept | apply takeAck_kept | apply foldl_kept | split | intro _

theorem sendAgree_kept {r s : State} (h : Kept r s) (g : Nat) (r1 : Nat) (v : BitVec 64) :
    Kept r (State.sendAgree s g r1 v) := by
  unfold State.sendAgree
  try dsimp only
  repeat' with_reducible first | assumption | apply sendPacket_kept

theorem endAgree_kept {r s : State} (h : Kept r s) (code : Nat) :
    Kept r (State.endAgree s code) := by
  unfold State.endAgree
  try dsimp only
  repeat' with_reducible first | assumption | apply put_kept | apply off_kept | apply foldl_kept | split | intro _ | simp only [kept_mk]

theorem agreeDone_kept {r s : State} (h : Kept r s) (v : BitVec 64) :
    Kept r (State.agreeDone s v) := by
  unfold State.agreeDone
  try dsimp only
  repeat' with_reducible first | assumption | apply endAgree_kept | apply setReg64_kept

theorem tryAgree_kept {r s : State} (h : Kept r s) :
    Kept r (State.tryAgree s) := by
  unfold State.tryAgree
  try dsimp only
  repeat' with_reducible first | assumption | apply sendAgree_kept | apply agreeDone_kept | apply foldl_kept | split | intro _

theorem addValue_kept {r s : State} (h : Kept r s) (r1 : Nat) (v : BitVec 64) :
    Kept r (State.addValue s r1 v) := by
  unfold State.addValue
  try dsimp only
  repeat' with_reducible first | assumption | apply foldl_kept | split | intro _ | simp only [kept_mk]

theorem takeAgree_kept {r s : State} (h : Kept r s) (g : Nat) (r1 : Nat) (v : BitVec 64) :
    Kept r (State.takeAgree s g r1 v) := by
  unfold State.takeAgree
  try dsimp only
  repeat' with_reducible first | assumption | apply tryAgree_kept | apply addValue_kept | apply agreeDone_kept | apply foldl_kept | split | intro _ | simp only [kept_mk]

theorem receiveAgree_kept {r s : State} (h : Kept r s) (pk : Packet) :
    Kept r (State.receiveAgree s pk) := by
  unfold State.receiveAgree
  try dsimp only
  repeat' with_reducible first | assumption | apply checked_kept | apply takeAgree_kept | apply foldl_kept | split | intro _

theorem packetIn_kept {r s : State} (h : Kept r s) (p : Nat) (vl : Nat) (pk : Packet) :
    Kept r (State.packetIn s p vl pk) := by
  unfold State.packetIn
  try dsimp only
  repeat' with_reducible first | assumption | apply receiveSched_kept | apply receiveStretch_kept | apply receiveAbort_kept | apply forward_kept | apply receivePut_kept | apply receiveAck_kept | apply receiveAgree_kept | apply checked_kept | apply foldl_kept | split | intro _

theorem acceptData_kept {r s : State} (h : Kept r s) (p : Nat) (f : BitVec 2048) :
    Kept r (State.acceptData s p f) := by
  unfold State.acceptData
  try dsimp only
  repeat' with_reducible first | assumption | apply setPort_kept | apply sendFlit_kept | apply packetIn_kept | apply foldl_kept | split

theorem setPortState_kept {r s : State} (h : Kept r s) (p : Nat) (v : Nat) :
    Kept r (State.setPortState s p v) := by
  unfold State.setPortState
  try dsimp only
  repeat' with_reducible first | assumption | apply put_kept | apply updPort_kept

theorem partnerUp_kept {r s : State} (h : Kept r s) (p : Nat) (m : Nat) (q : Nat) :
    Kept r (State.partnerUp s p m q) := by
  unfold State.partnerUp
  try dsimp only
  repeat' with_reducible first | assumption | apply put_kept | apply on_kept | apply updPort_kept | apply event_kept | apply setPortState_kept

theorem acceptPartner_kept {r s : State} (h : Kept r s) (p : Nat) :
    Kept r (State.acceptPartner s p) := by
  unfold State.acceptPartner
  try dsimp only
  repeat' with_reducible first | assumption | apply partnerUp_kept | apply foldl_kept | split

theorem bar2Read_kept {r s : State} (h : Kept r s) (a : Nat) (n : Nat) :
    Kept r (State.bar2Read s a n) := by
  unfold State.bar2Read
  try dsimp only
  repeat' with_reducible first | assumption | apply touch_kept | refine touch_kept_pair ?_ ‹_› | apply emit_kept | apply foldl_kept | split

theorem bar2Write_kept {r s : State} (h : Kept r s) (a : Nat) (bs : List Byte) :
    Kept r (State.bar2Write s a bs) := by
  unfold State.bar2Write
  try dsimp only
  repeat' with_reducible first | assumption | apply undefine_kept | apply writeAt_kept | apply count_kept | apply foldl_kept | split

theorem serve_kept {r s : State} (h : Kept r s) (x1 : HeldAccess) :
    Kept r (State.serve s x1) := by
  unfold State.serve
  try dsimp only
  repeat' with_reducible first | assumption | apply bar2Read_kept | apply bar2Write_kept | apply foldl_kept | split

theorem access_kept {r s : State} (h : Kept r s) (r1 : HeldAccess) :
    Kept r (State.access s r1) := by
  unfold State.access
  try dsimp only
  repeat' with_reducible first | assumption | apply serve_kept | apply foldl_kept | split | intro _ | simp only [kept_mk_mem]

theorem dropExport_kept {r s : State} (h : Kept r s) (c : Nat) (cause : Nat) :
    Kept r (State.dropExport s c cause) := by
  unfold State.dropExport
  try dsimp only
  repeat' with_reducible first | assumption | apply put_kept | apply updCtx_kept | apply event_kept | apply foldl_kept | split

theorem dropStreams_kept {r s : State} (h : Kept r s) (c : Nat) :
    Kept r (State.dropStreams s c) := by
  unfold State.dropStreams
  try dsimp only
  repeat' with_reducible first | assumption | apply foldl_kept | split | intro _ | simp only [kept_mk]

theorem advanceEpoch_kept {r s : State} (h : Kept r s) (c : Nat) :
    Kept r (State.advanceEpoch s c) := by
  unfold State.advanceEpoch
  try dsimp only
  repeat' with_reducible first | assumption | apply dropExport_kept | apply tick_kept | apply dropStreams_kept

theorem afterOutage_kept {r s : State} (h : Kept r s) {regs : List (Nat × BitVec 32)} (hr : tblWf regDefault regs = true)
    (rs : List Rec) (m : ModuleState) : Kept r (s.afterOutage regs rs m) :=
  ⟨h.queue, fun _ => hr, fun _ => rfl⟩

theorem nameSuspect_kept {r s : State} (h : Kept r s) :
    Kept r (State.nameSuspect s) := by
  unfold State.nameSuspect
  try dsimp only
  repeat' with_reducible first | assumption | apply event_kept | apply put_kept | apply off_kept | apply foldl_kept | split

theorem startReplay_kept {r s : State} (h : Kept r s) (m : Nat) :
    Kept r (State.startReplay s m) := by
  unfold State.startReplay
  try dsimp only
  repeat' with_reducible first | assumption | apply event_kept | apply nameSuspect_kept | apply put_kept | apply on_kept | apply foldl_kept | split | intro _ | simp only [kept_mk]

theorem afterReset_kept {r s : State} (h : Kept r s) :
    Kept r (State.afterReset s) := by
  unfold State.afterReset
  try dsimp only
  repeat' with_reducible first | assumption | apply startReplay_kept | apply nameSuspect_kept | apply foldl_kept | split | intro _ | simp only [kept_mk]

theorem hostWrite_kept {r s : State} (h : Kept r s) (a : Nat) (w : BitVec 32) :
    Kept r (State.hostWrite s a w) := by
  unfold State.hostWrite
  try dsimp only
  repeat' with_reducible first | assumption | apply setReg_kept

theorem startAgree_kept {r s : State} (h : Kept r s) (g : Nat) (minimum : Bool) :
    Kept r (State.startAgree s g minimum) := by
  unfold State.startAgree
  try dsimp only
  repeat' with_reducible first | assumption | apply on_kept | apply tryAgree_kept | apply addValue_kept | apply sendAgree_kept | apply foldl_kept | split | intro _ | simp only [kept_mk]

theorem agreeCtl_kept {r s : State} (h : Kept r s) (w : Word) :
    Kept r (State.agreeCtl s w) := by
  unfold State.agreeCtl
  try dsimp only
  repeat' with_reducible first | assumption | apply hostWrite_kept | apply put_kept | apply startAgree_kept | apply foldl_kept | split

theorem showAlarms_kept {r s : State} (h : Kept r s) :
    Kept r (State.showAlarms s) := by
  unfold State.showAlarms
  try dsimp only
  repeat' with_reducible first | assumption | apply put_kept

theorem withInterrupt_kept {r s : State} (h : Kept r s) {f : State → State} (hf : ∀ t, Kept r t → Kept r (f t)) :
    Kept r (State.withInterrupt s f) := by
  unfold State.withInterrupt
  try dsimp only
  repeat' with_reducible first | assumption | apply hf | apply showAlarms_kept | apply emit_kept | apply foldl_kept | split

theorem alarm_kept {r s : State} (h : Kept r s) (a : Alarm) (code : BitVec 16) (fields : List (Nat × Nat)) :
    Kept r (State.alarm s a code fields) := by
  unfold State.alarm
  try dsimp only
  repeat' with_reducible first | assumption | apply withInterrupt_kept | apply event_kept | apply foldl_kept | split | intro _ | simp only [kept_mk]

theorem onLk_kept {r s : State} (h : Kept r s) {f : State → State} (hf : ∀ t, Kept r t → Kept r (f t)) :
    Kept r (State.onLk s f) := by
  unfold State.onLk
  try dsimp only
  repeat' with_reducible first | assumption | apply hf | apply foldl_kept | split

theorem answer_kept {r s : State} (h : Kept r s) (r1 : DoeReply) :
    Kept r (State.answer s r1) := by
  unfold State.answer
  try dsimp only
  repeat' with_reducible first | assumption | apply onLk_kept | apply emit_kept | apply foldl_kept | split | intro _

theorem countBlocks_kept {r s : State} (h : Kept r s) (f : Frame) (i : Nat) (b : BlockCount) :
    Kept r (State.countBlocks s f i b) := by
  unfold State.countBlocks
  try dsimp only
  repeat' with_reducible first | assumption | apply count_kept | apply updCtx_kept

theorem feedStats_kept {r s : State} (h : Kept r s) (c : Nat) (fs : List StatFeed) :
    Kept r (State.feedStats s c fs) := by
  unfold State.feedStats
  try dsimp only
  repeat' with_reducible first | assumption | apply setCstat_kept | apply foldl_kept | split | intro _

theorem feedAmax_kept {r s : State} (h : Kept r s) (f : Frame) (i : Nat) (as : List (BitVec 32)) :
    Kept r (State.feedAmax s f i as) := by
  unfold State.feedAmax
  try dsimp only
  repeat' with_reducible first | assumption | apply setScale_kept | apply foldl_kept | split

theorem flagTensor_kept {r s : State} (h : Kept r s) (f : Frame) (i : Nat) :
    Kept r (State.flagTensor s f i) := by
  unfold State.flagTensor
  try dsimp only
  repeat' with_reducible first | assumption | apply event_kept | apply updCtx_kept | apply foldl_kept | split

theorem nonfinite_kept {r s : State} (h : Kept r s) (c : Nat) (eval : Bool) :
    Kept r (State.nonfinite s c eval) := by
  unfold State.nonfinite
  try dsimp only
  repeat' with_reducible first | assumption | apply count_kept | apply updCtx_kept | apply on_kept | apply foldl_kept | split

theorem raiseNonfinite_kept {r s : State} (h : Kept r s) (f : Frame) :
    Kept r (State.raiseNonfinite s f) := by
  unfold State.raiseNonfinite
  try dsimp only
  repeat' with_reducible first | assumption | apply nonfinite_kept

theorem apply_kept {r s : State} (h : Kept r s) (f : Frame) (i : Nat) (r1 : OutResult) :
    Kept r (State.apply s f i r1) := by
  unfold State.apply
  try dsimp only
  repeat' with_reducible first | assumption | apply write_kept | apply count_kept | apply countBlocks_kept | apply feedStats_kept | apply feedAmax_kept | apply flagTensor_kept | apply raiseNonfinite_kept | apply foldl_kept | split

theorem setForMapOut_kept {r s : State} (h : Kept r s) (c : Nat) :
    Kept r (State.setForMapOut s c) := by
  unfold State.setForMapOut
  try dsimp only
  repeat' with_reducible first | assumption | apply foldl_kept | split | intro _ | simp only [kept_mk_mem]

theorem failLane_kept {r s : State} (h : Kept r s) (c : Nat) (pc : Nat) (lane : Nat) :
    Kept r (State.failLane s c pc lane) := by
  unfold State.failLane
  try dsimp only
  repeat' with_reducible first | assumption | apply markLane_kept | apply setForMapOut_kept | apply foldl_kept | split

theorem applyRetrain_kept {r s : State} (h : Kept r s) (c : Nat) (r1 : RetrainReport) :
    Kept r (State.applyRetrain s c r1) := by
  unfold State.applyRetrain
  try dsimp only
  repeat' with_reducible first | assumption | apply failLane_kept | apply setForMapOut_kept | apply foldl_kept | split | intro _

theorem at__kept {r s : State} (h : Kept r s) (now : Nat) :
    Kept r (State.at_ s now) := by
  unfold State.at_
  try dsimp only
  repeat' with_reducible first | assumption | apply setReg64_kept | apply foldl_kept | split

theorem writeTensor_kept {r s : State} (h : Kept r s) (f : Frame) (td : Nat) (rot : Bool) (sluice : Nat) (stats : Option Nat) (ls : Lines) (get : Ix → OutPos) :
    Kept r (State.writeTensor s f td rot sluice stats ls get) := by
  unfold State.writeTensor
  try dsimp only
  repeat' with_reducible first | assumption | apply apply_kept

theorem writeGrad_kept {r s : State} (h : Kept r s) (f : Frame) (td : Nat) (factor : Fv) (ok : Ix → Bool) (total : Ix → Total) :
    Kept r (State.writeGrad s f td factor ok total) := by
  unfold State.writeGrad
  try dsimp only
  repeat' with_reducible first | assumption | apply writeTensor_kept | apply count_kept | apply raiseNonfinite_kept | apply foldl_kept | split

theorem backward_kept {r s : State} (h : Kept r s) (f : Frame) (g : Grad) (e : Nat) :
    Kept r (State.backward s f g e) := by
  unfold State.backward
  try dsimp only
  repeat' with_reducible first | assumption | apply count_kept | apply raiseNonfinite_kept | apply writeGrad_kept | apply foldl_kept | split

theorem badFlit_kept {r s : State} (h : Kept r s) (p : Nat) :
    Kept r (State.badFlit s p) := by
  unfold State.badFlit
  try dsimp only
  repeat' with_reducible first | assumption | apply count_kept

theorem badHyper_kept {r s : State} (h : Kept r s) (f : Frame) (d : BitVec 1024) (off : Nat) :
    Kept r (State.badHyper s f d off) := by
  unfold State.badHyper
  try dsimp only
  repeat' with_reducible first | assumption | apply event_kept | apply on_kept

theorem badTail_kept {r s : State} (h : Kept r s) (c : Nat) :
    Kept r (State.badTail s c) := by
  unfold State.badTail
  try dsimp only
  repeat' with_reducible first | assumption | apply draw_kept | refine draw_kept_pair ?_ ‹_› | apply event_kept

theorem loseWord_kept {r s : State} (h : Kept r s) (w : SramWord) :
    Kept r (State.loseWord s w) := by
  unfold State.loseWord
  try dsimp only
  repeat' with_reducible first | assumption | apply foldl_kept | split | intro _ | simp only [kept_mk]

theorem readWord_kept {r s : State} (h : Kept r s) (w : SramWord) :
    Kept r (State.readWord s w) := by
  unfold State.readWord
  try dsimp only
  repeat' with_reducible first | assumption | apply count_kept | apply event_kept | apply measure_kept | apply foldl_kept | split | intro _ | simp only [kept_mk]

theorem readWords_kept {r s : State} (h : Kept r s) (which : SramWord → Bool) :
    Kept r (State.readWords s which).1 := by
  unfold State.readWords
  try dsimp only
  repeat' with_reducible first | assumption | apply loseWord_kept | apply readWord_kept | apply foldl_kept | split | intro _

theorem readWords_kept_pair {r s : State} (h : Kept r s) (which : SramWord → Bool) {x y} (e : State.readWords s which = (x, y)) : Kept r x := by
  have k := readWords_kept h which
  rwa [e] at k

theorem endEvalAt_kept {r s : State} (h : Kept r s) (b : Barge) :
    Kept r (State.endEvalAt s b) := by
  unfold State.endEvalAt
  try dsimp only
  repeat' with_reducible first | assumption | apply freeArray_kept | apply forgetPuts_kept | apply updCtx_kept | apply complete_kept | apply foldl_kept | split | intro _ | simp only [kept_mk]

theorem endAtRead_kept {r s : State} (h : Kept r s) (b : Barge) :
    Kept r (State.endAtRead s b) := by
  unfold State.endAtRead
  try dsimp only
  repeat' with_reducible first | assumption | apply endEvalAt_kept | apply undefine_kept | apply abandon_kept | apply foldl_kept | split

theorem readingWords_kept {r s : State} (h : Kept r s) (b : Barge) (which : SramWord → Bool) {f : State → State} (hf : ∀ t, Kept r t → Kept r (f t)) :
    Kept r (State.readingWords s b which f) := by
  unfold State.readingWords
  try dsimp only
  repeat' with_reducible first | assumption | apply hf | apply readWords_kept | refine readWords_kept_pair ?_ ‹_› | apply endAtRead_kept | apply foldl_kept | split

theorem begin_kept {r s : State} (h : Kept r s) (i : Nat) (cls : Nat) (op : Nat) {f : Barge → State → State} (hf : ∀ a0 t, Kept r t → Kept r (f a0 t)) :
    ∀ t, State.begin s i cls op f = .next t → Kept r t := by
  unfold State.begin
  intro t ht
  revert ht; (try dsimp only); intro ht
  (repeat' split at ht) <;> (injection ht with ht; subst ht; repeat' with_reducible first | assumption | apply hf | apply updBarge_kept | apply readingWords_kept)

theorem resetEvent_kept {r s : State} (h : Kept r s) (code : BitVec 16) (src : BitVec 16) (fields : List (Nat × Nat)) :
    Kept r (State.resetEvent s code src fields) := by
  unfold State.resetEvent
  try dsimp only
  repeat' with_reducible first | assumption | apply raise_kept | apply event_kept

theorem failEntries_kept {r s : State} (h : Kept r s) (c : Nat) :
    Kept r (State.failEntries s c) := by
  unfold State.failEntries
  try dsimp only
  repeat' with_reducible first | assumption | apply updCtx_kept | apply complete_kept | apply foldl_kept | split | intro _

theorem haltCtx_kept {r s : State} (h : Kept r s) (c : Nat) :
    Kept r (State.haltCtx s c) := by
  unfold State.haltCtx
  try dsimp only
  repeat' with_reducible first | assumption | apply updCtx_kept | apply setCtxState_kept | apply foldl_kept | split

theorem beginReset_kept {r s : State} (h : Kept r s) (recovery : Bool) (orderer : Nat) (afterHang : Bool) :
    Kept r (State.beginReset s recovery orderer afterHang) := by
  unfold State.beginReset
  try dsimp only
  repeat' with_reducible first | assumption | apply put_kept | apply on_kept | apply countField_kept | apply resetEvent_kept | apply forEach_kept | apply failEntries_kept | apply sendAbort_kept | apply abortSteps_kept | apply haltCtx_kept | apply foldl_kept | split | intro _ | simp only [kept_mk]

theorem tearBarges_kept {r s : State} (h : Kept r s) (c : Nat) :
    Kept r (State.tearBarges s c) := by
  unfold State.tearBarges
  try dsimp only
  repeat' with_reducible first | assumption | apply endArray_kept | apply forgetPuts_kept | apply foldl_kept | split | intro _ | simp only [kept_mk]

theorem beginTeardown_kept {r s : State} (h : Kept r s) (c : Nat) :
    Kept r (State.beginTeardown s c) := by
  unfold State.beginTeardown
  try dsimp only
  repeat' with_reducible first | assumption | apply resetEvent_kept | apply put_kept | apply on_kept | apply sendAbort_kept | apply dropStreams_kept | apply haltCtx_kept | apply tearBarges_kept | apply foldl_kept | split

theorem reading_kept {r s : State} (h : Kept r s) (b : Barge) (regions : List (Nat × Nat)) {f : State → State} (hf : ∀ t, Kept r t → Kept r (f t)) :
    Kept r (State.reading s b regions f) := by
  unfold State.reading
  try dsimp only
  repeat' with_reducible first | assumption | apply hf | apply touch_kept | refine touch_kept_pair ?_ ‹_› | apply readingWords_kept | apply endAtRead_kept | apply foldl_kept | split

theorem setQueue_kept {r s : State} (h : Kept r s) (g : Nat) (ts : List Nat) :
    Kept r (State.setQueue s g ts) := by
  unfold State.setQueue
  try dsimp only
  repeat' with_reducible first | assumption | apply foldl_kept | split | intro _ | simp only [kept_mk]

theorem deal_kept {r s : State} (h : Kept r s) (ts : List Nat) :
    Kept r (State.deal s ts) := by
  unfold State.deal
  try dsimp only
  repeat' with_reducible first | assumption | apply setQueue_kept | apply foldl_kept | split | intro _

theorem fetchTiles_kept {r s : State} (h : Kept r s) (g : Nat) (regions : List (Nat × Nat)) :
    Kept r (State.fetchTiles s g regions) := by
  unfold State.fetchTiles
  try dsimp only
  repeat' with_reducible first | assumption | apply foldl_kept | split | intro _ | simp only [kept_mk]

theorem loadLanes_kept {r s : State} (h : Kept r s) (b : Barge) (e : Nat) (t1 : Nat) :
    Kept r (State.loadLanes s b e t1) := by
  unfold State.loadLanes
  try dsimp only
  repeat' with_reducible first | assumption | apply foldl_kept | split | intro _ | simp only [kept_mk]

theorem fetchTask_kept {r s : State} (h : Kept r s) (b : Barge) (e : Nat) (t1 : Nat) :
    Kept r (State.fetchTask s b e t1) := by
  unfold State.fetchTask
  try dsimp only
  repeat' with_reducible first | assumption | apply fetchTiles_kept | apply loadLanes_kept | apply foldl_kept | split

theorem nearEnd_kept {r s : State} (h : Kept r s) (b : Barge) (key : Nat) :
    Kept r (State.nearEnd s b key) := by
  unfold State.nearEnd
  try dsimp only
  repeat' with_reducible first | assumption | apply runOn_kept | apply foldl_kept | split

theorem take_kept {r s : State} (h : Kept r s) (b : Barge) (e : Nat) (k : Nat) (t1 : Nat) :
    Kept r (State.take s b e k t1) := by
  unfold State.take
  try dsimp only
  repeat' with_reducible first | assumption | apply fetchTask_kept | apply nearEnd_kept | apply showEngine_kept | apply foldl_kept | split | intro _ | simp only [kept_mk]

theorem stealFrom_kept {r s : State} (h : Kept r s) (b : Barge) (e : Nat) (k : Nat) (v : Nat) :
    Kept r (State.stealFrom s b e k v) := by
  unfold State.stealFrom
  try dsimp only
  repeat' with_reducible first | assumption | apply take_kept | apply setQueue_kept | apply count_kept | apply foldl_kept | split

theorem waitSplit_kept {r s : State} (h : Kept r s) (e : Nat) :
    Kept r (State.waitSplit s e) := by
  unfold State.waitSplit
  try dsimp only
  repeat' with_reducible first | assumption | apply count_kept | apply showEngine_kept | apply foldl_kept | split | intro _ | simp only [kept_mk]

theorem claim_kept {r s : State} (h : Kept r s) (e : Nat) :
    Kept r (State.claim s e) := by
  unfold State.claim
  try dsimp only
  repeat' with_reducible first | assumption | apply take_kept | apply setQueue_kept | apply stealFrom_kept | apply waitSplit_kept | apply foldl_kept | split

theorem dealOut_kept {r s : State} (h : Kept r s) (tasks : List Nat) :
    Kept r (State.dealOut s tasks) := by
  unfold State.dealOut
  try dsimp only
  repeat' with_reducible first | assumption | apply deal_kept | apply claim_kept | apply foldl_kept | split | intro _

theorem startArray_kept {r s : State} (h : Kept r s) (i : Nat) (b : Barge) (tasks : List Nat) (total : Nat) (stage : Nat) (counts : List Nat) (docs : List Nat) :
    Kept r (State.startArray s i b tasks total stage counts docs) := by
  unfold State.startArray
  try dsimp only
  repeat' with_reducible first | assumption | apply put_kept | apply off_kept | apply on_kept | apply setReg_kept | apply showEngines_kept | apply tryFinish_kept | apply dealOut_kept | apply foldl_kept | split | intro _ | simp only [kept_mk]

theorem showVector_kept {r s : State} (h : Kept r s) (b : Barge) (stage : Nat) :
    Kept r (State.showVector s b stage) := by
  unfold State.showVector
  try dsimp only
  repeat' with_reducible first | assumption | apply put_kept | apply on_kept

theorem startVector_kept {r s : State} (h : Kept r s) (i : Nat) (b : Barge) (regions : List (Nat × Nat)) (stage : Nat) :
    Kept r (State.startVector s i b regions stage) := by
  unfold State.startVector
  try dsimp only
  repeat' with_reducible first | assumption | apply reading_kept | apply startArray_kept | apply showVector_kept | apply foldl_kept | split | intro _

theorem beginVector_kept {r s : State} (h : Kept r s) (i : Nat) (op : Nat) :
    ∀ t, State.beginVector s i op = .next t → Kept r t := by
  unfold State.beginVector
  intro t ht
  refine begin_kept h _ _ _ (fun b u hu => ?_) t ht
  try dsimp only
  repeat' with_reducible first | assumption | apply startVector_kept

theorem refuseBuddy_kept {r s : State} (h : Kept r s) (c : Nat) (code : Nat) :
    Kept r (State.refuseBuddy s c code) := by
  unfold State.refuseBuddy
  try dsimp only
  repeat' with_reducible first | assumption | apply snapDone_kept | apply dropExport_kept | apply setBuddy_kept

theorem judgeBuddy_kept {r s : State} (h : Kept r s) (c : Nat) (tags : Word × Word) :
    Kept r (State.judgeBuddy s c tags) := by
  unfold State.judgeBuddy
  try dsimp only
  repeat' with_reducible first | assumption | apply refuseBuddy_kept | apply event_kept | apply acceptBuddy_kept | apply foldl_kept | split

theorem snapWait_kept {r s : State} (h : Kept r s) (cmd : Nat) (c : Nat) :
    Kept r (State.snapWait s cmd c) := by
  unfold State.snapWait
  try dsimp only
  repeat' with_reducible first | assumption | apply on_kept | apply foldl_kept | split | intro _ | simp only [kept_mk]

theorem bindBuddy_kept {r s : State} (h : Kept r s) (c : Nat) (tags : Option (Word × Word)) :
    Kept r (State.bindBuddy s c tags) := by
  unfold State.bindBuddy
  try dsimp only
  repeat' with_reducible first | assumption | apply snapDone_kept | apply setBuddy_kept | apply judgeBuddy_kept | apply snapWait_kept | apply foldl_kept | split

theorem setBit_kept {r s : State} (h : Kept r s) (f : Fld) (c : Nat) (x : Bool) :
    Kept r (State.setBit s f c x) := by
  unfold State.setBit
  try dsimp only
  repeat' with_reducible first | assumption | apply put_kept

theorem quarantine_kept {r s : State} (h : Kept r s) (c : Nat) :
    Kept r (State.quarantine s c) := by
  unfold State.quarantine
  try dsimp only
  repeat' with_reducible first | assumption | apply put_kept | apply setReg64_kept | apply event_kept | apply setBit_kept | apply foldl_kept | split | intro _ | simp only [kept_mk]

theorem blame_kept {r s : State} (h : Kept r s) (suspects : Nat) :
    Kept r (State.blame s suspects) := by
  unfold State.blame
  try dsimp only
  repeat' with_reducible first | assumption | apply quarantine_kept | apply startReplay_kept | apply foldl_kept | split | intro _ | simp only [kept_mk]

theorem stopBoot_kept {r s : State} (h : Kept r s) (k : Nat) (cause : Nat) (st : Nat) :
    Kept r (State.stopBoot s k cause st) := by
  unfold State.stopBoot
  try dsimp only
  repeat' with_reducible first | assumption | apply put_kept | apply raise_kept | apply event_kept

theorem showCapacity_kept {r s : State} (h : Kept r s) :
    Kept r (State.showCapacity s) := by
  unfold State.showCapacity
  try dsimp only
  repeat' with_reducible first | assumption | apply put_kept | apply setReg64_kept

theorem mapOut_kept {r s : State} (h : Kept r s) (c : Nat) :
    Kept r (State.mapOut s c) := by
  unfold State.mapOut
  try dsimp only
  repeat' with_reducible first | assumption | apply put_kept | apply showCapacity_kept | apply setReg_kept

theorem writePart_kept {r s : State} (h : Kept r s) (p : Nat) (o : Nat) (bs : List Byte) :
    Kept r (State.writePart s p o bs) := by
  unfold State.writePart
  try dsimp only
  repeat' with_reducible first | assumption | apply foldl_kept | split | intro _ | simp only [kept_mk]

theorem logRepair_kept {r s : State} (h : Kept r s) (kind : Nat) (channel : Nat) (row : Nat) :
    Kept r (State.logRepair s kind channel row) := by
  unfold State.logRepair
  try dsimp only
  repeat' with_reducible first | assumption | apply writePart_kept | apply event_kept | apply foldl_kept | split | intro _ | simp only [kept_mk]

theorem noteRow_kept {r s : State} (h : Kept r s) (channel : Nat) (pc : Nat) (row : Nat) :
    Kept r (State.noteRow s channel pc row) := by
  unfold State.noteRow
  try dsimp only
  repeat' with_reducible first | assumption | apply logRepair_kept | apply foldl_kept | split

theorem rewriteRow_kept {r s : State} (h : Kept r s) (ns : List Nat) : Kept r (s.rewriteRow ns).1 := by
  unfold State.rewriteRow
  generalize 0 = k
  induction ns generalizing s k with
  | nil => exact h
  | cons n ns ih =>
    rw [List.foldl_cons]
    dsimp only
    split
    · exact ih (setSector_kept (uncorrectable_kept (readSector_kept h n) _ _) _ _) _
    · exact ih (setSector_kept (readSector_kept h n) _ _) _

theorem rewriteRow_kept_pair {r s : State} (h : Kept r s) (ns : List Nat) {x y} (e : State.rewriteRow s ns = (x, y)) :
    Kept r x := by
  have k := rewriteRow_kept h ns
  rwa [e] at k

theorem repairRow_kept {r s : State} (h : Kept r s) (channel : Nat) (pc : Nat) (row : Nat) :
    Kept r (State.repairRow s channel pc row) := by
  unfold State.repairRow
  try dsimp only
  repeat' with_reducible first | assumption | apply rewriteRow_kept | refine rewriteRow_kept_pair ?_ ‹_› | apply event_kept

theorem repairRows_kept {r s : State} (h : Kept r s) (found : List (Fin 384 × Fin 2 × Nat)) :
    Kept r (State.repairRows s found) := by
  unfold State.repairRows
  try dsimp only
  repeat' with_reducible first | assumption | apply noteRow_kept | apply repairRow_kept | apply foldl_kept | split | intro _

end Sys2Proof.Machine
end

