-- ==== Sys2Proof/Laws/KeptB.lean ====
section
/-! SUPPORT. What operations keep (see Kept), part B: one lemma per operation, each from those of the operations it calls. -/

namespace Sys2Proof.Machine

theorem train_kept {r s : State} (h : Kept r s) (r1 : TrainReport) :
    Kept r (State.train s r1) := by
  unfold State.train
  try dsimp only
  repeat' with_reducible first | assumption | apply repairRows_kept | apply markLane_kept | apply showCapacity_kept | apply mapOut_kept | apply logRepair_kept | apply event_kept | apply foldl_kept | split | intro _ | simp only [kept_mk_mem]

theorem zeroHbm_kept {r s : State} (h : Kept r s) : Kept r s.zeroHbm :=
  ⟨h.queue, h.regs, fun _ => rfl⟩

theorem bringUpHbm_kept {r s : State} (h : Kept r s) (r1 : TrainReport) :
    Kept r (State.bringUpHbm s r1) := by
  unfold State.bringUpHbm
  try dsimp only
  repeat' with_reducible first | assumption | apply mapOut_kept | apply train_kept | apply zeroHbm_kept | apply on_kept | apply foldl_kept | split | intro _

theorem showArraySlow_kept {r s : State} (h : Kept r s) :
    Kept r (State.showArraySlow s) := by
  unfold State.showArraySlow
  try dsimp only
  repeat' with_reducible first | assumption | apply put_kept

theorem setClock_kept {r s : State} (h : Kept r s) (d : Nat) (k : ClockStep) :
    Kept r (State.setClock s d k) := by
  unfold State.setClock
  try dsimp only
  repeat' with_reducible first | assumption | apply showArraySlow_kept | apply put_kept

theorem showClocks_kept {r s : State} (h : Kept r s) :
    Kept r (State.showClocks s) := by
  unfold State.showClocks
  try dsimp only
  repeat' with_reducible first | assumption | apply setClock_kept | apply foldl_kept | split | intro _

theorem relock_kept {r s : State} (h : Kept r s) :
    Kept r (State.relock s) := by
  unfold State.relock
  try dsimp only
  repeat' with_reducible first | assumption | apply on_kept | apply foldl_kept | split | intro _ | simp only [kept_mk]

theorem unlockFtc_kept {r s : State} (h : Kept r s) :
    Kept r (State.unlockFtc s) := by
  unfold State.unlockFtc
  try dsimp only
  repeat' with_reducible first | assumption | apply event_kept | apply on_kept | apply off_kept | apply foldl_kept | split | intro _ | simp only [kept_mk]

theorem checkParents_kept {r s : State} (h : Kept r s) :
    Kept r (State.checkParents s) := by
  unfold State.checkParents
  try dsimp only
  repeat' with_reducible first | assumption | apply unlockFtc_kept | apply foldl_kept | split

theorem linkDown_kept {r s : State} (h : Kept r s) (p : Nat) (cause : Nat) :
    Kept r (State.linkDown s p cause) := by
  unfold State.linkDown
  try dsimp only
  repeat' with_reducible first | assumption | apply setPortState_kept | apply setPort_kept | apply event_kept | apply count_kept | apply checkParents_kept | apply foldl_kept | split | intro _ | simp only [kept_mk]

theorem sendControl_kept {r s : State} (h : Kept r s) (p : Nat) (kind : Nat) (content : List Byte) :
    Kept r (State.sendControl s p kind content) := by
  unfold State.sendControl
  try dsimp only
  repeat' with_reducible first | assumption | apply sendFlit_kept

theorem linkUp_kept {r s : State} (h : Kept r s) (p : Nat) :
    Kept r (State.linkUp s p) := by
  unfold State.linkUp
  try dsimp only
  repeat' with_reducible first | assumption | apply on_kept | apply setPort_kept | apply sendControl_kept

theorem holdPort_kept {r s : State} (h : Kept r s) (p : Nat) (st : Nat) (m : Nat) (q : Nat) :
    Kept r (State.holdPort s p st m q) := by
  unfold State.holdPort
  try dsimp only
  repeat' with_reducible first | assumption | apply setPortState_kept | apply updPort_kept | apply event_kept

theorem meet_kept {r s : State} (h : Kept r s) (p : Nat) (m : Nat) (fab : Nat) (q : Nat) :
    Kept r (State.meet s p m fab q) := by
  unfold State.meet
  try dsimp only
  repeat' with_reducible first | assumption | apply holdPort_kept | apply partnerUp_kept | apply foldl_kept | split

theorem trainPort_kept {r s : State} (h : Kept r s) (ps : List PartnerReport) (p : Nat) :
    Kept r (State.trainPort s ps p) := by
  unfold State.trainPort
  try dsimp only
  repeat' with_reducible first | assumption | apply setPort_kept | apply setPortState_kept | apply linkDown_kept | apply linkUp_kept | apply meet_kept | apply foldl_kept | split

theorem trainPorts_kept {r s : State} (h : Kept r s) (ps : List PartnerReport) :
    Kept r (State.trainPorts s ps) := by
  unfold State.trainPorts
  try dsimp only
  repeat' with_reducible first | assumption | apply trainPort_kept | apply foldl_kept | split | intro _

theorem setLowPower_kept {r s : State} (h : Kept r s) (v : Nat) :
    Kept r (State.setLowPower s v) := by
  unfold State.setLowPower
  try dsimp only
  repeat' with_reducible first | assumption | apply raise_kept | apply event_kept | apply put_kept | apply foldl_kept | split | intro _ | simp only [kept_mk]

theorem showIdle_kept {r s : State} (h : Kept r s) :
    Kept r (State.showIdle s) := by
  unfold State.showIdle
  try dsimp only
  repeat' with_reducible first | assumption | apply setLowPower_kept

theorem enterService_kept {r s : State} (h : Kept r s) (r1 : BootReport) :
    Kept r (State.enterService s r1) := by
  unfold State.enterService
  try dsimp only
  repeat' with_reducible first | assumption | apply relock_kept | apply setReg64_kept | apply trainPorts_kept | apply setReg_kept | apply put_kept | apply showIdle_kept | apply raise_kept | apply event_kept

theorem markOffline_kept {r s : State} (h : Kept r s) (e : Nat) :
    Kept r (State.markOffline s e) := by
  unfold State.markOffline
  try dsimp only
  repeat' with_reducible first | assumption | apply showEngine_kept | apply put_kept | apply foldl_kept | split | intro _ | simp only [kept_mk]

theorem setTest_kept {r s : State} (h : Kept r s) (e : Nat) (x : EngineTest) :
    Kept r (State.setTest s e x) := by
  unfold State.setTest
  try dsimp only
  repeat' with_reducible first | assumption | apply foldl_kept | split | intro _ | simp only [kept_mk]

theorem failAtBoot_kept {r s : State} (h : Kept r s) (e : Nat) (k : Nat) :
    Kept r (State.failAtBoot s e k) := by
  unfold State.failAtBoot
  try dsimp only
  repeat' with_reducible first | assumption | apply markOffline_kept | apply setTest_kept | apply event_kept | apply countField_kept

theorem showTest_kept {r s : State} (h : Kept r s) :
    Kept r (State.showTest s) := by
  unfold State.showTest
  try dsimp only
  repeat' with_reducible first | assumption | apply put_kept | apply setReg64_kept

theorem bootTests_kept {r s : State} (h : Kept r s) (fails : List (EngineId × Fin 16)) :
    Kept r (State.bootTests s fails) := by
  unfold State.bootTests
  try dsimp only
  repeat' with_reducible first | assumption | apply failAtBoot_kept | apply put_kept | apply showEngine_kept | apply on_kept | apply showTest_kept | apply foldl_kept | split | intro _ | simp only [kept_mk]

theorem bootDies_kept {r s : State} (h : Kept r s) (r1 : BootReport) :
    Kept r (State.bootDies s r1) := by
  unfold State.bootDies
  try dsimp only
  repeat' with_reducible first | assumption | apply stopBoot_kept | apply bringUpHbm_kept | apply showClocks_kept | apply enterService_kept | apply bootTests_kept | apply foldl_kept | split

theorem writeDisabled_kept {r s : State} (h : Kept r s) :
    Kept r (State.writeDisabled s) := by
  unfold State.writeDisabled
  try dsimp only
  repeat' with_reducible first | assumption | apply put_kept | apply foldl_kept | split | intro _

theorem writeSite_kept {r s : State} (h : Kept r s) (b : List Byte) :
    Kept r (State.writeSite s b) := by
  unfold State.writeSite
  try dsimp only
  repeat' with_reducible first | assumption | apply put_kept | apply setReg_kept | apply foldl_kept | split | intro _

theorem showFirmware_kept {r s : State} (h : Kept r s) :
    Kept r (State.showFirmware s) := by
  unfold State.showFirmware
  try dsimp only
  repeat' with_reducible first | assumption | apply setReg_kept

theorem measureBlock_kept {r s : State} (h : Kept r s) (i : Nat) (digest : List Byte) :
    Kept r (State.measureBlock s i digest) := by
  unfold State.measureBlock
  try dsimp only
  repeat' with_reducible first | assumption | apply foldl_kept | split | intro _ | simp only [kept_mk]

theorem startFirmware_kept {r s : State} (h : Kept r s) (b : Bool) :
    Kept r (State.startFirmware s b) := by
  unfold State.startFirmware
  try dsimp only
  repeat' with_reducible first | assumption | apply put_kept | apply setReg_kept | apply showFirmware_kept | apply measureBlock_kept | apply foldl_kept | split | intro _ | simp only [kept_mk]

theorem readLog_kept {r s : State} (h : Kept r s) :
    Kept r (State.readLog s) := by
  unfold State.readLog
  try dsimp only
  repeat' with_reducible first | assumption | apply event_kept | apply foldl_kept | split | intro _ | simp only [kept_mk]

theorem writeGolden_kept {r s : State} (h : Kept r s) (sigs : List (BitVec 64)) :
    Kept r (State.writeGolden s sigs) := by
  unfold State.writeGolden
  try dsimp only
  repeat' with_reducible first | assumption | apply setReg64_kept | apply foldl_kept | split | intro _

theorem bootFirmware_kept {r s : State} (h : Kept r s) (r1 : BootReport) (b : Bool) (j : Nat) :
    Kept r (State.bootFirmware s r1 b j) := by
  unfold State.bootFirmware
  try dsimp only
  repeat' with_reducible first | assumption | apply writeDisabled_kept | apply writeSite_kept | apply put_kept | apply startFirmware_kept | apply stopBoot_kept | apply bootDies_kept | apply readLog_kept | apply writeGolden_kept | apply foldl_kept | split

theorem chooseSite_kept {r s : State} (h : Kept r s) (js : List Nat) : Kept r (s.chooseSite js).1 := by
  induction js generalizing s with
  | nil => exact h
  | cons j js ih =>
    unfold State.chooseSite
    repeat' with_reducible first | assumption | apply ih | apply event_kept | split

theorem chooseSite_kept_pair {r s : State} (h : Kept r s) (js : List Nat) {x y} (e : State.chooseSite s js = (x, y)) :
    Kept r x := by
  have k := chooseSite_kept h js
  rwa [e] at k

theorem setFwWord_kept {r s : State} (h : Kept r s) (b : Bool) (w : Nat) :
    Kept r (State.setFwWord s b w) := by
  unfold State.setFwWord
  try dsimp only
  repeat' with_reducible first | assumption | apply writePart_kept

theorem markBad_kept {r s : State} (h : Kept r s) (b : Bool) :
    Kept r (State.markBad s b) := by
  unfold State.markBad
  try dsimp only
  repeat' with_reducible first | assumption | apply event_kept | apply setFwWord_kept

theorem selectFirmware_kept {r s : State} (h : Kept r s) :
    Kept r (State.selectFirmware s).1 := by
  unfold State.selectFirmware
  try dsimp only
  repeat' with_reducible first | assumption | apply markBad_kept | apply event_kept | apply setFwWord_kept | apply foldl_kept | split | intro _

theorem selectFirmware_kept_pair {r s : State} (h : Kept r s) {x y} (e : State.selectFirmware s = (x, y)) : Kept r x := by
  have k := selectFirmware_kept h 
  rwa [e] at k

theorem takeSite_kept {r s : State} (h : Kept r s) (j : Nat) :
    Kept r (State.takeSite s j) := by
  unfold State.takeSite
  try dsimp only
  repeat' with_reducible first | assumption | apply setReg_kept | apply put_kept | apply measureBlock_kept

theorem bootOwned_kept {r s : State} (h : Kept r s) (r1 : BootReport) :
    Kept r (State.bootOwned s r1) := by
  unfold State.bootOwned
  try dsimp only
  repeat' with_reducible first | assumption | apply chooseSite_kept | refine chooseSite_kept_pair ?_ ‹_› | apply stopBoot_kept | apply selectFirmware_kept | refine selectFirmware_kept_pair ?_ ‹_› | apply takeSite_kept | apply showFirmware_kept | apply bootFirmware_kept | apply foldl_kept | split

theorem storeHeld_kept {r s : State} (h : Kept r s) :
    Kept r (State.storeHeld s) := by
  unfold State.storeHeld
  try dsimp only
  repeat' with_reducible first | assumption | apply count_kept | apply recordEvent_kept | apply foldl_kept | split | intro _ | simp only [kept_mk]

theorem showPairs_kept {r s : State} (h : Kept r s) :
    Kept r (State.showPairs s) := by
  unfold State.showPairs
  try dsimp only
  repeat' with_reducible first | assumption | apply put_kept

theorem startRom_kept {r s : State} (h : Kept r s) (r1 : BootReport) :
    Kept r (State.startRom s r1) := by
  unfold State.startRom
  try dsimp only
  repeat' with_reducible first | assumption | apply measureBlock_kept | apply setReg64_kept | apply storeHeld_kept | apply showPairs_kept | apply put_kept | apply event_kept | apply foldl_kept | split | intro _ | simp only [kept_mk]

theorem bootSequence_kept {r s : State} (h : Kept r s) (r1 : BootReport) :
    Kept r (State.bootSequence s r1) := by
  unfold State.bootSequence
  try dsimp only
  repeat' with_reducible first | assumption | apply showFirmware_kept | apply startRom_kept | apply stopBoot_kept | apply measureBlock_kept | apply bootOwned_kept | apply on_kept | apply foldl_kept | split

theorem setHold_kept {r s : State} (h : Kept r s) (c : Nat) (q : Nat) (h1 : Nat) :
    Kept r (State.setHold s c q h1) := by
  unfold State.setHold
  try dsimp only
  repeat' with_reducible first | assumption | apply updCtx_kept

theorem setLvl_kept {r s : State} (h : Kept r s) (c : Nat) (q : Nat) (l : Nat) :
    Kept r (State.setLvl s c q l) := by
  unfold State.setLvl
  try dsimp only
  repeat' with_reducible first | assumption | apply updCtx_kept

theorem narrow_kept {r s : State} (h : Kept r s) (c : Nat) (q : Nat) :
    Kept r (State.narrow s c q) := by
  unfold State.narrow
  try dsimp only
  repeat' with_reducible first | assumption | apply setHold_kept | apply count_kept | apply setLvl_kept | apply event_kept | apply foldl_kept | split

theorem grantSlots_kept {r s : State} (h : Kept r s) (c : Nat) (qs : List Nat) : Kept r (s.grantSlots c qs) := by
  induction qs generalizing s with
  | nil => exact h
  | cons q qs ih =>
    unfold State.grantSlots
    dsimp only
    repeat' with_reducible first
      | assumption | apply ih | apply event_kept | apply count_kept | apply setHold_kept | apply setLvl_kept | split

theorem grant_kept {r s : State} (h : Kept r s) (c : Nat) :
    Kept r (State.grant s c) := by
  unfold State.grant
  try dsimp only
  repeat' with_reducible first | assumption | apply narrow_kept | apply grantSlots_kept | apply foldl_kept | split | intro _

theorem widenAt_kept {r s : State} (h : Kept r s) (c : Nat) :
    Kept r (State.widenAt s c) := by
  unfold State.widenAt
  try dsimp only
  repeat' with_reducible first | assumption | apply updCtx_kept | apply showWiden_kept | apply grant_kept | apply foldl_kept | split

theorem clearStep_kept {r s : State} (h : Kept r s) (c : Nat) :
    Kept r (State.clearStep s c) := by
  unfold State.clearStep
  try dsimp only
  repeat' with_reducible first | assumption | apply updCtx_kept | apply off_kept

theorem clearSuspect_kept {r s : State} (h : Kept r s) (c : Nat) :
    Kept r (State.clearSuspect s c) := by
  unfold State.clearSuspect
  try dsimp only
  repeat' with_reducible first | assumption | apply nameSuspect_kept | apply setBit_kept | apply foldl_kept | split

theorem boundary_kept {r s : State} (h : Kept r s) (c : Nat) (n : Nat) :
    Kept r (State.boundary s c n) := by
  unfold State.boundary
  try dsimp only
  repeat' with_reducible first | assumption | apply widenAt_kept | apply setReg64_kept | apply updCtx_kept | apply setPhase_kept | apply off_kept | apply clearStep_kept | apply clearSuspect_kept

theorem capture_kept {r s : State} (h : Kept r s) (c : Nat) :
    Kept r (State.capture s c) := by
  unfold State.capture
  try dsimp only
  repeat' with_reducible first | assumption | apply off_kept | apply put_kept | apply event_kept | apply setReg64_kept | apply updCtx_kept | apply on_kept | apply foldl_kept | split

theorem unfeed_kept {r s : State} (h : Kept r s) (c : Nat) :
    Kept r (State.unfeed s c) := by
  unfold State.unfeed
  try dsimp only
  repeat' with_reducible first | assumption | apply foldl_kept | split | intro _ | simp only [kept_mk]

theorem discardFeed_kept {r s : State} (h : Kept r s) (c : Nat) :
    Kept r (State.discardFeed s c) := by
  unfold State.discardFeed
  try dsimp only
  repeat' with_reducible first | assumption | apply count_kept | apply unfeed_kept

theorem clearAmax_kept {r s : State} (h : Kept r s) (c : Nat) :
    Kept r (State.clearAmax s c) := by
  unfold State.clearAmax
  try dsimp only
  repeat' with_reducible first | assumption | apply setScale_kept | apply foldl_kept | split | intro _

theorem clearAborted_kept {r s : State} (h : Kept r s) (c : Nat) :
    Kept r (State.clearAborted s c) := by
  unfold State.clearAborted
  try dsimp only
  repeat' with_reducible first | assumption | apply discardFeed_kept | apply clearAmax_kept | apply clearStep_kept | apply off_kept | apply updCtx_kept | apply foldl_kept | split

theorem clearAlarm_kept {r s : State} (h : Kept r s) (al : Alarm) :
    Kept r (State.clearAlarm s al) := by
  unfold State.clearAlarm
  try dsimp only
  repeat' with_reducible first | assumption | apply withInterrupt_kept | apply foldl_kept | split | intro _ | simp only [kept_mk]

theorem showVerdicts_kept {r s : State} (h : Kept r s) :
    Kept r (State.showVerdicts s) := by
  unfold State.showVerdicts
  try dsimp only
  repeat' with_reducible first | assumption | apply setReg_kept | apply foldl_kept | split | intro _

theorem clearHeld_kept {r s : State} (h : Kept r s) (c : Nat) :
    Kept r (State.clearHeld s c) := by
  unfold State.clearHeld
  try dsimp only
  repeat' with_reducible first | assumption | apply layStore_kept | apply showVerdicts_kept | apply showWiden_kept | apply updCtx_kept

theorem regsReset_kept {r s : State} (h : Kept r s) (d : Domain) : Kept r (s.regsReset d) :=
  ⟨h.queue, fun x => regsAfterReset_wf d (h.regs x), h.mem⟩

theorem dropLists_kept {r s : State} (h : Kept r s) (im : Image) :
    Kept r (State.dropLists s im) := by
  unfold State.dropLists
  try dsimp only
  repeat' with_reducible first | assumption | apply foldl_kept | split | intro _ | simp only [kept_mk]

theorem dropRopes_kept {r s : State} (h : Kept r s) (im : Image) : Kept r (s.dropRopes im) := by
  unfold State.dropRopes
  refine foldl_kept h (fun t e k => ?_)
  have k2 : ∀ p, Kept r { t with mem := { t.mem with cells := t.mem.cells.filter p } } :=
    fun p => ⟨k.queue, k.regs, fun x => tblWf_filter _ _ (k.mem x)⟩
  dsimp only
  split
  · exact put_kept (k2 _) _ _
  · exact k2 _

theorem dropSlots_kept {r s : State} (h : Kept r s) (c : Nat) :
    Kept r (State.dropSlots s c) := by
  unfold State.dropSlots
  try dsimp only
  repeat' with_reducible first | assumption | apply setReg_kept | apply foldl_kept | split | intro _

theorem dropCodebooks_kept {r s : State} (h : Kept r s) (c : Nat) :
    Kept r (State.dropCodebooks s c) := by
  unfold State.dropCodebooks
  try dsimp only
  repeat' with_reducible first | assumption | apply setReg_kept | apply setReg64_kept | apply foldl_kept | split | intro _

theorem clearTables_kept {r s : State} (h : Kept r s) (c : Nat) :
    Kept r (State.clearTables s c) := by
  unfold State.clearTables
  try dsimp only
  repeat' with_reducible first | assumption | apply dropStreams_kept | apply dropLists_kept | apply dropClaims_kept | apply dropRopes_kept | apply dropSlots_kept | apply dropCodebooks_kept

theorem clearCtx_kept {r s : State} (h : Kept r s) (c : Nat) :
    Kept r (State.clearCtx s c) := by
  unfold State.clearCtx
  try dsimp only
  repeat' with_reducible first | assumption | apply clearHeld_kept | apply regsReset_kept | apply clearTables_kept

theorem clearDrops_kept {r s : State} (h : Kept r s) (c : Nat) :
    Kept r (State.clearDrops s c) := by
  unfold State.clearDrops
  try dsimp only
  repeat' with_reducible first | assumption | apply event_kept | apply updCtx_kept | apply foldl_kept | split

theorem emptyCoarse_kept {r s : State} (h : Kept r s) (i : Nat) :
    Kept r (State.emptyCoarse s i) := by
  unfold State.emptyCoarse
  try dsimp only
  repeat' with_reducible first | assumption | apply setScale_kept

theorem clearWord_kept {r s : State} (h : Kept r s) (a : Nat) :
    Kept r (State.clearWord s a) := by
  unfold State.clearWord
  try dsimp only
  repeat' with_reducible first | assumption | apply setWindow_kept | apply setScale_kept | apply emptyCoarse_kept | apply undefine_kept | apply foldl_kept | split | intro _ | simp only [kept_mk]

theorem clearLost_kept {r s : State} (h : Kept r s) :
    Kept r (State.clearLost s) := by
  unfold State.clearLost
  try dsimp only
  repeat' with_reducible first | assumption | apply clearWord_kept | apply foldl_kept | split | intro _ | simp only [kept_mk]

theorem clockEvent_kept {r s : State} (h : Kept r s) (d : Nat) (cause : Nat) :
    Kept r (State.clockEvent s d cause) := by
  unfold State.clockEvent
  try dsimp only
  repeat' with_reducible first | assumption | apply event_kept

theorem closePass_kept {r s : State} (h : Kept r s) (b : Barge) (n : Nat) :
    Kept r (State.closePass s b n) := by
  unfold State.closePass
  try dsimp only
  repeat' with_reducible first | assumption | apply writeAt_kept | apply count_kept | apply event_kept | apply foldl_kept | split | intro _ | simp only [kept_mk]

theorem defer_kept {r s : State} (h : Kept r s) (kind : Nat) (unit : Nat) (src : BitVec 16) :
    Kept r (State.defer s kind unit src) := by
  unfold State.defer
  try dsimp only
  repeat' with_reducible first | assumption | apply event_kept | apply on_kept

theorem eqTask_kept {r s : State} (h : Kept r s) :
    Kept r (State.eqTask s) := by
  unfold State.eqTask
  try dsimp only
  repeat' with_reducible first | assumption | apply defer_kept | apply updPort_kept | apply draw_kept | refine draw_kept_pair ?_ ‹_› | apply sendControl_kept | apply foldl_kept | split | intro _ | simp only [kept_mk]

theorem scrubSector_kept {r s : State} (h : Kept r s) (n : Nat) :
    Kept r (State.scrubSector s n).1 := by
  unfold State.scrubSector
  try dsimp only
  repeat' with_reducible first | assumption | apply readSector_kept | refine readSector_kept_pair ?_ ‹_› | apply count_kept | apply setSector_kept | apply uncorrectable_kept | apply foldl_kept | split

theorem scrubSector_kept_pair {r s : State} (h : Kept r s) (n : Nat) {x y} (e : State.scrubSector s n = (x, y)) : Kept r x := by
  have k := scrubSector_kept h n
  rwa [e] at k

theorem scrubBurst_kept {r s : State} (h : Kept r s) :
    Kept r (State.scrubBurst s) := by
  unfold State.scrubBurst
  try dsimp only
  repeat' with_reducible first | assumption | apply scrubSector_kept | refine scrubSector_kept_pair ?_ ‹_› | apply count_kept | apply put_kept | apply foldl_kept | split | intro _

theorem scrubTask_kept {r s : State} (h : Kept r s) :
    Kept r (State.scrubTask s) := by
  unfold State.scrubTask
  try dsimp only
  repeat' with_reducible first | assumption | apply scrubBurst_kept | apply defer_kept | apply foldl_kept | split

theorem retrainTask_kept {r s : State} (h : Kept r s) :
    Kept r (State.retrainTask s) := by
  unfold State.retrainTask
  try dsimp only
  repeat' with_reducible first | assumption | apply scrubTask_kept | apply put_kept | apply on_kept | apply defer_kept | apply foldl_kept | split | intro _ | simp only [kept_mk_mem]

theorem closeWindow_kept {r s : State} (h : Kept r s) :
    Kept r (State.closeWindow s) := by
  unfold State.closeWindow
  try dsimp only
  repeat' with_reducible first | assumption | apply at__kept | apply overrun_kept | apply eqTask_kept | apply retrainTask_kept | apply foldl_kept | split | intro _ | simp only [kept_mk]

theorem coSendAll_kept {r s : State} (h : Kept r s) (b : Barge) :
    Kept r (State.coSendAll s b) := by
  unfold State.coSendAll
  try dsimp only
  repeat' with_reducible first | assumption | apply sendTo_kept | apply foldl_kept | split | intro _

theorem codebookCmd_kept {r s : State} (h : Kept r s) (w : Word) :
    Kept r (State.codebookCmd s w) := by
  unfold State.codebookCmd
  try dsimp only
  repeat' with_reducible first | assumption | apply put_kept | apply on_kept | apply foldl_kept | split | intro _ | simp only [kept_mk]

theorem placeStaged_kept {r s : State} (h : Kept r s) (b : Barge) :
    Kept r (State.placeStaged s b) := by
  unfold State.placeStaged
  try dsimp only
  repeat' with_reducible first | assumption | apply ackPut_kept | apply foldl_kept | split | intro _ | simp only [kept_mk]

theorem collective_kept {r s : State} (h : Kept r s) (i : Nat) (op : Nat) :
    ∀ t, State.collective s i op = .next t → Kept r t := by
  unfold State.collective
  intro t ht
  refine begin_kept h _ _ _ (fun b u hu => ?_) t ht
  try dsimp only
  repeat' with_reducible first | assumption | apply reading_kept | apply progress_kept | apply coSendAll_kept | apply placeStaged_kept | apply foldl_kept | split | intro _

theorem commitHigh_kept {r s : State} (h : Kept r s) (a : Nat) (w : BitVec 32) :
    Kept r (State.commitHigh s a w) := by
  unfold State.commitHigh
  try dsimp only
  repeat' with_reducible first | assumption | apply hostWrite_kept | apply foldl_kept | split | intro _ | simp only [kept_mk]

theorem compareVerify_kept {r s : State} (h : Kept r s) (c : Nat) (p : BitVec 512) :
    Kept r (State.compareVerify s c p) := by
  unfold State.compareVerify
  try dsimp only
  repeat' with_reducible first | assumption | apply event_kept | apply on_kept | apply off_kept | apply abortSteps_kept | apply foldl_kept | split

theorem takeBlocks_kept {r s : State} (h : Kept r s) (p : Nat) (errors : Nat) :
    Kept r (State.takeBlocks s p errors) := by
  unfold State.takeBlocks
  try dsimp only
  repeat' with_reducible first | assumption | apply setPort_kept | apply count_kept | apply foldl_kept | split

theorem flitIn_kept {r s : State} (h : Kept r s) (p : Nat) (errors : Nat) (f : BitVec 2048) {good : State → State} {bad : State → State} (hgood : ∀ t, Kept r t → Kept r (good t)) (hbad : ∀ t, Kept r t → Kept r (bad t)) :
    Kept r (State.flitIn s p errors f good bad) := by
  unfold State.flitIn
  try dsimp only
  repeat' with_reducible first | assumption | apply hgood | apply hbad | apply takeBlocks_kept | apply badFlit_kept | apply foldl_kept | split

theorem takeLinkFields_kept {r s : State} (h : Kept r s) (p : Nat) (f : BitVec 2048) :
    Kept r (State.takeLinkFields s p f) := by
  unfold State.takeLinkFields
  try dsimp only
  repeat' with_reducible first | assumption | apply updPort_kept | apply pump_kept

theorem controlIn_kept {r s : State} (h : Kept r s) (p : Nat) (errors : Nat) (ty : Nat) (kind : Nat) (f : BitVec 2048) {g : State → State} (hg : ∀ t, Kept r t → Kept r (g t)) :
    Kept r (State.controlIn s p errors ty kind f g) := by
  unfold State.controlIn
  try dsimp only
  repeat' with_reducible first | assumption | apply hg | apply flitIn_kept | apply takeLinkFields_kept | apply foldl_kept | split | intro _

theorem loseRecord_kept {r s : State} (h : Kept r s) (k : Nat) :
    Kept r (State.loseRecord s k) := by
  unfold State.loseRecord
  try dsimp only
  repeat' with_reducible first | assumption | apply foldl_kept | split | intro _ | simp only [kept_mk]

theorem readRecord_kept {r s : State} (h : Kept r s) (i : Nat) :
    Kept r (State.readRecord s i) := by
  unfold State.readRecord
  try dsimp only
  repeat' with_reducible first | assumption | apply loseRecord_kept | apply readWord_kept | apply foldl_kept | split | intro _

theorem showRecord_kept {r s : State} (h : Kept r s) (bits : BitVec 256) (empty : Bool) (ecc : Bool) :
    Kept r (State.showRecord s bits empty ecc) := by
  unfold State.showRecord
  try dsimp only
  repeat' with_reducible first | assumption | apply setReg_kept | apply put_kept | apply off_kept | apply foldl_kept | split | intro _

theorem copyRecord_kept {r s : State} (h : Kept r s) (i : Nat) :
    Kept r (State.copyRecord s i) := by
  unfold State.copyRecord
  try dsimp only
  repeat' with_reducible first | assumption | apply readRecord_kept | apply showRecord_kept | apply foldl_kept | split | intro _ | simp only [kept_mk]

theorem copyRows_kept {r s : State} (h : Kept r s) (d : BitVec 1024) (rows : Nat) :
    Kept r (State.copyRows s d rows) := by
  unfold State.copyRows
  try dsimp only
  repeat' with_reducible first | assumption | apply writeAt_kept | apply foldl_kept | split | intro _

theorem countPass_kept {r s : State} (h : Kept r s) (d : BitVec 1024) (t1 : Nat) :
    Kept r (State.countPass s d t1) := by
  unfold State.countPass
  try dsimp only
  repeat' with_reducible first | assumption | apply foldl_kept | split | intro _ | simp only [kept_mk]

theorem countSample_kept {r s : State} (h : Kept r s) (calm : Bool) :
    Kept r (State.countSample s calm) := by
  unfold State.countSample
  try dsimp only
  repeat' with_reducible first | assumption | apply foldl_kept | split | intro _ | simp only [kept_mk]

theorem supplyAlarm_kept {r s : State} (h : Kept r s) :
    Kept r (State.supplyAlarm s) := by
  unfold State.supplyAlarm
  try dsimp only
  repeat' with_reducible first | assumption | apply alarm_kept

theorem countSlow_kept {r s : State} (h : Kept r s) :
    Kept r (State.countSlow s) := by
  unfold State.countSlow
  try dsimp only
  repeat' with_reducible first | assumption | apply supplyAlarm_kept | apply foldl_kept | split | intro _ | simp only [kept_mk]

theorem cqFlush_kept {r s : State} (h : Kept r s) (c n : Nat) : Kept r (s.cqFlush c n) := by
  induction n generalizing s with
  | zero => exact h
  | succ n ih =>
    unfold State.cqFlush
    repeat' with_reducible first | assumption | apply ih | apply cqWrite_kept | apply updCtx_kept | split

theorem cqDoorbell_kept {r s : State} (h : Kept r s) (c : Nat) (w : Word) :
    Kept r (State.cqDoorbell s c w) := by
  unfold State.cqDoorbell
  try dsimp only
  repeat' with_reducible first | assumption | apply cqFlush_kept | apply hostWrite_kept

theorem cstatSelect_kept {r s : State} (h : Kept r s) (w : Word) :
    Kept r (State.cstatSelect s w) := by
  unfold State.cstatSelect
  try dsimp only
  repeat' with_reducible first | assumption | apply on_kept | apply hostWrite_kept | apply foldl_kept | split | intro _ | simp only [kept_mk]

theorem darkPort_kept {r s : State} (h : Kept r s) (p : Nat) :
    Kept r (State.darkPort s p) := by
  unfold State.darkPort
  try dsimp only
  repeat' with_reducible first | assumption | apply setPortState_kept | apply setPort_kept

theorem stopHeartbeat_kept {r s : State} (h : Kept r s) (row : Nat) :
    Kept r (State.stopHeartbeat s row) := by
  unfold State.stopHeartbeat
  try dsimp only
  repeat' with_reducible first | assumption | apply event_kept | apply foldl_kept | split | intro _ | simp only [kept_mk]

theorem refuseReset_kept {r s : State} (h : Kept r s) (kind : Nat) (code : Nat) :
    Kept r (State.refuseReset s kind code) := by
  unfold State.refuseReset
  try dsimp only
  repeat' with_reducible first | assumption | apply resetEvent_kept | apply put_kept

theorem orderReset_kept {r s : State} (h : Kept r s) (recovery : Bool) (orderer : Nat) (afterHang : Bool) :
    Kept r (State.orderReset s recovery orderer afterHang) := by
  unfold State.orderReset
  try dsimp only
  repeat' with_reducible first | assumption | apply beginReset_kept | apply put_kept | apply refuseReset_kept | apply foldl_kept | split

theorem escalate_kept {r s : State} (h : Kept r s) (conds : List Nat) (queues : Nat) (replay : Bool) :
    Kept r (State.escalate s conds queues replay) := by
  unfold State.escalate
  try dsimp only
  repeat' with_reducible first | assumption | apply stopHeartbeat_kept | apply orderReset_kept | apply foldl_kept | split

theorem declareHang_kept {r s : State} (h : Kept r s) (holds : List Nat) (conds : List Nat) :
    Kept r (State.declareHang s holds conds) := by
  unfold State.declareHang
  try dsimp only
  repeat' with_reducible first | assumption | apply put_kept | apply on_kept | apply setReg64_kept | apply resetEvent_kept | apply escalate_kept | apply blame_kept | apply foldl_kept | split | intro _ | simp only [kept_mk]

theorem declineGroup_kept {r s : State} (h : Kept r s) (c : Nat) (g : Nat) :
    Kept r (State.declineGroup s c g) := by
  unfold State.declineGroup
  try dsimp only
  repeat' with_reducible first | assumption | apply updCtx_kept | apply complete_kept | apply event_kept | apply foldl_kept | split

theorem delayRun_kept {r s : State} (h : Kept r s) (c : Nat) (r1 : Run) (n : Nat) :
    Kept r (State.delayRun s c r1 n) := by
  unfold State.delayRun
  try dsimp only
  repeat' with_reducible first | assumption | apply updCtx_kept

theorem dieThermal_kept {r s : State} (h : Kept r s) (d : Nat) (temp : Half) :
    Kept r (State.dieThermal s d temp) := by
  unfold State.dieThermal
  try dsimp only
  repeat' with_reducible first | assumption | apply clockEvent_kept | apply showClocks_kept | apply foldl_kept | split | intro _ | simp only [kept_mk]

theorem diesDark_kept {r s : State} (h : Kept r s) : Kept r s.diesDark := by
  unfold State.diesDark
  refine foldl_kept ?_ (fun t p k => darkPort_kept k p)
  exact ⟨h.queue, h.regs, fun _ => rfl⟩

theorem drainArray_kept {r s : State} (h : Kept r s) (f : State → List Byte × State)
    (hf : ∀ t, Kept r t → Kept r (f t).2) : Kept r (s.drainArray f).2 := by
  unfold State.drainArray
  split
  · exact hf s h
  · exact updBarge_kept (dropArray_kept (hf _ (forceDrains_kept h _)) _) _ _

theorem noteTask_kept {r s : State} (h : Kept r s) (f : Frame) (j : AttJob) (e : Nat) (t1 : Nat) (work : List (List TileResult)) :
    Kept r (State.noteTask s f j e t1 work) := by
  unfold State.noteTask
  try dsimp only
  repeat' with_reducible first | assumption | apply count_kept | apply raiseNonfinite_kept | apply foldl_kept | split

theorem writeOutputs_kept {r s : State} (h : Kept r s) (f : Frame) (b : BitVec 1024) (c : Nat) (rot : Bool) (ls : Lines) (get : Ix → OutPos) :
    Kept r (State.writeOutputs s f b c rot ls get) := by
  unfold State.writeOutputs
  try dsimp only
  repeat' with_reducible first | assumption | apply writeTensor_kept | apply foldl_kept | split

theorem writeRows_kept {r s : State} (h : Kept r s) (f : Frame) (j : AttJob) (h1 : Nat) (tq : Nat) (get : Ix → BitVec 32) :
    Kept r (State.writeRows s f j h1 tq get) := by
  unfold State.writeRows
  try dsimp only
  repeat' with_reducible first | assumption | apply writeOutputs_kept | apply raiseNonfinite_kept | apply foldl_kept | split

theorem writePlain_kept {r s : State} (h : Kept r s) (t1 : Target) (ls : Lines) (get : Ix → OutPos) :
    Kept r (State.writePlain s t1 ls get) := by
  unfold State.writePlain
  try dsimp only
  repeat' with_reducible first | assumption | apply write_kept

theorem writeLse_kept {r s : State} (h : Kept r s) (f : Frame) (j : AttJob) (h1 : Nat) (tq : Nat) (lse : Nat → BitVec 32) :
    Kept r (State.writeLse s f j h1 tq lse) := by
  unfold State.writeLse
  try dsimp only
  repeat' with_reducible first | assumption | apply writePlain_kept

theorem writeStates_kept {r s : State} (h : Kept r s) (f : Frame) (j : AttJob) (h1 : Nat) (tq : Nat) (sts : List RowState) :
    Kept r (State.writeStates s f j h1 tq sts) := by
  unfold State.writeStates
  try dsimp only
  repeat' with_reducible first | assumption | apply writeRows_kept | apply writeLse_kept | apply count_kept | apply foldl_kept | split | intro _ | simp only [kept_mk]

theorem freeTile_kept {r s : State} (h : Kept r s) (b : Barge) (t1 : Nat) :
    Kept r (State.freeTile s b t1) := by
  unfold State.freeTile
  try dsimp only
  repeat' with_reducible first | assumption | apply foldl_kept | split | intro _ | simp only [kept_mk]

theorem drainForward_kept {r s : State} (h : Kept r s) (b : Barge) (e : Nat) (t1 : Nat) :
    Kept r (State.drainForward s b e t1) := by
  unfold State.drainForward
  try dsimp only
  repeat' with_reducible first | assumption | apply noteTask_kept | apply writeStates_kept | apply freeTile_kept | apply foldl_kept | split | intro _ | simp only [kept_mk]

theorem drainPartial_kept {r s : State} (h : Kept r s) (b : Barge) (e : Nat) (t1 : Nat) :
    Kept r (State.drainPartial s b e t1) := by
  unfold State.drainPartial
  try dsimp only
  repeat' with_reducible first | assumption | apply writeAt_kept | apply noteTask_kept | apply foldl_kept | split | intro _

theorem drainJoin_kept {r s : State} (h : Kept r s) (b : Barge) (t1 : Nat) :
    Kept r (State.drainJoin s b t1) := by
  unfold State.drainJoin
  try dsimp only
  repeat' with_reducible first | assumption | apply writeStates_kept

theorem drainBackward_kept {r s : State} (h : Kept r s) (b : Barge) (e : Nat) (t1 : Nat) :
    Kept r (State.drainBackward s b e t1) := by
  unfold State.drainBackward
  try dsimp only
  repeat' with_reducible first | assumption | apply count_kept | apply backward_kept | apply foldl_kept | split

theorem drainRope_kept {r s : State} (h : Kept r s) (b : Barge) (t1 : Nat) :
    Kept r (State.drainRope s b t1) := by
  unfold State.drainRope
  try dsimp only
  repeat' with_reducible first | assumption | apply writeRows_kept

theorem drainAttention_kept {r s : State} (h : Kept r s) (b : Barge) (e : Nat) (t1 : Nat) :
    Kept r (State.drainAttention s b e t1) := by
  unfold State.drainAttention
  try dsimp only
  repeat' with_reducible first | assumption | apply drainForward_kept | apply drainPartial_kept | apply drainJoin_kept | apply drainBackward_kept | apply drainRope_kept | apply foldl_kept | split

theorem drainTile_kept {r s : State} (h : Kept r s) (f : Frame) (d : BitVec 1024) (p : Product) (t1 : Tile) :
    Kept r (State.drainTile s f d p t1) := by
  unfold State.drainTile
  try dsimp only
  repeat' with_reducible first | assumption | apply writeOutputs_kept | apply count_kept | apply raiseNonfinite_kept | apply foldl_kept | split

theorem drainProduct_kept {r s : State} (h : Kept r s) (b : Barge) (key : Nat) (t1 : Nat) :
    Kept r (State.drainProduct s b key t1) := by
  unfold State.drainProduct
  try dsimp only
  repeat' with_reducible first | assumption | apply promoteTo_kept | apply drainTile_kept | apply freeTile_kept | apply foldl_kept | split | intro _ | simp only [kept_mk]

theorem mapTask_kept {r s : State} (h : Kept r s) (f : Frame) (d : BitVec 1024) (kid : Nat) (t1 : Nat) :
    Kept r (State.mapTask s f d kid t1) := by
  unfold State.mapTask
  try dsimp only
  repeat' with_reducible first | assumption | apply writeOutputs_kept | apply raiseNonfinite_kept | apply foldl_kept | split

theorem noteReduction_kept {r s : State} (h : Kept r s) (f : Frame) (empty : Nat) (bad : Nat) :
    Kept r (State.noteReduction s f empty bad) := by
  unfold State.noteReduction
  try dsimp only
  repeat' with_reducible first | assumption | apply count_kept | apply raiseNonfinite_kept | apply foldl_kept | split

theorem noteRows_kept {r s : State} (h : Kept r s) (f : Frame) (rs : List RedResult) :
    Kept r (State.noteRows s f rs) := by
  unfold State.noteRows
  try dsimp only
  repeat' with_reducible first | assumption | apply noteReduction_kept

theorem rowStage_kept {r s : State} (h : Kept r s) (f : Frame) (d : BitVec 1024) (kid : Nat) (code : Nat) (final : Bool) (rs : List Nat) :
    Kept r (State.rowStage s f d kid code final rs) := by
  unfold State.rowStage
  try dsimp only
  repeat' with_reducible first | assumption | apply noteRows_kept | apply writeAt_kept | apply foldl_kept | split | intro _ | simp only [kept_mk]

theorem reduceRows_kept {r s : State} (h : Kept r s) (f : Frame) (d : BitVec 1024) (rs : List Nat) :
    Kept r (State.reduceRows s f d rs) := by
  unfold State.reduceRows
  try dsimp only
  repeat' with_reducible first | assumption | apply noteReduction_kept | apply writeAt_kept | apply noteRows_kept | apply foldl_kept | split | intro _

theorem listPass_kept {r s : State} (h : Kept r s) (d : BitVec 1024) (t1 : Nat) :
    Kept r (State.listPass s d t1) := by
  unfold State.listPass
  try dsimp only
  repeat' with_reducible first | assumption | apply writeAt_kept | apply foldl_kept | split | intro _

theorem expandTask_kept {r s : State} (h : Kept r s) (b : Barge) (t1 : Nat) :
    Kept r (State.expandTask s b t1) := by
  unfold State.expandTask
  try dsimp only
  repeat' with_reducible first | assumption | apply writeAt_kept | apply event_kept | apply count_kept | apply foldl_kept | split

theorem rotateTask_kept {r s : State} (h : Kept r s) (f : Frame) (d : BitVec 1024) (inverse : Bool) (t1 : Nat) :
    Kept r (State.rotateTask s f d inverse t1) := by
  unfold State.rotateTask
  try dsimp only
  repeat' with_reducible first | assumption | apply writeOutputs_kept

theorem drainVector_kept {r s : State} (h : Kept r s) (b : Barge) (t1 : Nat) :
    Kept r (State.drainVector s b t1) := by
  unfold State.drainVector
  try dsimp only
  repeat' with_reducible first | assumption | apply mapTask_kept | apply rowStage_kept | apply reduceRows_kept | apply countPass_kept | apply listPass_kept | apply expandTask_kept | apply rotateTask_kept | apply foldl_kept | split

theorem drainTask_kept {r s : State} (h : Kept r s) (b : Barge) (key : Nat) (t1 : Nat) :
    Kept r (State.drainTask s b key t1) := by
  unfold State.drainTask
  try dsimp only
  repeat' with_reducible first | assumption | apply drainProduct_kept | apply drainAttention_kept | apply drainVector_kept | apply foldl_kept | split

theorem draws_kept {r s : State} (h : Kept r s) (n : Nat) : Kept r (s.draws n).2 := by
  induction n generalizing s with
  | zero => exact h
  | succ n ih =>
    unfold State.draws
    exact ih (draw_kept h)

theorem draws_kept_pair {r s : State} (h : Kept r s) (n : Nat) {x y} (e : State.draws s n = (x, y)) : Kept r y := by
  have k := draws_kept h n
  rwa [e] at k

theorem emptyDrain_kept {r s : State} (h : Kept r s) (e slot n : Nat) : Kept r (s.emptyDrain e slot n).2 :=
  draws_kept h _

theorem fetch_kept {r s : State} (h : Kept r s) (c : Nat) :
    Kept r (State.fetch s c) := by
  unfold State.fetch
  try dsimp only
  repeat' with_reducible first | assumption | apply put_kept | apply setCtx_kept | apply skipBad_kept | apply foldl_kept | split

theorem resetOver_kept {r s : State} (h : Kept r s) (ms : Word) (result : Nat) :
    Kept r (State.resetOver s ms result) := by
  unfold State.resetOver
  try dsimp only
  repeat' with_reducible first | assumption | apply setReg_kept | apply put_kept | apply off_kept | apply forEach_kept | apply showIdle_kept | apply fetch_kept | apply foldl_kept | split | intro _ | simp only [kept_mk]

theorem tearDown_kept {r s : State} (h : Kept r s) (c : Nat) :
    Kept r (State.tearDown s c) := by
  unfold State.tearDown
  try dsimp only
  repeat' with_reducible first | assumption | apply advanceEpoch_kept | apply complete_kept | apply setCtxState_kept | apply clearHeld_kept | apply clearTables_kept | apply foldl_kept | split

theorem wipe_kept {r s : State} (h : Kept r s) (d : Domain) :
    Kept r (State.wipe s d) := by
  unfold State.wipe
  try dsimp only
  repeat' with_reducible first | assumption | apply regsReset_kept | apply forEach_kept | apply tearDown_kept | apply foldl_kept | split | intro _ | simp only [kept_mk]

theorem endCompute_kept {r s : State} (h : Kept r s) (r1 : ResetRun) (ms : Word) :
    Kept r (State.endCompute s r1 ms) := by
  unfold State.endCompute
  try dsimp only
  repeat' with_reducible first | assumption | apply resetOver_kept | apply wipe_kept | apply afterReset_kept | apply resetEvent_kept | apply foldl_kept | split | intro _ | simp only [kept_mk]

theorem endEqualisation_kept {r s : State} (h : Kept r s) (p : Nat) :
    Kept r (State.endEqualisation s p) := by
  unfold State.endEqualisation
  try dsimp only
  repeat' with_reducible first | assumption | apply updPort_kept | apply pump_kept | apply foldl_kept | split | intro _ | simp only [kept_mk]

theorem erasePart_kept {r s : State} (h : Kept r s) (p : Nat) :
    Kept r (State.erasePart s p) := by
  unfold State.erasePart
  try dsimp only
  repeat' with_reducible first | assumption | apply foldl_kept | split | intro _ | simp only [kept_mk]

theorem fwWrite_kept {r s : State} (h : Kept r s) (offset : Nat) (bs : List Byte) :
    Kept r (State.fwWrite s offset bs) := by
  unfold State.fwWrite
  try dsimp only
  repeat' with_reducible first | assumption | apply writePart_kept | apply erasePart_kept | apply foldl_kept | split

theorem fwCommit_kept {r s : State} (h : Kept r s) :
    Kept r (State.fwCommit s) := by
  unfold State.fwCommit
  try dsimp only
  repeat' with_reducible first | assumption | apply setFwWord_kept | apply writePart_kept

theorem fwConfirm_kept {r s : State} (h : Kept r s) :
    Kept r (State.fwConfirm s) := by
  unfold State.fwConfirm
  try dsimp only
  repeat' with_reducible first | assumption | apply event_kept | apply off_kept | apply setFwWord_kept | apply foldl_kept | split

theorem siteWrite_kept {r s : State} (h : Kept r s) (bs : List Byte) :
    Kept r (State.siteWrite s bs) := by
  unfold State.siteWrite
  try dsimp only
  repeat' with_reducible first | assumption | apply writePart_kept | apply erasePart_kept

theorem enrol_kept {r s : State} (h : Kept r s) (cert : List Byte) :
    Kept r (State.enrol s cert) := by
  unfold State.enrol
  try dsimp only
  repeat' with_reducible first | assumption | apply erasePart_kept | apply on_kept | apply writePart_kept | apply event_kept

theorem release_kept {r s : State} (h : Kept r s) :
    Kept r (State.release s) := by
  unfold State.release
  try dsimp only
  repeat' with_reducible first | assumption | apply event_kept | apply off_kept | apply erasePart_kept

theorem flashEffect_kept {r s : State} (h : Kept r s) (r1 : FlashRun) :
    Kept r (State.flashEffect s r1) := by
  unfold State.flashEffect
  try dsimp only
  repeat' with_reducible first | assumption | apply fwWrite_kept | apply fwCommit_kept | apply fwConfirm_kept | apply siteWrite_kept | apply enrol_kept | apply release_kept | apply foldl_kept | split

theorem endFlash_kept {r s : State} (h : Kept r s) (r1 : FlashRun) :
    Kept r (State.endFlash s r1) := by
  unfold State.endFlash
  try dsimp only
  repeat' with_reducible first | assumption | apply showFirmware_kept | apply flashEffect_kept | apply event_kept | apply setReg64_kept | apply raise_kept | apply off_kept | apply put_kept | apply foldl_kept | split | intro _ | simp only [kept_mk]

theorem releaseHeld_kept {r s : State} (h : Kept r s) :
    Kept r (State.releaseHeld s) := by
  unfold State.releaseHeld
  try dsimp only
  repeat' with_reducible first | assumption | apply serve_kept | apply foldl_kept | split | intro _ | simp only [kept_mk_mem]

theorem retrainIdle_kept {r s : State} (h : Kept r s) (phaseB : Bool) (channel : Nat) :
    Kept r (State.retrainIdle s phaseB channel) := by
  unfold State.retrainIdle
  try dsimp only
  repeat' with_reducible first | assumption | apply releaseHeld_kept | apply put_kept | apply off_kept | apply foldl_kept | split | intro _ | simp only [kept_mk_mem]

theorem retrainOver_kept {r s : State} (h : Kept r s) (phaseB : Bool) (channel : Nat) :
    Kept r (State.retrainOver s phaseB channel) := by
  unfold State.retrainOver
  try dsimp only
  repeat' with_reducible first | assumption | apply retrainIdle_kept | apply scrubTask_kept | apply foldl_kept | split

theorem endPhase_kept {r s : State} (h : Kept r s) (c : Nat) (phaseB : Bool) (x : RetrainReport) :
    Kept r (s.endPhase c phaseB x) := by
  unfold State.endPhase
  dsimp only
  have k := applyRetrain_kept (count_kept (count_kept (at__kept h (s.ftc + min x.ns 1500)) R.MEM_RETRAINS 1)
    R.MEM_STALL_NS (min x.ns 1500)) c x
  revert k
  generalize State.applyRetrain _ c x = t
  intro k
  have k2 := put_kept k F.MEM_RETRAIN_PHASE 1
  repeat' split
  · exact retrainOver_kept k _ _
  · exact retrainOver_kept k _ _
  · exact ⟨k2.queue, k2.regs, k2.mem⟩
  · exact retrainOver_kept (defer_kept k _ _ _) _ _

theorem retestPairs_kept {r s : State} (h : Kept r s) (bad : List (Fin 24)) (out : Nat) :
    Kept r (State.retestPairs s bad out) := by
  unfold State.retestPairs
  try dsimp only
  repeat' with_reducible first | assumption | apply showPairs_kept | apply put_kept

theorem wipeBasin_kept {r s : State} (h : Kept r s) : Kept r s.wipeBasin :=
  ⟨h.queue, h.regs, fun x => tblWf_filter _ _ (h.mem x)⟩

theorem showHot_kept {r s : State} (h : Kept r s) :
    Kept r (State.showHot s) := by
  unfold State.showHot
  try dsimp only
  repeat' with_reducible first | assumption | apply draw_kept | refine draw_kept_pair ?_ ‹_› | apply put_kept | apply foldl_kept | split

theorem setStep_kept {r s : State} (h : Kept r s) (i : Nat) (new : Nat) (t1 : Nat) :
    Kept r (State.setStep s i new t1) := by
  unfold State.setStep
  try dsimp only
  repeat' with_reducible first | assumption | apply showHot_kept | apply put_kept | apply event_kept | apply foldl_kept | split

theorem restoreStack_kept {r s : State} (h : Kept r s) (i : Nat) :
    Kept r (State.restoreStack s i) := by
  unfold State.restoreStack
  try dsimp only
  repeat' with_reducible first | assumption | apply setStep_kept | apply off_kept | apply foldl_kept | split | intro _ | simp only [kept_mk_mem]

theorem restoreStacks_kept {r s : State} (h : Kept r s) :
    Kept r (State.restoreStacks s) := by
  unfold State.restoreStacks
  try dsimp only
  repeat' with_reducible first | assumption | apply restoreStack_kept | apply foldl_kept | split | intro _

theorem loseContents_kept {r s : State} (h : Kept r s) (cause : Nat) : Kept r (s.loseContents cause) := by
  unfold State.loseContents
  refine event_kept (on_kept ?_ _) _ _ _
  refine ⟨h.queue, h.regs, fun x => ?_⟩
  have k := h.mem x
  unfold Memory.wf at *
  exact tblWf_basin s.mem.lost (s.free + 1) k

theorem retrainStacks_kept {r s : State} (h : Kept r s) (r1 : TrainReport) :
    Kept r (State.retrainStacks s r1) := by
  unfold State.retrainStacks
  try dsimp only
  repeat' with_reducible first | assumption | apply train_kept | apply loseContents_kept | apply foldl_kept | split

theorem resumeDies_kept {r s : State} (h : Kept r s) (r1 : RecoveryReport) :
    Kept r (State.resumeDies s r1) := by
  unfold State.resumeDies
  try dsimp only
  repeat' with_reducible first | assumption | apply retestPairs_kept | apply wipeBasin_kept | apply wipe_kept | apply restoreStacks_kept | apply retrainStacks_kept

theorem stayStopped_kept {r s : State} (h : Kept r s) :
    Kept r (State.stayStopped s) := by
  unfold State.stayStopped
  try dsimp only
  repeat' with_reducible first | assumption | apply put_kept | apply foldl_kept | split

theorem failRecovery_kept {r s : State} (h : Kept r s) (ms : Word) :
    Kept r (State.failRecovery s ms) := by
  unfold State.failRecovery
  try dsimp only
  repeat' with_reducible first | assumption | apply resetEvent_kept | apply resetOver_kept | apply stayStopped_kept | apply stopHeartbeat_kept

theorem restartTime_kept {r s : State} (h : Kept r s) (ns : Nat) (period : Nat) :
    Kept r (State.restartTime s ns period) := by
  unfold State.restartTime
  try dsimp only
  repeat' with_reducible first | assumption | apply setReg64_kept | apply foldl_kept | split | intro _ | simp only [kept_mk]

theorem endRecovery_kept {r s : State} (h : Kept r s) (r1 : RecoveryReport) :
    Kept r (State.endRecovery s r1) := by
  unfold State.endRecovery
  try dsimp only
  repeat' with_reducible first | assumption | apply resumeDies_kept | apply failRecovery_kept | apply relock_kept | apply restartTime_kept | apply trainPorts_kept | apply resetEvent_kept | apply resetOver_kept | apply afterReset_kept | apply foldl_kept | split | intro _ | simp only [kept_mk]

theorem interrupt_kept {r s : State} (h : Kept r s) (mine : Barge → Bool) :
    Kept r (State.interrupt s mine) := by
  unfold State.interrupt
  try dsimp only
  repeat' with_reducible first | assumption | apply undefine_kept | apply foldl_kept | split | intro _ | simp only [kept_mk]

theorem endResetDrain_kept {r s : State} (h : Kept r s) (r1 : ResetRun) :
    Kept r (State.endResetDrain s r1) := by
  unfold State.endResetDrain
  try dsimp only
  repeat' with_reducible first | assumption | apply interrupt_kept | apply off_kept | apply forEach_kept | apply capture_kept | apply setReg64_kept | apply releaseHeld_kept | apply darkPort_kept | apply foldl_kept | split | intro _ | simp only [kept_mk]

theorem noteLimit_kept {r s : State} (h : Kept r s) (c : Nat) (idx : Nat) (fmt : Nat) (x : ℤ) :
    Kept r (State.noteLimit s c idx fmt x) := by
  unfold State.noteLimit
  try dsimp only
  repeat' with_reducible first | assumption | apply event_kept | apply count_kept | apply foldl_kept | split

theorem rescale_kept {r s : State} (h : Kept r s) (c : Nat) (idx : Nat) :
    Kept r (State.rescale s c idx) := by
  unfold State.rescale
  try dsimp only
  repeat' with_reducible first | assumption | apply setScale_kept | apply noteLimit_kept | apply foldl_kept | split

theorem writeHistory_kept {r s : State} (h : Kept r s) (c : Nat) (st : Nat) (idx : Nat) :
    Kept r (State.writeHistory s c st idx) := by
  unfold State.writeHistory
  try dsimp only
  repeat' with_reducible first | assumption | apply rescale_kept | apply setScale_kept | apply foldl_kept | split

theorem scaleWork_kept {r s : State} (h : Kept r s) (c : Nat) (st : Nat) :
    Kept r (State.scaleWork s c st) := by
  unfold State.scaleWork
  try dsimp only
  repeat' with_reducible first | assumption | apply writeHistory_kept | apply showHistory_kept | apply setReg64_kept | apply foldl_kept | split | intro _

theorem stopCtx_kept {r s : State} (h : Kept r s) (c : Nat) :
    Kept r (State.stopCtx s c) := by
  unfold State.stopCtx
  try dsimp only
  repeat' with_reducible first | assumption | apply updCtx_kept | apply setCtxState_kept | apply setPhase_kept | apply on_kept

theorem nextRun_kept {r s : State} (h : Kept r s) (c : Nat) (n : Nat) :
    Kept r (State.nextRun s c n) := by
  unfold State.nextRun
  try dsimp only
  repeat' with_reducible first | assumption | apply updCtx_kept | apply stopCtx_kept | apply foldl_kept | split

theorem flip_kept {r s : State} (h : Kept r s) (c : Nat) (n : Nat) :
    Kept r (State.flip s c n) := by
  unfold State.flip
  try dsimp only
  repeat' with_reducible first | assumption | apply off_kept | apply put_kept | apply count_kept | apply updCtx_kept | apply boundary_kept | apply scaleWork_kept | apply setPhase_kept | apply nextRun_kept | apply foldl_kept | split

theorem evalEnd_kept {r s : State} (h : Kept r s) (c : Nat) (n : Nat) :
    Kept r (State.evalEnd s c n) := by
  unfold State.evalEnd
  try dsimp only
  repeat' with_reducible first | assumption | apply off_kept | apply clearSuspect_kept | apply updCtx_kept | apply stopCtx_kept | apply setCtxState_kept | apply foldl_kept | split

theorem startCapture_kept {r s : State} (h : Kept r s) (c : Nat) :
    Kept r (State.startCapture s c) := by
  unfold State.startCapture
  try dsimp only
  repeat' with_reducible first | assumption | apply updCtx_kept | apply event_kept | apply dropExport_kept | apply setSlot_kept | apply writeAt_kept | apply setCtx_kept | apply foldl_kept | split

theorem skipEnd_kept {r s : State} (h : Kept r s) (c : Nat) (n : Nat) :
    Kept r (State.skipEnd s c n) := by
  unfold State.skipEnd
  try dsimp only
  repeat' with_reducible first | assumption | apply countField_kept | apply count_kept | apply event_kept | apply boundary_kept | apply clearAmax_kept | apply discardFeed_kept | apply startCapture_kept | apply stopCtx_kept | apply complete_kept | apply nextRun_kept | apply foldl_kept | split

theorem endRun_kept {r s : State} (h : Kept r s) (c : Nat) (n : Nat) :
    Kept r (State.endRun s c n) := by
  unfold State.endRun
  try dsimp only
  repeat' with_reducible first | assumption | apply flip_kept | apply evalEnd_kept | apply skipEnd_kept | apply foldl_kept | split

theorem passSlice_kept {r s : State} (h : Kept r s) (e : Nat) (k : Nat) (x : EngineTest) :
    Kept r (State.passSlice s e k x) := by
  unfold State.passSlice
  try dsimp only
  repeat' with_reducible first | assumption | apply setTest_kept | apply foldl_kept | split

theorem setSlices_kept {r s : State} (h : Kept r s) (e : Nat) (n : Nat) :
    Kept r (State.setSlices s e n) := by
  unfold State.setSlices
  try dsimp only
  repeat' with_reducible first | assumption | apply foldl_kept | split | intro _ | simp only [kept_mk]

theorem failEngine_kept {r s : State} (h : Kept r s) (e : Nat) (k : Nat) (x : EngineTest) :
    Kept r (State.failEngine s e k x) := by
  unfold State.failEngine
  try dsimp only
  repeat' with_reducible first | assumption | apply setTest_kept | apply event_kept | apply countField_kept | apply markOffline_kept

theorem endSlice_kept {r s : State} (h : Kept r s) (e : Nat) (sig : BitVec 64) :
    Kept r (State.endSlice s e sig) := by
  unfold State.endSlice
  try dsimp only
  repeat' with_reducible first | assumption | apply at__kept | apply passSlice_kept | apply setSlices_kept | apply failEngine_kept | apply showTest_kept | apply foldl_kept | split

theorem endSweep_kept {r s : State} (h : Kept r s) (kind : Nat) (all : Bool) (low : Byte) (high : Byte) (worst : BitVec 5) :
    Kept r (State.endSweep s kind all low high worst) := by
  unfold State.endSweep
  try dsimp only
  repeat' with_reducible first | assumption | apply put_kept | apply off_kept | apply foldl_kept | split | intro _ | simp only [kept_mk_mem]

theorem endTeardown_kept {r s : State} (h : Kept r s) (c : Nat) (us : Nat) :
    Kept r (State.endTeardown s c us) := by
  unfold State.endTeardown
  try dsimp only
  repeat' with_reducible first | assumption | apply interrupt_kept | apply clearCtx_kept | apply advanceEpoch_kept | apply capture_kept | apply setReg_kept | apply setCtxState_kept | apply showIdle_kept | apply resetEvent_kept | apply put_kept

theorem tearFlash_kept {r s : State} (h : Kept r s) :
    Kept r (State.tearFlash s) := by
  unfold State.tearFlash
  try dsimp only
  repeat' with_reducible first | assumption | apply erasePart_kept | apply setFwWord_kept | apply foldl_kept | split | intro _ | simp only [kept_mk]

theorem losePower_kept {r s : State} (h : Kept r s) : Kept r s.losePower := by
  unfold State.losePower
  have k := tearFlash_kept h
  dsimp only
  refine ⟨k.queue, fun x => ?_, fun _ => by simp [Memory.wf, State.afterOutage, tblWf, tblSorted]⟩
  have w := k.regs x
  unfold State.regsWf at *
  refine tblWf_append (regsAfterReset_wf _ (tblWf_filter _ _ w)) (tblWf_filter _ _ w) (fun a ha b hb => ?_)
  obtain ⟨⟨y, hy, e⟩, -⟩ := mem_regsAfterReset ha
  have h1 : y.1 < 0x1C00000 := by simpa using (List.mem_filter.1 hy).2
  have h2 : isModuleReg b.1 = true := (List.mem_filter.1 hb).2
  have h3 : 0x1C00000 ≤ b.1 := by
    simp only [isModuleReg, Bool.and_eq_true, decide_eq_true_eq] at h2
    exact h2.1
  omega

theorem enterOff_kept {r s : State} (h : Kept r s) :
    Kept r (State.enterOff s) := by
  unfold State.enterOff
  try dsimp only
  repeat' with_reducible first | assumption | apply losePower_kept | apply setLowPower_kept | apply foldl_kept | split | intro _ | simp only [kept_mk]

theorem enterStandby_kept {r s : State} (h : Kept r s) :
    Kept r (State.enterStandby s) := by
  unfold State.enterStandby
  try dsimp only
  repeat' with_reducible first | assumption | apply setReg64_kept | apply darkPort_kept | apply setLowPower_kept | apply put_kept | apply foldl_kept | split | intro _ | simp only [kept_mk]

theorem evaluate_kept {r s : State} (h : Kept r s) (now : Nat) :
    Kept r (State.evaluate s now) := by
  unfold State.evaluate
  try dsimp only
  repeat' with_reducible first | assumption | apply overrun_kept | apply put_kept | apply event_kept | apply holdNeed_kept | apply foldl_kept | split | intro _ | simp only [kept_mk]

theorem expireCapture_kept {r s : State} (h : Kept r s) (c : Nat) (n : Nat) :
    Kept r (State.expireCapture s c n) := by
  unfold State.expireCapture
  try dsimp only
  repeat' with_reducible first | assumption | apply abandonCapture_kept | apply foldl_kept | split

theorem failCommit_kept {r s : State} (h : Kept r s) (c : Nat) (v : BitVec 256) (skip : Bool) :
    Kept r (State.failCommit s c v skip) := by
  unfold State.failCommit
  try dsimp only
  repeat' with_reducible first | assumption | apply event_kept | apply count_kept | apply foldl_kept | split

theorem firmwareReads_kept {r s : State} (h : Kept r s) (regions : List (Nat × Nat)) :
    Kept r (State.firmwareReads s regions).1 := by
  unfold State.firmwareReads
  try dsimp only
  repeat' with_reducible first | assumption | apply touch_kept

theorem firmwareReads_kept_pair {r s : State} (h : Kept r s) (regions : List (Nat × Nat)) {x y} (e : State.firmwareReads s regions = (x, y)) : Kept r x := by
  have k := firmwareReads_kept h regions
  rwa [e] at k

theorem flashCmd_kept {r s : State} (h : Kept r s) (w : Word) (given : Option (BitVec 64)) :
    Kept r (State.flashCmd s w given) := by
  unfold State.flashCmd
  try dsimp only
  repeat' with_reducible first | assumption | apply draw_kept | refine draw_kept_pair ?_ ‹_› | apply on_kept | apply foldl_kept | split | intro _ | simp only [kept_mk]

theorem freeQuarantine_kept {r s : State} (h : Kept r s) (w : Word) :
    Kept r (State.freeQuarantine s w) := by
  unfold State.freeQuarantine
  try dsimp only
  repeat' with_reducible first | assumption | apply hostWrite_kept | apply foldl_kept | split | intro _ | simp only [kept_mk]

theorem orderByWatchtower_kept {r s : State} (h : Kept r s) (cause : Nat) :
    Kept r (State.orderByWatchtower s cause) := by
  unfold State.orderByWatchtower
  try dsimp only
  repeat' with_reducible first | assumption | apply orderReset_kept | apply event_kept

theorem graceCheck_kept {r s : State} (h : Kept r s) :
    Kept r (State.graceCheck s) := by
  unfold State.graceCheck
  try dsimp only
  repeat' with_reducible first | assumption | apply orderByWatchtower_kept | apply foldl_kept | split | intro _ | simp only [kept_mk]

theorem groupWrite_kept {r s : State} (h : Kept r s) (w : Word) (x2 : GroupWrite) :
    Kept r (State.groupWrite s w x2) := by
  unfold State.groupWrite
  try dsimp only
  repeat' with_reducible first | assumption | apply hostWrite_kept | apply foldl_kept | split | intro _ | simp only [kept_mk]

theorem haltPair_kept {r s : State} (h : Kept r s) (p : Nat) :
    Kept r (State.haltPair s p) := by
  unfold State.haltPair
  try dsimp only
  repeat' with_reducible first | assumption | apply put_kept | apply showPairs_kept | apply event_kept | apply count_kept | apply orderByWatchtower_kept | apply foldl_kept | split | intro _ | simp only [kept_mk]

theorem holdLow_kept {r s : State} (h : Kept r s) (a : Nat) (w : BitVec 32) :
    Kept r (State.holdLow s a w) := by
  unfold State.holdLow
  try dsimp only
  repeat' with_reducible first | assumption | apply foldl_kept | split | intro _ | simp only [kept_mk]

theorem scaleSelect_kept {r s : State} (h : Kept r s) (w : Word) :
    Kept r (State.scaleSelect s w) := by
  unfold State.scaleSelect
  try dsimp only
  repeat' with_reducible first | assumption | apply on_kept | apply hostWrite_kept | apply foldl_kept | split | intro _ | simp only [kept_mk]

theorem resume_kept {r s : State} (h : Kept r s) (c : Nat) :
    Kept r (State.resume s c) := by
  unfold State.resume
  try dsimp only
  repeat' with_reducible first | assumption | apply clearAborted_kept | apply advanceEpoch_kept | apply setCtxState_kept | apply setPhase_kept | apply off_kept | apply updCtx_kept | apply event_kept

theorem trainCtl_kept {r s : State} (h : Kept r s) (w : Word) :
    Kept r (State.trainCtl s w) := by
  unfold State.trainCtl
  try dsimp only
  repeat' with_reducible first | assumption | apply put_kept | apply resume_kept | apply foldl_kept | split

theorem marginCtl_kept {r s : State} (h : Kept r s) (w : Word) :
    Kept r (State.marginCtl s w) := by
  unfold State.marginCtl
  try dsimp only
  repeat' with_reducible first | assumption | apply hostWrite_kept | apply on_kept | apply put_kept | apply foldl_kept | split | intro _ | simp only [kept_mk_mem]

theorem writeEpoch_kept {r s : State} (h : Kept r s) (c : Nat) (w : Word) :
    Kept r (State.writeEpoch s c w) := by
  unfold State.writeEpoch
  try dsimp only
  repeat' with_reducible first | assumption | apply dropExport_kept | apply setReg_kept | apply dropStreams_kept | apply foldl_kept | split

end Sys2Proof.Machine
end

