-- ==== Sys2Proof/Laws/KeptC.lean ====
section
/-! SUPPORT. What operations keep (see Kept), part C: one lemma per operation, each from those of the operations it calls. -/

namespace Sys2Proof.Machine

theorem writeGroup_kept {r s : State} (h : Kept r s) (t1 : GroupWrite) (w : Word) :
    Kept r (State.writeGroup s t1 w) := by
  unfold State.writeGroup
  try dsimp only
  repeat' with_reducible first | assumption | apply event_kept | apply groupWrite_kept | apply foldl_kept | split

theorem recorderSelect_kept {r s : State} (h : Kept r s) (w : Word) :
    Kept r (State.recorderSelect s w) := by
  unfold State.recorderSelect
  try dsimp only
  repeat' with_reducible first | assumption | apply on_kept | apply hostWrite_kept | apply foldl_kept | split | intro _ | simp only [kept_mk]

theorem orderTeardown_kept {r s : State} (h : Kept r s) (c : Nat) :
    Kept r (State.orderTeardown s c) := by
  unfold State.orderTeardown
  try dsimp only
  repeat' with_reducible first | assumption | apply refuseReset_kept | apply put_kept | apply beginTeardown_kept | apply foldl_kept | split

theorem resetCmd_kept {r s : State} (h : Kept r s) (w : Word) :
    Kept r (State.resetCmd s w) := by
  unfold State.resetCmd
  try dsimp only
  repeat' with_reducible first | assumption | apply orderReset_kept | apply orderTeardown_kept | apply put_kept | apply foldl_kept | split

theorem setFlags_kept {r s : State} (h : Kept r s) (c : Nat) (j : Nat) (flags : Nat) :
    Kept r (State.setFlags s c j flags) := by
  unfold State.setFlags
  try dsimp only
  repeat' with_reducible first | assumption | apply writeAt_kept

theorem signSlot_kept {r s : State} (h : Kept r s) (c : Nat) (j : Nat) :
    Kept r (State.signSlot s c j) := by
  unfold State.signSlot
  try dsimp only
  repeat' with_reducible first | assumption | apply setFlags_kept | apply writeAt_kept

theorem sealed_kept {r s : State} (h : Kept r s) (c : Nat) (j : Nat) :
    Kept r (State.sealed s c j) := by
  unfold State.sealed
  try dsimp only
  repeat' with_reducible first | assumption | apply put_kept | apply snapDone_kept | apply event_kept

theorem orderSeal_kept {r s : State} (h : Kept r s) (c : Nat) :
    Kept r (State.orderSeal s c) := by
  unfold State.orderSeal
  try dsimp only
  repeat' with_reducible first | assumption | apply snapDone_kept | apply firmwareReads_kept | refine firmwareReads_kept_pair ?_ ‹_› | apply signSlot_kept | apply emit_kept | apply updCtx_kept | apply snapWait_kept | apply sealed_kept | apply foldl_kept | split | intro _ | simp only [kept_mk]

theorem refuseRestore_kept {r s : State} (h : Kept r s) (c : Nat) (code : Nat) :
    Kept r (State.refuseRestore s c code) := by
  unfold State.refuseRestore
  try dsimp only
  repeat' with_reducible first | assumption | apply snapDone_kept | apply event_kept

theorem restoreStep_kept {r s : State} (h : Kept r s) (c : Nat) (g : List Byte) :
    Kept r (State.restoreStep s c g) := by
  unfold State.restoreStep
  try dsimp only
  repeat' with_reducible first | assumption | apply writeAt_kept | apply off_kept | apply setReg64_kept | apply put_kept | apply updCtx_kept | apply clearAmax_kept | apply clearStep_kept | apply foldl_kept | split

theorem rebuildTable_kept {r s : State} (h : Kept r s) (c : Nat) (id : Nat) (t1 : BitVec 512) :
    Kept r (State.rebuildTable s c id t1) := by
  unfold State.rebuildTable
  try dsimp only
  repeat' with_reducible first | assumption | apply setWindow_kept | apply updCtx_kept | apply event_kept | apply count_kept | apply foldl_kept | split | intro _

theorem rebuild_kept {r s : State} (h : Kept r s) (c : Nat) :
    Kept r (State.rebuild s c) := by
  unfold State.rebuild
  try dsimp only
  repeat' with_reducible first | assumption | apply updCtx_kept | apply rebuildTable_kept | apply foldl_kept | split | intro _

theorem restoreLists_kept {r s : State} (h : Kept r s) (c : Nat) (stats : List Byte) (lists : List Byte) :
    Kept r (State.restoreLists s c stats lists) := by
  unfold State.restoreLists
  try dsimp only
  repeat' with_reducible first | assumption | apply setCstat_kept | apply unfeed_kept | apply setWindow_kept | apply rebuild_kept | apply foldl_kept | split | intro _

theorem restoreHistory_kept {r s : State} (h : Kept r s) (c : Nat) (ws : List (BitVec 32)) :
    Kept r (State.restoreHistory s c ws) := by
  unfold State.restoreHistory
  try dsimp only
  repeat' with_reducible first | assumption | apply setScale_kept | apply rescale_kept | apply showHistory_kept | apply foldl_kept | split | intro _

theorem restoreWiden_kept {r s : State} (h : Kept r s) (c : Nat) (ws : List (BitVec 32)) :
    Kept r (State.restoreWiden s c ws) := by
  unfold State.restoreWiden
  try dsimp only
  repeat' with_reducible first | assumption | apply updCtx_kept | apply showWiden_kept

theorem restoreEmpty_kept {r s : State} (h : Kept r s) (c : Nat) :
    Kept r (State.restoreEmpty s c) := by
  unfold State.restoreEmpty
  try dsimp only
  repeat' with_reducible first | assumption | apply showHistory_kept | apply freshLists_kept | apply freshTables_kept | apply showWiden_kept | apply updCtx_kept

theorem restoreFrom_kept {r s : State} (h : Kept r s) (c : Nat) (g : List Byte) :
    Kept r (State.restoreFrom s c g) := by
  unfold State.restoreFrom
  try dsimp only
  repeat' with_reducible first | assumption | apply restoreStep_kept | apply restoreLists_kept | apply restoreHistory_kept | apply updCtx_kept | apply restoreWiden_kept | apply on_kept | apply restoreEmpty_kept | apply event_kept | apply snapDone_kept | apply foldl_kept | split

theorem tryRestore_kept {r s : State} (h : Kept r s) (c : Nat) (g : List Byte) (whole : Bool) :
    Kept r (State.tryRestore s c g whole) := by
  unfold State.tryRestore
  try dsimp only
  repeat' with_reducible first | assumption | apply firmwareReads_kept | refine firmwareReads_kept_pair ?_ ‹_› | apply restoreFrom_kept | apply refuseRestore_kept | apply foldl_kept | split

theorem orderRestore_kept {r s : State} (h : Kept r s) (c : Nat) (remote : Option (List Byte)) :
    Kept r (State.orderRestore s c remote) := by
  unfold State.orderRestore
  try dsimp only
  repeat' with_reducible first | assumption | apply refuseRestore_kept | apply firmwareReads_kept | refine firmwareReads_kept_pair ?_ ‹_› | apply tryRestore_kept | apply snapWait_kept | apply foldl_kept | split

theorem orderStart_kept {r s : State} (h : Kept r s) (c : Nat) :
    Kept r (State.orderStart s c) := by
  unfold State.orderStart
  try dsimp only
  repeat' with_reducible first | assumption | apply snapDone_kept | apply updCtx_kept | apply setCtxState_kept | apply off_kept | apply foldl_kept | split

theorem snapCmd_kept {r s : State} (h : Kept r s) (w : Word) (remote : Option (List Byte)) (tags : Option (Word × Word)) :
    Kept r (State.snapCmd s w remote tags) := by
  unfold State.snapCmd
  try dsimp only
  repeat' with_reducible first | assumption | apply snapDone_kept | apply updCtx_kept | apply orderSeal_kept | apply orderRestore_kept | apply bindBuddy_kept | apply orderStart_kept | apply foldl_kept | split

theorem requestActive_kept {r s : State} (h : Kept r s) :
    Kept r (State.requestActive s) := by
  unfold State.requestActive
  try dsimp only
  repeat' with_reducible first | assumption | apply put_kept

theorem refusePower_kept {r s : State} (h : Kept r s) (req : Nat) (code : Nat) :
    Kept r (State.refusePower s req code) := by
  unfold State.refusePower
  try dsimp only
  repeat' with_reducible first | assumption | apply event_kept | apply put_kept

theorem powerRequest_kept {r s : State} (h : Kept r s) (req : Nat) :
    Kept r (State.powerRequest s req) := by
  unfold State.powerRequest
  try dsimp only
  repeat' with_reducible first | assumption | apply put_kept | apply requestActive_kept | apply refusePower_kept | apply enterStandby_kept | apply enterOff_kept | apply foldl_kept | split

theorem restartSq_kept {r s : State} (h : Kept r s) (c : Nat) :
    Kept r (State.restartSq s c) := by
  unfold State.restartSq
  try dsimp only
  repeat' with_reducible first | assumption | apply updCtx_kept | apply put_kept

theorem restartCq_kept {r s : State} (h : Kept r s) (c : Nat) :
    Kept r (State.restartCq s c) := by
  unfold State.restartCq
  try dsimp only
  repeat' with_reducible first | assumption | apply cqFlush_kept | apply updCtx_kept | apply put_kept

theorem writeQueue_kept {r s : State} (h : Kept r s) (c : Nat) (q : QueueSetting) (w : Word) :
    Kept r (State.writeQueue s c q w) := by
  unfold State.writeQueue
  try dsimp only
  repeat' with_reducible first | assumption | apply holdLow_kept | apply restartSq_kept | apply commitHigh_kept | apply hostWrite_kept | apply restartCq_kept | apply foldl_kept | split

theorem wakeUp_kept {r s : State} (h : Kept r s) (w : Word) :
    Kept r (State.wakeUp s w) := by
  unfold State.wakeUp
  try dsimp only
  repeat' with_reducible first | assumption | apply foldl_kept | split | intro _ | simp only [kept_mk]

theorem limitPower_kept {r s : State} (h : Kept r s) (w : Word) :
    Kept r (State.limitPower s w) := by
  unfold State.limitPower
  try dsimp only
  repeat' with_reducible first | assumption | apply put_kept | apply foldl_kept | split

theorem writeMsixCtl_kept {r s : State} (h : Kept r s) (v : Nat) (w : Word) :
    Kept r (State.writeMsixCtl s v w) := by
  unfold State.writeMsixCtl
  try dsimp only
  repeat' with_reducible first | assumption | apply hostWrite_kept | apply raise_kept | apply setReg64_kept | apply foldl_kept | split

theorem showXlate_kept {r s : State} (h : Kept r s) :
    Kept r (State.showXlate s) := by
  unfold State.showXlate
  try dsimp only
  repeat' with_reducible first | assumption | apply setReg_kept | apply foldl_kept | split

theorem writeEffects_kept {r : State} {f : List Nat → Word → State → State} (hf : f ∈ writeEffects.map (·.2))
    {s : State} (h : Kept r s) (is : List Nat) (w : Word) : Kept r (f is w s) := by
  simp only [writeEffects, List.map_cons, List.map_nil, List.mem_cons, List.not_mem_nil, or_false] at hf
  rcases hf with rfl | rfl | rfl | rfl | rfl | rfl | rfl | rfl | rfl | rfl | rfl | rfl | rfl | rfl | rfl | rfl | rfl | rfl |
    rfl | rfl | rfl | rfl | rfl | rfl | rfl | rfl | rfl | rfl | rfl | rfl | rfl <;> (try dsimp only) <;>
  repeat' with_reducible first
    | assumption | apply codebookCmd_kept | apply scaleSelect_kept | apply cstatSelect_kept | apply showEngine_kept
    | apply showWiden_kept | apply showVerdicts_kept | apply showKernels_kept | apply trainCtl_kept | apply marginCtl_kept
    | apply writeEpoch_kept | apply agreeCtl_kept | apply writeGroup_kept | apply acceptPartner_kept | apply showTest_kept
    | apply recorderSelect_kept | apply resetCmd_kept | apply freeQuarantine_kept | apply snapCmd_kept | apply flashCmd_kept
    | apply powerRequest_kept | apply writeQueue_kept | apply cqDoorbell_kept | apply wakeUp_kept | apply limitPower_kept
    | apply writeMsixCtl_kept | apply hostWrite_kept | split

theorem commitEffects_kept {r : State} {f : List Nat → State → State} (hf : f ∈ commitEffects.map (·.2))
    {s : State} (h : Kept r s) (is : List Nat) : Kept r (f is s) := by
  simp only [commitEffects, List.map_cons, List.map_nil, List.mem_cons, List.not_mem_nil, or_false] at hf
  rcases hf with rfl | rfl | rfl
  · exact showXlate_kept h
  · exact restartSq_kept h _
  · exact restartCq_kept h _

theorem mem_of_lookup {α : Type} {t : List (Nat × α)} {k : Nat} {v : α} (h : t.lookup k = some v) : v ∈ t.map (·.2) := by
  induction t with
  | nil => simp at h
  | cons e t ih =>
    rw [List.lookup_cons] at h
    split at h
    · simp_all
    · simp [ih h]

theorem writeRegister_kept {r s : State} (h : Kept r s) (a : Nat) (w : Word) : Kept r (s.writeRegister a w) := by
  unfold State.writeRegister
  repeat' split
  · exact h
  · exact h
  · exact holdLow_kept h _ _
  · rename_i e
    exact commitEffects_kept (mem_of_lookup e) (commitHigh_kept h _ _) _
  · exact commitHigh_kept h _ _
  · rename_i e
    exact writeEffects_kept (mem_of_lookup e) h _ _
  · exact hostWrite_kept h _ _

theorem hostStore_kept {r s : State} (h : Kept r s) (a : Nat) (size : Nat) (w : Word) :
    Kept r (State.hostStore s a size w) := by
  unfold State.hostStore
  try dsimp only
  repeat' with_reducible first | assumption | apply writeRegister_kept | apply foldl_kept | split

theorem refuseImage_kept {r s : State} (h : Kept r s) (c : Nat) (code : Nat) (detail : Nat) :
    Kept r (State.refuseImage s c code detail) := by
  unfold State.refuseImage
  try dsimp only
  repeat' with_reducible first | assumption | apply setCtxState_kept | apply updCtx_kept | apply dropCodebooks_kept | apply loadDone_kept | apply event_kept | apply showIdle_kept

theorem judgeImage_kept {r s : State} (h : Kept r s) (c : Nat) (im : Image) :
    Kept r (State.judgeImage s c im) := by
  unfold State.judgeImage
  try dsimp only
  repeat' with_reducible first | assumption | apply refuseImage_kept | apply accept_kept | apply foldl_kept | split

theorem imageIn_kept {r s : State} (h : Kept r s) (c : Nat) (im : Image) :
    Kept r (State.imageIn s c im) := by
  unfold State.imageIn
  try dsimp only
  repeat' with_reducible first | assumption | apply judgeImage_kept | apply writeAt_kept | apply finish_kept | apply updCtx_kept | apply foldl_kept | split

theorem setLane_kept {r s : State} (h : Kept r s) (e : Nat) (l : Nat) (x : Lane) :
    Kept r (State.setLane s e l x) := by
  unfold State.setLane
  try dsimp only
  repeat' with_reducible first | assumption | apply foldl_kept | split | intro _ | simp only [kept_mk]

theorem issue_kept {r s : State} (h : Kept r s) (e : EngineId) (o : VOp) (f : VFields) :
    Kept r (State.issue s e o f) := by
  unfold State.issue
  try dsimp only
  repeat' with_reducible first | assumption | apply setLane_kept | apply foldl_kept | split | intro _

theorem latch_kept {r s : State} (h : Kept r s) (a : Nat) :
    Kept r (State.latch s a) := by
  unfold State.latch
  try dsimp only
  repeat' with_reducible first | assumption | apply foldl_kept | split | intro _ | simp only [kept_mk]

theorem passCommit_kept {r s : State} (h : Kept r s) (c : Nat) :
    Kept r (State.passCommit s c) := by
  unfold State.passCommit
  try dsimp only
  repeat' with_reducible first | assumption | apply on_kept | apply setReg64_kept | apply updCtx_kept | apply setPhase_kept | apply foldl_kept | split

theorem lateCommit_kept {r s : State} (h : Kept r s) (c : Nat) (v : BitVec 256) :
    Kept r (State.lateCommit s c v) := by
  unfold State.lateCommit
  try dsimp only
  repeat' with_reducible first | assumption | apply passCommit_kept | apply showVerdicts_kept | apply updCtx_kept | apply foldl_kept | split

theorem leaveStandby_kept {r s : State} (h : Kept r s) (r1 : RecoveryReport) :
    Kept r (State.leaveStandby s r1) := by
  unfold State.leaveStandby
  try dsimp only
  repeat' with_reducible first | assumption | apply resumeDies_kept | apply setLowPower_kept | apply stayStopped_kept | apply showIdle_kept | apply put_kept | apply relock_kept | apply restartTime_kept | apply trainPorts_kept | apply foldl_kept | split

theorem missed_kept {r s : State} (h : Kept r s) (t1 : Nat) :
    Kept r (State.missed s t1) := by
  unfold State.missed
  try dsimp only
  repeat' with_reducible first | assumption | apply event_kept | apply on_kept | apply foldl_kept | split

theorem pulse_kept {r s : State} (h : Kept r s) :
    Kept r (State.pulse s) := by
  unfold State.pulse
  try dsimp only
  repeat' with_reducible first | assumption | apply emit_kept | apply foldl_kept | split | intro _ | simp only [kept_mk]

theorem openInterval_kept {r s : State} (h : Kept r s) (t1 : Nat) (n : BitVec 64) :
    Kept r (State.openInterval s t1 n) := by
  unfold State.openInterval
  try dsimp only
  repeat' with_reducible first | assumption | apply setReg_kept | apply setReg64_kept | apply on_kept | apply off_kept | apply foldl_kept | split | intro _ | simp only [kept_mk]

theorem tickDie_kept {r s : State} (h : Kept r s) (n : Nat) (d : Nat) :
    Kept r (State.tickDie s n d) := by
  unfold State.tickDie
  try dsimp only
  repeat' with_reducible first | assumption | apply put_kept | apply on_kept | apply showEngine_kept | apply foldl_kept | split | intro _ | simp only [kept_mk]

theorem tickEngines_kept {r s : State} (h : Kept r s) (n : Nat) :
    Kept r (State.tickEngines s n) := by
  unfold State.tickEngines
  try dsimp only
  repeat' with_reducible first | assumption | apply tickDie_kept | apply countField_kept | apply foldl_kept | split | intro _ | simp only [kept_mk]

theorem stage_kept {r s : State} (h : Kept r s) (c : Nat) (k : PlanKind) (m : Manifest) :
    Kept r (State.stage s c k m) := by
  unfold State.stage
  try dsimp only
  repeat' with_reducible first | assumption | apply tick_kept | apply foldl_kept | split | intro _ | simp only [kept_mk]

theorem stageAt_kept {r s : State} (h : Kept r s) (c : Nat) (n : Nat) (r1 : Run) :
    Kept r (State.stageAt s c n r1) := by
  unfold State.stageAt
  try dsimp only
  repeat' with_reducible first | assumption | apply stage_kept | apply updCtx_kept | apply foldl_kept | split

theorem startEval_kept {r s : State} (h : Kept r s) (c : Nat) :
    Kept r (State.startEval s c) := by
  unfold State.startEval
  try dsimp only
  repeat' with_reducible first | assumption | apply on_kept | apply updCtx_kept

theorem noteBootstrap_kept {r s : State} (h : Kept r s) (c : Nat) (k : PlanKind) :
    Kept r (State.noteBootstrap s c k) := by
  unfold State.noteBootstrap
  try dsimp only
  repeat' with_reducible first | assumption | apply event_kept | apply count_kept | apply foldl_kept | split

theorem startStep_kept {r s : State} (h : Kept r s) (c : Nat) (k : PlanKind) :
    Kept r (State.startStep s c k) := by
  unfold State.startStep
  try dsimp only
  repeat' with_reducible first | assumption | apply updCtx_kept | apply clearAmax_kept | apply clearStep_kept | apply off_kept | apply setPhase_kept | apply on_kept | apply noteBootstrap_kept

theorem stageCtx_kept {r s : State} (h : Kept r s) (c : Nat) (n : Nat) :
    Kept r (State.stageCtx s c n) := by
  unfold State.stageCtx
  try dsimp only
  repeat' with_reducible first | assumption | apply delayRun_kept | apply stageAt_kept | apply startEval_kept | apply declineGroup_kept | apply startStep_kept | apply foldl_kept | split | intro _

theorem lockTick_kept {r s : State} (h : Kept r s) :
    Kept r (State.lockTick s) := by
  unfold State.lockTick
  try dsimp only
  repeat' with_reducible first | assumption | apply closeWindow_kept | apply at__kept | apply forEach_kept | apply missed_kept | apply clearDrops_kept | apply pulse_kept | apply openInterval_kept | apply expireCapture_kept | apply endRun_kept | apply tickEngines_kept | apply stageCtx_kept | apply foldl_kept | split | intro _

theorem lockkeeperLost_kept {r s : State} (h : Kept r s) (w : SramWord) :
    Kept r (State.lockkeeperLost s w) := by
  unfold State.lockkeeperLost
  try dsimp only
  repeat' with_reducible first | assumption | apply loseRecord_kept | apply orderByWatchtower_kept | apply foldl_kept | split

theorem moduleReset_kept {r s : State} (h : Kept r s) : Kept r s.moduleReset := by
  unfold State.moduleReset
  have k := tearFlash_kept h
  refine withInterrupt_kept ?_ (fun t k => off_kept k _)
  exact ⟨k.queue, fun x => regsAfterReset_wf _ (k.regs x), fun _ => by simp [Memory.wf, State.afterOutage, tblWf, tblSorted]⟩

theorem nextStage_kept {r s : State} (h : Kept r s) (b : Barge) :
    Kept r (State.nextStage s b) := by
  unfold State.nextStage
  try dsimp only
  repeat' with_reducible first | assumption | apply reading_kept | apply dealOut_kept | apply showVector_kept | apply foldl_kept | split | intro _ | simp only [kept_mk]

theorem onDies_kept {r s : State} (h : Kept r s) {f : State → State} (hf : ∀ t, Kept r t → Kept r (f t)) :
    Kept r (State.onDies s f) := by
  unfold State.onDies
  try dsimp only
  repeat' with_reducible first | assumption | apply hf | apply foldl_kept | split

theorem onEntry_kept {r s : State} (h : Kept r s) (c : Nat) (op : Nat) {f : BitVec 512 → State → State} (hf : ∀ a0 t, Kept r t → Kept r (f a0 t)) :
    Kept r (State.onEntry s c op f) := by
  unfold State.onEntry
  try dsimp only
  repeat' with_reducible first | assumption | apply hf | apply foldl_kept | split

theorem onModule_kept {r s : State} (h : Kept r s) {f : State → State} (hf : ∀ t, Kept r t → Kept r (f t)) :
    Kept r (State.onModule s f) := by
  unfold State.onModule
  try dsimp only
  repeat' with_reducible first | assumption | apply hf | apply foldl_kept | split

theorem orderEval_kept {r s : State} (h : Kept r s) (c : Nat) (e : BitVec 512) :
    Kept r (State.orderEval s c e) := by
  unfold State.orderEval
  try dsimp only
  repeat' with_reducible first | assumption | apply finish_kept | apply updCtx_kept | apply setCtxState_kept | apply foldl_kept | split

theorem startLoad_kept {r s : State} (h : Kept r s) (c : Nat) (hbm : Bool) (e : BitVec 512) :
    Kept r (State.startLoad s c hbm e) := by
  unfold State.startLoad
  try dsimp only
  repeat' with_reducible first | assumption | apply updCtx_kept | apply showIdle_kept | apply setCtxState_kept

theorem orderLoad_kept {r s : State} (h : Kept r s) (c : Nat) (e : BitVec 512) :
    Kept r (State.orderLoad s c e) := by
  unfold State.orderLoad
  try dsimp only
  repeat' with_reducible first | assumption | apply finish_kept | apply emit_kept | apply startLoad_kept | apply foldl_kept | split

theorem orderLoadHbm_kept {r s : State} (h : Kept r s) (c : Nat) (im : Image) (e : BitVec 512) :
    Kept r (State.orderLoadHbm s c im e) := by
  unfold State.orderLoadHbm
  try dsimp only
  repeat' with_reducible first | assumption | apply finish_kept | apply touch_kept | refine touch_kept_pair ?_ ‹_› | apply startLoad_kept | apply judgeImage_kept | apply refuseImage_kept | apply foldl_kept | split

theorem orderPause_kept {r s : State} (h : Kept r s) (c : Nat) :
    Kept r (State.orderPause s c) := by
  unfold State.orderPause
  try dsimp only
  repeat' with_reducible first | assumption | apply finish_kept | apply updCtx_kept | apply foldl_kept | split

theorem orderRun_kept {r s : State} (h : Kept r s) (c : Nat) (e : BitVec 512) :
    Kept r (State.orderRun s c e) := by
  unfold State.orderRun
  try dsimp only
  repeat' with_reducible first | assumption | apply updCtx_kept | apply finish_kept | apply setCtxState_kept | apply foldl_kept | split

theorem otherDrain_kept {r s : State} (h : Kept r s) (e slot task n : Nat) : Kept r (s.otherDrain e slot task n).2 :=
  draws_kept h _

theorem passTime_kept {r s : State} (h : Kept r s) :
    Kept r (State.passTime s) := by
  unfold State.passTime
  try dsimp only
  repeat' with_reducible first | assumption | apply setReg64_kept

theorem setPowerStep_kept {r s : State} (h : Kept r s) (k : Nat) :
    Kept r (State.setPowerStep s k) := by
  unfold State.setPowerStep
  try dsimp only
  repeat' with_reducible first | assumption | apply put_kept | apply clockEvent_kept | apply showClocks_kept | apply foldl_kept | split | intro _ | simp only [kept_mk]

theorem stepDown_kept {r s : State} (h : Kept r s) (k : Nat) :
    Kept r (State.stepDown s k) := by
  unfold State.stepDown
  try dsimp only
  repeat' with_reducible first | assumption | apply setPowerStep_kept | apply foldl_kept | split | intro _ | simp only [kept_mk]

theorem powerSample_kept {r s : State} (h : Kept r s) (watts : Nat) (avg : Nat) :
    Kept r (State.powerSample s watts avg) := by
  unfold State.powerSample
  try dsimp only
  repeat' with_reducible first | assumption | apply countSample_kept | apply put_kept | apply countSlow_kept | apply stepDown_kept | apply setPowerStep_kept | apply foldl_kept | split

theorem readDocs_kept {r s : State} (h : Kept r s) (f : Frame) (d : BitVec 1024) :
    Kept r (State.readDocs s f d).1 := by
  unfold State.readDocs
  try dsimp only
  repeat' with_reducible first | assumption | apply put_kept | apply event_kept | apply count_kept | apply raiseNonfinite_kept | apply foldl_kept | split

theorem readDocs_kept_pair {r s : State} (h : Kept r s) (f : Frame) (d : BitVec 1024) {x y} (e : State.readDocs s f d = (x, y)) : Kept r x := by
  have k := readDocs_kept h f d
  rwa [e] at k

theorem unlatch_kept {r s : State} (h : Kept r s) (a : Nat) :
    Kept r (State.unlatch s a) := by
  unfold State.unlatch
  try dsimp only
  repeat' with_reducible first | assumption | apply foldl_kept | split | intro _ | simp only [kept_mk]

theorem readRegister_kept {r s : State} (h : Kept r s) (a : Nat) (size : Nat) :
    Kept r (State.readRegister s a size) := by
  unfold State.readRegister
  try dsimp only
  repeat' with_reducible first | assumption | apply emit_kept | apply latch_kept | apply unlatch_kept | apply setReg_kept | apply foldl_kept | split

theorem readSensor_kept {r s : State} (h : Kept r s) (k : Nat) (v : Half) :
    Kept r (State.readSensor s k v) := by
  unfold State.readSensor
  try dsimp only
  repeat' with_reducible first | assumption | apply put_kept | apply dieThermal_kept | apply supplyAlarm_kept | apply alarm_kept | apply foldl_kept | split

theorem shutStack_kept {r s : State} (h : Kept r s) (i : Nat) (t1 : Nat) :
    Kept r (State.shutStack s i t1) := by
  unfold State.shutStack
  try dsimp only
  repeat' with_reducible first | assumption | apply abandon_kept | apply event_kept | apply on_kept | apply orderByWatchtower_kept | apply loseContents_kept | apply foldl_kept | split | intro _ | simp only [kept_mk_mem]

theorem readTemperature_kept {r s : State} (h : Kept r s) (i : Nat) (t1 : Nat) :
    Kept r (State.readTemperature s i t1) := by
  unfold State.readTemperature
  try dsimp only
  repeat' with_reducible first | assumption | apply put_kept | apply setStep_kept | apply shutStack_kept | apply foldl_kept | split

theorem resend_kept {r s : State} (h : Kept r s) (p : Nat) (n : Nat) :
    Kept r (State.resend s p n) := by
  unfold State.resend
  try dsimp only
  repeat' with_reducible first | assumption | apply measure_kept | apply count_kept | apply setPort_kept | apply sendData_kept | apply linkDown_kept | apply foldl_kept | split | intro _

theorem retire_kept {r s : State} (h : Kept r s) (e : Nat) (k : Nat) (t1 : Nat) :
    Kept r (State.retire s e k t1) := by
  unfold State.retire
  try dsimp only
  repeat' with_reducible first | assumption | apply count_kept | apply showEngine_kept | apply foldl_kept | split | intro _ | simp only [kept_mk]

theorem writeMasters_kept {r s : State} (h : Kept r s) (f : Frame) (d : BitVec 1024) (xs : List (Nat × Byte)) :
    Kept r (State.writeMasters s f d xs) := by
  unfold State.writeMasters
  try dsimp only
  repeat' with_reducible first | assumption | apply writePlain_kept | apply write_kept | apply writeAt_kept

theorem writeMoment_kept {r s : State} (h : Kept r s) (f : Frame) (off : Nat) (vs : List (BitVec 32)) :
    Kept r (State.writeMoment s f off vs).1 := by
  unfold State.writeMoment
  try dsimp only
  repeat' with_reducible first | assumption | apply writeAt_kept

theorem writeMoment_kept_pair {r s : State} (h : Kept r s) (f : Frame) (off : Nat) (vs : List (BitVec 32)) {x y} (e : State.writeMoment s f off vs = (x, y)) : Kept r x := by
  have k := writeMoment_kept h f off vs
  rwa [e] at k

theorem updateAll_kept {r s : State} (h : Kept r s) (f : Frame) (d : BitVec 1024) (h1 : Hyper) :
    Kept r (State.updateAll s f d h1) := by
  unfold State.updateAll
  try dsimp only
  repeat' with_reducible first | assumption | apply writeMasters_kept | apply writeMoment_kept | refine writeMoment_kept_pair ?_ ‹_› | apply on_kept | apply foldl_kept | split

theorem runUpdate_kept {r s : State} (h : Kept r s) (f : Frame) (d : BitVec 1024) :
    Kept r (State.runUpdate s f d) := by
  unfold State.runUpdate
  try dsimp only
  repeat' with_reducible first | assumption | apply badHyper_kept | apply updateAll_kept | apply foldl_kept | split

theorem sample_kept {r s : State} (h : Kept r s) :
    Kept r (State.sample s) := by
  unfold State.sample
  try dsimp only
  repeat' with_reducible first | assumption | apply declareHang_kept | apply foldl_kept | split | intro _ | simp only [kept_mk]

theorem sendSched_kept {r s : State} (h : Kept r s) (payload : List Byte) :
    Kept r (State.sendSched s payload) := by
  unfold State.sendSched
  try dsimp only
  repeat' with_reducible first | assumption | apply queuePacket_kept | apply foldl_kept | split | intro _

theorem schedule_kept {r s : State} (h : Kept r s) :
    Kept r (State.schedule s) := by
  unfold State.schedule
  try dsimp only
  repeat' with_reducible first | assumption | apply at__kept | apply sendSched_kept | apply setReg64_kept | apply applyGrant_kept | apply foldl_kept | split | intro _ | simp only [kept_mk]

theorem scrubLost_kept {r s : State} (h : Kept r s) (w : SramWord) :
    Kept r (State.scrubLost s w) := by
  unfold State.scrubLost
  try dsimp only
  repeat' with_reducible first | assumption | apply loseWord_kept | apply abandon_kept | apply clearLost_kept | apply foldl_kept | split

theorem scrubWord_kept {r s : State} (h : Kept r s) (w : SramWord) :
    Kept r (State.scrubWord s w) := by
  unfold State.scrubWord
  try dsimp only
  repeat' with_reducible first | assumption | apply readWord_kept | apply lockkeeperLost_kept | apply scrubLost_kept | apply foldl_kept | split

theorem search_kept {r s : State} (h : Kept r s) (b : Barge) (e : Nat) (k : Nat) :
    Kept r (State.search s b e k) := by
  unfold State.search
  try dsimp only
  repeat' with_reducible first | assumption | apply stealFrom_kept | apply foldl_kept | split

theorem secondPass_kept {r s : State} (h : Kept r s) (b : Barge) :
    Kept r (State.secondPass s b) := by
  unfold State.secondPass
  try dsimp only
  repeat' with_reducible first | assumption | apply closePass_kept | apply put_kept | apply dealOut_kept | apply foldl_kept | split | intro _ | simp only [kept_mk]

theorem sendMsix_kept {r s : State} (h : Kept r s) (v : Nat) :
    Kept r (State.sendMsix s v) := by
  unfold State.sendMsix
  try dsimp only
  repeat' with_reducible first | assumption | apply setReg64_kept | apply emit_kept | apply foldl_kept | split | intro _ | simp only [kept_mk]

theorem sendNak_kept {r s : State} (h : Kept r s) (p : Nat) :
    Kept r (State.sendNak s p) := by
  unfold State.sendNak
  try dsimp only
  repeat' with_reducible first | assumption | apply sendControl_kept | apply setPort_kept | apply foldl_kept | split

theorem sendVerdict_kept {r s : State} (h : Kept r s) (b : Barge) (bs : List Byte) :
    Kept r (State.sendVerdict s b bs) := by
  unfold State.sendVerdict
  try dsimp only
  repeat' with_reducible first | assumption | apply sendTo_kept | apply foldl_kept | split | intro _

theorem sendVote_kept {r s : State} (h : Kept r s) (b : Barge) (rec : List Byte) :
    Kept r (State.sendVote s b rec) := by
  unfold State.sendVote
  try dsimp only
  repeat' with_reducible first | assumption | apply sendTo_kept

theorem showAttention_kept {r s : State} (h : Kept r s) (b : Barge) :
    Kept r (State.showAttention s b) := by
  unfold State.showAttention
  try dsimp only
  repeat' with_reducible first | assumption | apply put_kept | apply on_kept

theorem showInput_kept {r s : State} (h : Kept r s) (i : Nat) :
    Kept r (State.showInput s i) := by
  unfold State.showInput
  try dsimp only
  repeat' with_reducible first | assumption | apply put_kept

theorem showRebuild_kept {r s : State} (h : Kept r s) :
    Kept r (State.showRebuild s) := by
  unfold State.showRebuild
  try dsimp only
  repeat' with_reducible first | assumption | apply put_kept

theorem showRisk_kept {r s : State} (h : Kept r s) :
    Kept r (State.showRisk s) := by
  unfold State.showRisk
  try dsimp only
  repeat' with_reducible first | assumption | apply put_kept | apply raise_kept | apply event_kept | apply foldl_kept | split | intro _ | simp only [kept_mk]

theorem slotDrain_kept {r s : State} (h : Kept r s) (e slot : Nat) : Kept r (s.slotDrain e slot).2 := by
  unfold State.slotDrain
  dsimp only
  generalize noTotals = z
  split
  · split
    · exact h
    · split
      · exact otherDrain_kept h _ _ _ _
      · exact emptyDrain_kept h _ _ _
  · exact emptyDrain_kept h _ _ _

theorem slotDrain_kept_pair {r s : State} (h : Kept r s) (e slot : Nat) {x y} (k : State.slotDrain s e slot = (x, y)) :
    Kept r y := by
  have k' := slotDrain_kept h e slot
  rwa [k] at k'

theorem sluiceSwap_kept {r s : State} (h : Kept r s) (c : Nat) :
    Kept r (State.sluiceSwap s c) := by
  unfold State.sluiceSwap
  try dsimp only
  repeat' with_reducible first | assumption | apply on_kept | apply count_kept | apply discardFeed_kept | apply event_kept | apply setCtx_kept | apply off_kept | apply unfeed_kept | apply put_kept | apply showRebuild_kept | apply foldl_kept | split

theorem spdm_kept {r s : State} (h : Kept r s) (r1 : DoeReply) :
    Kept r (State.spdm s r1) := by
  unfold State.spdm
  try dsimp only
  repeat' with_reducible first | assumption | apply answer_kept

theorem sqDoorbell_kept {r s : State} (h : Kept r s) (c : Nat) (w : Word) (entries : List (BitVec 512)) :
    Kept r (State.sqDoorbell s c w entries) := by
  unfold State.sqDoorbell
  try dsimp only
  repeat' with_reducible first | assumption | apply badTail_kept | apply fetch_kept | apply updCtx_kept | apply put_kept | apply foldl_kept | split

theorem startAttention_kept {r s : State} (h : Kept r s) (i : Nat) (b : Barge) (regions : List (Nat × Nat)) :
    Kept r (State.startAttention s i b regions) := by
  unfold State.startAttention
  try dsimp only
  repeat' with_reducible first | assumption | apply reading_kept | apply readDocs_kept | refine readDocs_kept_pair ?_ ‹_› | apply startArray_kept | apply showAttention_kept | apply foldl_kept | split | intro _

theorem startMatrix_kept {r s : State} (h : Kept r s) (i : Nat) (b : Barge) :
    Kept r (State.startMatrix s i b) := by
  unfold State.startMatrix
  try dsimp only
  repeat' with_reducible first | assumption | apply reading_kept | apply startArray_kept | apply foldl_kept | split | intro _

theorem startUpdate_kept {r s : State} (h : Kept r s) (i : Nat) (b : Barge) {g : Frame → BitVec 1024 → State → State} (hg : ∀ a0 a1 t, Kept r t → Kept r (g a0 a1 t)) :
    Kept r (State.startUpdate s i b g) := by
  unfold State.startUpdate
  try dsimp only
  repeat' with_reducible first | assumption | apply hg | apply tryFinish_kept | apply touch_kept | refine touch_kept_pair ?_ ‹_› | apply on_kept | apply undefine_kept | apply foldl_kept | split

theorem startVote_kept {r s : State} (h : Kept r s) (b : Barge) :
    Kept r (State.startVote s b) := by
  unfold State.startVote
  try dsimp only
  repeat' with_reducible first | assumption | apply reading_kept | apply setPhase_kept | apply updCtx_kept | apply sendVote_kept | apply foldl_kept | split | intro _

theorem stashLoad_kept {r s : State} (h : Kept r s) (b : Barge) :
    Kept r (State.stashLoad s b) := by
  unfold State.stashLoad
  try dsimp only
  repeat' with_reducible first | assumption | apply writeAt_kept | apply touch_kept | refine touch_kept_pair ?_ ‹_› | apply event_kept | apply count_kept | apply on_kept | apply foldl_kept | split | intro _

theorem stashSave_kept {r s : State} (h : Kept r s) (b : Barge) :
    Kept r (State.stashSave s b) := by
  unfold State.stashSave
  try dsimp only
  repeat' with_reducible first | assumption | apply writeAt_kept | apply count_kept

theorem steal_kept {r s : State} (h : Kept r s) (e : Nat) :
    Kept r (State.steal s e) := by
  unfold State.steal
  try dsimp only
  repeat' with_reducible first | assumption | apply search_kept | apply foldl_kept | split

theorem storeVerdict_kept {r s : State} (h : Kept r s) (b : Barge) (bs : List Byte) :
    Kept r (State.storeVerdict s b bs) := by
  unfold State.storeVerdict
  try dsimp only
  repeat' with_reducible first | assumption | apply writeAt_kept | apply foldl_kept | split

theorem strike_kept {r s : State} (h : Kept r s) (faults : List (Nat × List (Fin 264 × BitVec 16))) :
    Kept r (State.strike s faults) := by
  unfold State.strike
  try dsimp only
  repeat' with_reducible first | assumption | apply settle_kept | apply setSector_kept | apply foldl_kept | split | intro _

theorem takeCommit_kept {r s : State} (h : Kept r s) (i : Nat) (b : Barge) (v : BitVec 256) :
    Kept r (State.takeCommit s i b v) := by
  unfold State.takeCommit
  try dsimp only
  repeat' with_reducible first | assumption | apply showVerdicts_kept | apply updCtx_kept | apply sendVerdict_kept | apply storeVerdict_kept | apply passCommit_kept | apply failCommit_kept | apply tryFinish_kept | apply foldl_kept | split

theorem takeData_kept {r s : State} (h : Kept r s) (p : Nat) (f : BitVec 2048) :
    Kept r (State.takeData s p f) := by
  unfold State.takeData
  try dsimp only
  repeat' with_reducible first | assumption | apply takeLinkFields_kept | apply acceptData_kept | apply sendNak_kept | apply foldl_kept | split

theorem takeEstimate_kept {r s : State} (h : Kept r s) (twice : ℤ) :
    Kept r (State.takeEstimate s twice) := by
  unfold State.takeEstimate
  try dsimp only
  repeat' with_reducible first | assumption | apply setReg64_kept | apply unlockFtc_kept | apply on_kept | apply foldl_kept | split | intro _ | simp only [kept_mk]

theorem takeSealed_kept {r s : State} (h : Kept r s) (c : Nat) (j : Nat) (h1 : List Byte) :
    Kept r (State.takeSealed s c j h1) := by
  unfold State.takeSealed
  try dsimp only
  repeat' with_reducible first | assumption | apply emit_kept | apply put_kept | apply writeAt_kept | apply foldl_kept | split

theorem takeTags_kept {r s : State} (h : Kept r s) (src : Nat) (tags : Option (Word × Word)) :
    Kept r (State.takeTags s src tags) := by
  unfold State.takeTags
  try dsimp only
  repeat' with_reducible first | assumption | apply judgeBuddy_kept | apply foldl_kept | split

theorem writeVerify_kept {r s : State} (h : Kept r s) (c : Nat) (j : Nat) (p : BitVec 512) :
    Kept r (State.writeVerify s c j p) := by
  unfold State.writeVerify
  try dsimp only
  repeat' with_reducible first | assumption | apply writeAt_kept | apply foldl_kept | split

theorem takeVerdict_kept {r s : State} (h : Kept r s) (i : Nat) (b : Barge) (v : BitVec 2048) :
    Kept r (State.takeVerdict s i b v) := by
  unfold State.takeVerdict
  try dsimp only
  repeat' with_reducible first | assumption | apply showVerdicts_kept | apply updCtx_kept | apply sendVerdict_kept | apply storeVerdict_kept | apply setPhase_kept | apply put_kept | apply tryFinish_kept | apply event_kept | apply abortSteps_kept | apply compareVerify_kept | apply writeVerify_kept | apply foldl_kept | split

theorem takeWard_kept {r s : State} (h : Kept r s) (c : Nat) (j : Nat) (g : List Byte) :
    Kept r (State.takeWard s c j g) := by
  unfold State.takeWard
  try dsimp only
  repeat' with_reducible first | assumption | apply setWardSlot_kept | apply writeAt_kept | apply emit_kept | apply foldl_kept | split

theorem testDrain_kept {r s : State} (h : Kept r s) (b : Barge) : Kept r (s.testDrain b) := by
  unfold State.testDrain
  dsimp only
  refine writeAt_kept (drainArray_kept h _ (fun t k => ?_)) _ _
  exact slotDrain_kept (slotDrain_kept k _ 0) _ 1

theorem testEngine_kept {r s : State} (h : Kept r s) (b : Barge) (sigs : List (BitVec 64)) :
    Kept r (State.testEngine s b sigs) := by
  unfold State.testEngine
  try dsimp only
  repeat' with_reducible first | assumption | apply draws_kept | refine draws_kept_pair ?_ ‹_› | apply writeAt_kept | apply event_kept

theorem testScrub_kept {r s : State} (h : Kept r s) (b : Barge) : Kept r (s.testScrub b) := by
  unfold State.testScrub
  refine writeAt_kept ?_ _ _
  generalize s.hbmSectors _ = l
  have key : ∀ (l : List Nat) (s : State) (i j : Nat), Kept r s → Kept r (l.foldl (fun (s, fixed, bad) n =>
      match s.scrubSector n with
      | (s, .corrected) => (s, fixed + 1, bad)
      | (s, .uncorrectable) => (s, fixed, bad + 1)
      | (s, .good) => (s, fixed, bad)) (s, i, j)).1 := by
    intro l
    induction l with
    | nil => exact fun _ _ _ h => h
    | cons n l ih =>
      intro s i j h
      rw [List.foldl_cons]
      have k := scrubSector_kept h n
      dsimp only
      generalize s.scrubSector n = q at k
      obtain ⟨t, o⟩ := q
      cases o <;> exact ih _ _ _ k
  exact key l s 0 0 h

theorem timeIn_kept {r s : State} (h : Kept r s) (p : Nat) (left : Nat) (arrived : Nat) :
    Kept r (State.timeIn s p left arrived) := by
  unfold State.timeIn
  try dsimp only
  repeat' with_reducible first | assumption | apply updPort_kept | apply takeEstimate_kept | apply sendControl_kept | apply foldl_kept | split

theorem trip_kept {r s : State} (h : Kept r s) (u : TripUnit) (temp : Half) :
    Kept r (State.trip s u temp) := by
  unfold State.trip
  try dsimp only
  repeat' with_reducible first | assumption | apply withInterrupt_kept | apply event_kept | apply on_kept | apply diesDark_kept | apply foldl_kept | split | intro _ | simp only [kept_mk]

theorem unseal_kept {r s : State} (h : Kept r s) (c : Nat) (j : Nat) :
    Kept r (State.unseal s c j) := by
  unfold State.unseal
  try dsimp only
  repeat' with_reducible first | assumption | apply setFlags_kept | apply writeAt_kept

theorem updateCopy_kept {r s : State} (h : Kept r s) (f : Frame) (d : BitVec 1024) :
    Kept r (State.updateCopy s f d) := by
  unfold State.updateCopy
  try dsimp only
  repeat' with_reducible first | assumption | apply writeAt_kept | apply writeMasters_kept | apply foldl_kept | split

theorem xlate_kept {r s : State} (h : Kept r s) (addr : DWord) :
    Kept r (State.xlate s addr) := by
  unfold State.xlate
  try dsimp only
  repeat' with_reducible first | assumption | apply showXlate_kept | apply setReg64_kept

theorem execLockTick_kept {r s : State} (h : Kept r s) :
    ∀ t, execLockTick s = .next t → Kept r t := by
  unfold execLockTick
  intro t ht
  (repeat' split at ht) <;> (injection ht with ht; subst ht; repeat' with_reducible first | assumption | apply lockTick_kept)

theorem execWorkWindowOpen_kept {r s : State} (h : Kept r s) :
    ∀ t, execWorkWindowOpen s = .next t → Kept r t := by
  unfold execWorkWindowOpen
  intro t ht
  revert ht; (try dsimp only); intro ht
  (repeat' split at ht) <;> (injection ht with ht; subst ht; repeat' with_reducible first | assumption | apply at__kept | apply foldl_kept | split | intro _ | simp only [kept_mk])

theorem execProjectEndEvaluation_kept {r s : State} (h : Kept r s) (now : DWord) :
    ∀ t, execProjectEndEvaluation now s = .next t → Kept r t := by
  unfold execProjectEndEvaluation
  intro t ht
  revert ht; (try dsimp only); intro ht
  (repeat' split at ht) <;> (injection ht with ht; subst ht; repeat' with_reducible first | assumption | apply at__kept | apply evaluate_kept)

theorem execWorkWindowClose_kept {r s : State} (h : Kept r s) :
    ∀ t, execWorkWindowClose s = .next t → Kept r t := by
  unfold execWorkWindowClose
  intro t ht
  (repeat' split at ht) <;> (injection ht with ht; subst ht; repeat' with_reducible first | assumption | apply closeWindow_kept)

theorem execDrainEnd_kept {r s : State} (h : Kept r s) (now : DWord) :
    ∀ t, execDrainEnd now s = .next t → Kept r t := by
  unfold execDrainEnd
  intro t ht
  revert ht; (try dsimp only); intro ht
  (repeat' split at ht) <;> (injection ht with ht; subst ht; repeat' with_reducible first | assumption | apply at__kept | apply clearLost_kept | apply off_kept | apply foldl_kept | split | intro _ | simp only [kept_mk])

theorem execBargeComplete_kept {r s : State} (h : Kept r s) (i : Nat) (now : DWord) :
    ∀ t, execBargeComplete i now s = .next t → Kept r t := by
  unfold execBargeComplete
  intro t ht
  injection ht with ht; subst ht; repeat' with_reducible first | assumption | apply tryFinish_kept | apply at__kept

theorem execTickInEdge_kept {r s : State} (h : Kept r s) (now : DWord) :
    ∀ t, execTickInEdge now s = .next t → Kept r t := by
  unfold execTickInEdge
  intro t ht
  revert ht; (try dsimp only); intro ht
  (repeat' split at ht) <;> (injection ht with ht; subst ht; repeat' with_reducible first | assumption | apply at__kept | apply setReg64_kept | apply foldl_kept | split | intro _ | simp only [kept_mk])

theorem execSchedSend_kept {r s : State} (h : Kept r s) :
    ∀ t, execSchedSend s = .next t → Kept r t := by
  unfold execSchedSend
  intro t ht
  (repeat' split at ht) <;> (injection ht with ht; subst ht; repeat' with_reducible first | assumption | apply schedule_kept)

theorem execTimeExchange_kept {r s : State} (h : Kept r s) (now : DWord) :
    ∀ t, execTimeExchange now s = .next t → Kept r t := by
  unfold execTimeExchange
  intro t ht
  revert ht; (try dsimp only); intro ht
  (repeat' split at ht) <;> (injection ht with ht; subst ht; repeat' with_reducible first | assumption | apply at__kept | apply on_kept | apply unlockFtc_kept | apply sendControl_kept | apply updPort_kept)

theorem execFtcSyncTimeout_kept {r s : State} (h : Kept r s) (now : DWord) :
    ∀ t, execFtcSyncTimeout now s = .next t → Kept r t := by
  unfold execFtcSyncTimeout
  intro t ht
  injection ht with ht; subst ht; repeat' with_reducible first | assumption | apply unlockFtc_kept | apply at__kept

theorem execNop_kept {r s : State} (h : Kept r s) (i : Nat) :
    ∀ t, execNop i s = .next t → Kept r t := by
  unfold execNop
  intro t ht
  refine begin_kept h _ _ _ (fun b u hu => ?_) t ht
  try dsimp only
  repeat' with_reducible first | assumption | apply tryFinish_kept

theorem execNotify_kept {r s : State} (h : Kept r s) (i : Nat) :
    ∀ t, execNotify i s = .next t → Kept r t := by
  unfold execNotify
  intro t ht
  refine begin_kept h _ _ _ (fun b u hu => ?_) t ht
  try dsimp only
  repeat' with_reducible first | assumption | apply tryFinish_kept | apply complete_kept

theorem execControlFence_kept {r s : State} (h : Kept r s) (i : Nat) :
    ∀ t, execControlFence i s = .next t → Kept r t := by
  unfold execControlFence
  intro t ht
  refine begin_kept h _ _ _ (fun b u hu => ?_) t ht
  try dsimp only
  repeat' with_reducible first | assumption | apply tryFinish_kept

theorem execCodebookLoad_kept {r s : State} (h : Kept r s) (w : Word) :
    ∀ t, execCodebookLoad w s = .next t → Kept r t := by
  unfold execCodebookLoad
  intro t ht
  injection ht with ht; subst ht; repeat' with_reducible first | assumption | apply onDies_kept | apply codebookCmd_kept | apply foldl_kept | split | intro _

theorem execCodebookLoadEnd_kept {r s : State} (h : Kept r s) :
    ∀ t, execCodebookLoadEnd s = .next t → Kept r t := by
  unfold execCodebookLoadEnd
  intro t ht
  revert ht; (try dsimp only); intro ht
  (repeat' split at ht) <;> (injection ht with ht; subst ht; repeat' with_reducible first | assumption | apply storeCodebook_kept | apply event_kept | apply off_kept | apply put_kept | apply foldl_kept | split | intro _ | simp only [kept_mk])

theorem execNonfiniteOutRead_kept {r s : State} (h : Kept r s) :
    ∀ t, execNonfiniteOutRead s = .next t → Kept r t := by
  unfold execNonfiniteOutRead
  intro t ht
  injection ht with ht; subst ht; repeat' with_reducible first | assumption | apply onLk_kept | apply readRegister_kept | apply foldl_kept | split | intro _

theorem execScaleRead_kept {r s : State} (h : Kept r s) (w : Word) :
    ∀ t, execScaleRead w s = .next t → Kept r t := by
  unfold execScaleRead
  intro t ht
  injection ht with ht; subst ht; repeat' with_reducible first | assumption | apply onDies_kept | apply scaleSelect_kept | apply foldl_kept | split | intro _

theorem execScaleReadCopy_kept {r s : State} (h : Kept r s) :
    ∀ t, execScaleReadCopy s = .next t → Kept r t := by
  unfold execScaleReadCopy
  intro t ht
  revert ht; (try dsimp only); intro ht
  (repeat' split at ht) <;> (injection ht with ht; subst ht; repeat' with_reducible first | assumption | apply setReg_kept | apply off_kept | apply foldl_kept | split | intro _ | simp only [kept_mk])

theorem execScaleUpdateComplete_kept {r s : State} (h : Kept r s) (c : CtxId) :
    ∀ t, execScaleUpdateComplete c s = .next t → Kept r t := by
  unfold execScaleUpdateComplete
  intro t ht
  revert ht; (try dsimp only); intro ht
  (repeat' split at ht) <;> (injection ht with ht; subst ht; repeat' with_reducible first | assumption | apply sluiceSwap_kept | apply updCtx_kept | apply startCapture_kept)

theorem execSluiceRebuildDone_kept {r s : State} (h : Kept r s) (c : CtxId) :
    ∀ t, execSluiceRebuildDone c s = .next t → Kept r t := by
  unfold execSluiceRebuildDone
  intro t ht
  (repeat' split at ht) <;> (injection ht with ht; subst ht; repeat' with_reducible first | assumption | apply showRebuild_kept | apply updCtx_kept | apply rebuild_kept)

theorem execPlanRetimeDone_kept {r s : State} (h : Kept r s) (c : CtxId) :
    ∀ t, execPlanRetimeDone c s = .next t → Kept r t := by
  unfold execPlanRetimeDone
  intro t ht
  revert ht; (try dsimp only); intro ht
  (repeat' split at ht) <;> (injection ht with ht; subst ht; repeat' with_reducible first | assumption | apply setCtx_kept | apply setReg_kept | apply event_kept)

theorem execProduct_kept {r s : State} (h : Kept r s) (i : Nat) :
    ∀ t, execProduct i s = .next t → Kept r t := by
  unfold execProduct
  intro t ht
  refine begin_kept h _ _ _ (fun b u hu => ?_) t ht
  try dsimp only
  repeat' with_reducible first | assumption | apply startMatrix_kept

theorem execBatched_kept {r s : State} (h : Kept r s) (i : Nat) :
    ∀ t, execBatched i s = .next t → Kept r t := by
  unfold execBatched
  intro t ht
  refine begin_kept h _ _ _ (fun b u hu => ?_) t ht
  try dsimp only
  repeat' with_reducible first | assumption | apply startMatrix_kept

theorem execCounted_kept {r s : State} (h : Kept r s) (i : Nat) :
    ∀ t, execCounted i s = .next t → Kept r t := by
  unfold execCounted
  intro t ht
  refine begin_kept h _ _ _ (fun b u hu => ?_) t ht
  try dsimp only
  repeat' with_reducible first | assumption | apply startMatrix_kept

theorem execTaskClaim_kept {r s : State} (h : Kept r s) (e : EngineId) :
    ∀ t, execTaskClaim e s = .next t → Kept r t := by
  unfold execTaskClaim
  intro t ht
  injection ht with ht; subst ht; repeat' with_reducible first | assumption | apply claim_kept

theorem execTaskSteal_kept {r s : State} (h : Kept r s) (e : EngineId) :
    ∀ t, execTaskSteal e s = .next t → Kept r t := by
  unfold execTaskSteal
  intro t ht
  injection ht with ht; subst ht; repeat' with_reducible first | assumption | apply steal_kept

theorem execStealRetry_kept {r s : State} (h : Kept r s) (e : EngineId) :
    ∀ t, execStealRetry e s = .next t → Kept r t := by
  unfold execStealRetry
  intro t ht
  injection ht with ht; subst ht; repeat' with_reducible first | assumption | apply steal_kept

theorem execSplitkSlotRetry_kept {r s : State} (h : Kept r s) (e : EngineId) :
    ∀ t, execSplitkSlotRetry e s = .next t → Kept r t := by
  unfold execSplitkSlotRetry
  intro t ht
  (repeat' split at ht) <;> (injection ht with ht; subst ht; repeat' with_reducible first | assumption | apply steal_kept | apply claim_kept)

theorem execTileDrain_kept {r s : State} (h : Kept r s) (e : EngineId) (slot : Fin 2) :
    ∀ t, execTileDrain e slot s = .next t → Kept r t := by
  unfold execTileDrain
  intro t ht
  (repeat' split at ht) <;> (injection ht with ht; subst ht; repeat' with_reducible first | assumption | apply readingWords_kept | apply secondPass_kept | apply retire_kept | apply drainTask_kept | apply foldl_kept | split | intro _)

theorem execComputeClockChange_kept {r s : State} (h : Kept r s) (d : DieId) (clock : ClockStep) :
    ∀ t, execComputeClockChange d clock s = .next t → Kept r t := by
  unfold execComputeClockChange
  intro t ht
  injection ht with ht; subst ht; repeat' with_reducible first | assumption | apply setClock_kept

theorem execMap_kept {r s : State} (h : Kept r s) (i : Nat) :
    ∀ t, execMap i s = .next t → Kept r t := by
  unfold execMap
  intro t ht
  refine beginVector_kept h _ _ t ht

theorem execRow_kept {r s : State} (h : Kept r s) (i : Nat) :
    ∀ t, execRow i s = .next t → Kept r t := by
  unfold execRow
  intro t ht
  refine beginVector_kept h _ _ t ht

theorem execRowStageStart_kept {r s : State} (h : Kept r s) (i : Nat) :
    ∀ t, execRowStageStart i s = .next t → Kept r t := by
  unfold execRowStageStart
  intro t ht
  (repeat' split at ht) <;> (injection ht with ht; subst ht; repeat' with_reducible first | assumption | apply nextStage_kept)

theorem execReduce_kept {r s : State} (h : Kept r s) (i : Nat) :
    ∀ t, execReduce i s = .next t → Kept r t := by
  unfold execReduce
  intro t ht
  refine beginVector_kept h _ _ t ht

theorem execCompress_kept {r s : State} (h : Kept r s) (i : Nat) :
    ∀ t, execCompress i s = .next t → Kept r t := by
  unfold execCompress
  intro t ht
  refine begin_kept h _ _ _ (fun b u hu => ?_) t ht
  try dsimp only
  repeat' with_reducible first | assumption | apply startVector_kept

theorem execExpand_kept {r s : State} (h : Kept r s) (i : Nat) :
    ∀ t, execExpand i s = .next t → Kept r t := by
  unfold execExpand
  intro t ht
  refine begin_kept h _ _ _ (fun b u hu => ?_) t ht
  try dsimp only
  repeat' with_reducible first | assumption | apply startVector_kept

theorem execRotate_kept {r s : State} (h : Kept r s) (i : Nat) :
    ∀ t, execRotate i s = .next t → Kept r t := by
  unfold execRotate
  intro t ht
  refine beginVector_kept h _ _ t ht

theorem execUnrotate_kept {r s : State} (h : Kept r s) (i : Nat) :
    ∀ t, execUnrotate i s = .next t → Kept r t := by
  unfold execUnrotate
  intro t ht
  refine beginVector_kept h _ _ t ht

theorem execAdd_kept {r s : State} (h : Kept r s) (e : EngineId) (f : VFields) :
    ∀ t, execAdd e f s = .next t → Kept r t := by
  unfold execAdd
  intro t ht
  injection ht with ht; subst ht; repeat' with_reducible first | assumption | apply issue_kept

theorem execSub_kept {r s : State} (h : Kept r s) (e : EngineId) (f : VFields) :
    ∀ t, execSub e f s = .next t → Kept r t := by
  unfold execSub
  intro t ht
  injection ht with ht; subst ht; repeat' with_reducible first | assumption | apply issue_kept

theorem execMul_kept {r s : State} (h : Kept r s) (e : EngineId) (f : VFields) :
    ∀ t, execMul e f s = .next t → Kept r t := by
  unfold execMul
  intro t ht
  injection ht with ht; subst ht; repeat' with_reducible first | assumption | apply issue_kept

theorem execFma_kept {r s : State} (h : Kept r s) (e : EngineId) (f : VFields) :
    ∀ t, execFma e f s = .next t → Kept r t := by
  unfold execFma
  intro t ht
  injection ht with ht; subst ht; repeat' with_reducible first | assumption | apply issue_kept

theorem execMin_kept {r s : State} (h : Kept r s) (e : EngineId) (f : VFields) :
    ∀ t, execMin e f s = .next t → Kept r t := by
  unfold execMin
  intro t ht
  injection ht with ht; subst ht; repeat' with_reducible first | assumption | apply issue_kept

theorem execMax_kept {r s : State} (h : Kept r s) (e : EngineId) (f : VFields) :
    ∀ t, execMax e f s = .next t → Kept r t := by
  unfold execMax
  intro t ht
  injection ht with ht; subst ht; repeat' with_reducible first | assumption | apply issue_kept

theorem execAbs_kept {r s : State} (h : Kept r s) (e : EngineId) (f : VFields) :
    ∀ t, execAbs e f s = .next t → Kept r t := by
  unfold execAbs
  intro t ht
  injection ht with ht; subst ht; repeat' with_reducible first | assumption | apply issue_kept

theorem execNeg_kept {r s : State} (h : Kept r s) (e : EngineId) (f : VFields) :
    ∀ t, execNeg e f s = .next t → Kept r t := by
  unfold execNeg
  intro t ht
  injection ht with ht; subst ht; repeat' with_reducible first | assumption | apply issue_kept

theorem execCopysign_kept {r s : State} (h : Kept r s) (e : EngineId) (f : VFields) :
    ∀ t, execCopysign e f s = .next t → Kept r t := by
  unfold execCopysign
  intro t ht
  injection ht with ht; subst ht; repeat' with_reducible first | assumption | apply issue_kept

theorem execMov_kept {r s : State} (h : Kept r s) (e : EngineId) (f : VFields) :
    ∀ t, execMov e f s = .next t → Kept r t := by
  unfold execMov
  intro t ht
  injection ht with ht; subst ht; repeat' with_reducible first | assumption | apply issue_kept

theorem execDiv_kept {r s : State} (h : Kept r s) (e : EngineId) (f : VFields) :
    ∀ t, execDiv e f s = .next t → Kept r t := by
  unfold execDiv
  intro t ht
  injection ht with ht; subst ht; repeat' with_reducible first | assumption | apply issue_kept

theorem execSqrt_kept {r s : State} (h : Kept r s) (e : EngineId) (f : VFields) :
    ∀ t, execSqrt e f s = .next t → Kept r t := by
  unfold execSqrt
  intro t ht
  injection ht with ht; subst ht; repeat' with_reducible first | assumption | apply issue_kept

theorem execRcp_kept {r s : State} (h : Kept r s) (e : EngineId) (f : VFields) :
    ∀ t, execRcp e f s = .next t → Kept r t := by
  unfold execRcp
  intro t ht
  injection ht with ht; subst ht; repeat' with_reducible first | assumption | apply issue_kept

theorem execRsqrt_kept {r s : State} (h : Kept r s) (e : EngineId) (f : VFields) :
    ∀ t, execRsqrt e f s = .next t → Kept r t := by
  unfold execRsqrt
  intro t ht
  injection ht with ht; subst ht; repeat' with_reducible first | assumption | apply issue_kept

theorem execExp2_kept {r s : State} (h : Kept r s) (e : EngineId) (f : VFields) :
    ∀ t, execExp2 e f s = .next t → Kept r t := by
  unfold execExp2
  intro t ht
  injection ht with ht; subst ht; repeat' with_reducible first | assumption | apply issue_kept

theorem execLog2_kept {r s : State} (h : Kept r s) (e : EngineId) (f : VFields) :
    ∀ t, execLog2 e f s = .next t → Kept r t := by
  unfold execLog2
  intro t ht
  injection ht with ht; subst ht; repeat' with_reducible first | assumption | apply issue_kept

theorem execExp_kept {r s : State} (h : Kept r s) (e : EngineId) (f : VFields) :
    ∀ t, execExp e f s = .next t → Kept r t := by
  unfold execExp
  intro t ht
  injection ht with ht; subst ht; repeat' with_reducible first | assumption | apply issue_kept

theorem execLog_kept {r s : State} (h : Kept r s) (e : EngineId) (f : VFields) :
    ∀ t, execLog e f s = .next t → Kept r t := by
  unfold execLog
  intro t ht
  injection ht with ht; subst ht; repeat' with_reducible first | assumption | apply issue_kept

theorem execTanh_kept {r s : State} (h : Kept r s) (e : EngineId) (f : VFields) :
    ∀ t, execTanh e f s = .next t → Kept r t := by
  unfold execTanh
  intro t ht
  injection ht with ht; subst ht; repeat' with_reducible first | assumption | apply issue_kept

theorem execSigmoid_kept {r s : State} (h : Kept r s) (e : EngineId) (f : VFields) :
    ∀ t, execSigmoid e f s = .next t → Kept r t := by
  unfold execSigmoid
  intro t ht
  injection ht with ht; subst ht; repeat' with_reducible first | assumption | apply issue_kept

theorem execErf_kept {r s : State} (h : Kept r s) (e : EngineId) (f : VFields) :
    ∀ t, execErf e f s = .next t → Kept r t := by
  unfold execErf
  intro t ht
  injection ht with ht; subst ht; repeat' with_reducible first | assumption | apply issue_kept

theorem execSinpi_kept {r s : State} (h : Kept r s) (e : EngineId) (f : VFields) :
    ∀ t, execSinpi e f s = .next t → Kept r t := by
  unfold execSinpi
  intro t ht
  injection ht with ht; subst ht; repeat' with_reducible first | assumption | apply issue_kept

theorem execCospi_kept {r s : State} (h : Kept r s) (e : EngineId) (f : VFields) :
    ∀ t, execCospi e f s = .next t → Kept r t := by
  unfold execCospi
  intro t ht
  injection ht with ht; subst ht; repeat' with_reducible first | assumption | apply issue_kept

theorem execCmpeq_kept {r s : State} (h : Kept r s) (e : EngineId) (f : VFields) :
    ∀ t, execCmpeq e f s = .next t → Kept r t := by
  unfold execCmpeq
  intro t ht
  injection ht with ht; subst ht; repeat' with_reducible first | assumption | apply issue_kept

theorem execCmpne_kept {r s : State} (h : Kept r s) (e : EngineId) (f : VFields) :
    ∀ t, execCmpne e f s = .next t → Kept r t := by
  unfold execCmpne
  intro t ht
  injection ht with ht; subst ht; repeat' with_reducible first | assumption | apply issue_kept

theorem execCmplt_kept {r s : State} (h : Kept r s) (e : EngineId) (f : VFields) :
    ∀ t, execCmplt e f s = .next t → Kept r t := by
  unfold execCmplt
  intro t ht
  injection ht with ht; subst ht; repeat' with_reducible first | assumption | apply issue_kept

theorem execCmple_kept {r s : State} (h : Kept r s) (e : EngineId) (f : VFields) :
    ∀ t, execCmple e f s = .next t → Kept r t := by
  unfold execCmple
  intro t ht
  injection ht with ht; subst ht; repeat' with_reducible first | assumption | apply issue_kept

end Sys2Proof.Machine
end

