-- ==== Sys2Proof/Laws/KeptD.lean ====
section
/-! SUPPORT. What operations keep (see Kept), part D: one lemma per operation, each from those of the operations it calls. -/

namespace Sys2Proof.Machine

theorem execCmpun_kept {r s : State} (h : Kept r s) (e : EngineId) (f : VFields) :
    ∀ t, execCmpun e f s = .next t → Kept r t := by
  unfold execCmpun
  intro t ht
  injection ht with ht; subst ht; repeat' with_reducible first | assumption | apply issue_kept

theorem execSel_kept {r s : State} (h : Kept r s) (e : EngineId) (f : VFields) :
    ∀ t, execSel e f s = .next t → Kept r t := by
  unfold execSel
  intro t ht
  injection ht with ht; subst ht; repeat' with_reducible first | assumption | apply issue_kept

theorem execIadd_kept {r s : State} (h : Kept r s) (e : EngineId) (f : VFields) :
    ∀ t, execIadd e f s = .next t → Kept r t := by
  unfold execIadd
  intro t ht
  injection ht with ht; subst ht; repeat' with_reducible first | assumption | apply issue_kept

theorem execIsub_kept {r s : State} (h : Kept r s) (e : EngineId) (f : VFields) :
    ∀ t, execIsub e f s = .next t → Kept r t := by
  unfold execIsub
  intro t ht
  injection ht with ht; subst ht; repeat' with_reducible first | assumption | apply issue_kept

theorem execImul_kept {r s : State} (h : Kept r s) (e : EngineId) (f : VFields) :
    ∀ t, execImul e f s = .next t → Kept r t := by
  unfold execImul
  intro t ht
  injection ht with ht; subst ht; repeat' with_reducible first | assumption | apply issue_kept

theorem execAnd_kept {r s : State} (h : Kept r s) (e : EngineId) (f : VFields) :
    ∀ t, execAnd e f s = .next t → Kept r t := by
  unfold execAnd
  intro t ht
  injection ht with ht; subst ht; repeat' with_reducible first | assumption | apply issue_kept

theorem execOr_kept {r s : State} (h : Kept r s) (e : EngineId) (f : VFields) :
    ∀ t, execOr e f s = .next t → Kept r t := by
  unfold execOr
  intro t ht
  injection ht with ht; subst ht; repeat' with_reducible first | assumption | apply issue_kept

theorem execXor_kept {r s : State} (h : Kept r s) (e : EngineId) (f : VFields) :
    ∀ t, execXor e f s = .next t → Kept r t := by
  unfold execXor
  intro t ht
  injection ht with ht; subst ht; repeat' with_reducible first | assumption | apply issue_kept

theorem execShl_kept {r s : State} (h : Kept r s) (e : EngineId) (f : VFields) :
    ∀ t, execShl e f s = .next t → Kept r t := by
  unfold execShl
  intro t ht
  injection ht with ht; subst ht; repeat' with_reducible first | assumption | apply issue_kept

theorem execShr_kept {r s : State} (h : Kept r s) (e : EngineId) (f : VFields) :
    ∀ t, execShr e f s = .next t → Kept r t := by
  unfold execShr
  intro t ht
  injection ht with ht; subst ht; repeat' with_reducible first | assumption | apply issue_kept

theorem execIcmplt_kept {r s : State} (h : Kept r s) (e : EngineId) (f : VFields) :
    ∀ t, execIcmplt e f s = .next t → Kept r t := by
  unfold execIcmplt
  intro t ht
  injection ht with ht; subst ht; repeat' with_reducible first | assumption | apply issue_kept

theorem execIcmpeq_kept {r s : State} (h : Kept r s) (e : EngineId) (f : VFields) :
    ∀ t, execIcmpeq e f s = .next t → Kept r t := by
  unfold execIcmpeq
  intro t ht
  injection ht with ht; subst ht; repeat' with_reducible first | assumption | apply issue_kept

theorem execCvtif_kept {r s : State} (h : Kept r s) (e : EngineId) (f : VFields) :
    ∀ t, execCvtif e f s = .next t → Kept r t := by
  unfold execCvtif
  intro t ht
  injection ht with ht; subst ht; repeat' with_reducible first | assumption | apply issue_kept

theorem execCvtfi_kept {r s : State} (h : Kept r s) (e : EngineId) (f : VFields) :
    ∀ t, execCvtfi e f s = .next t → Kept r t := by
  unfold execCvtfi
  intro t ht
  injection ht with ht; subst ht; repeat' with_reducible first | assumption | apply issue_kept

theorem execRndbf16_kept {r s : State} (h : Kept r s) (e : EngineId) (f : VFields) :
    ∀ t, execRndbf16 e f s = .next t → Kept r t := by
  unfold execRndbf16
  intro t ht
  injection ht with ht; subst ht; repeat' with_reducible first | assumption | apply issue_kept

theorem execRndf16_kept {r s : State} (h : Kept r s) (e : EngineId) (f : VFields) :
    ∀ t, execRndf16 e f s = .next t → Kept r t := by
  unfold execRndf16
  intro t ht
  injection ht with ht; subst ht; repeat' with_reducible first | assumption | apply issue_kept

theorem execRand_kept {r s : State} (h : Kept r s) (e : EngineId) (f : VFields) :
    ∀ t, execRand e f s = .next t → Kept r t := by
  unfold execRand
  intro t ht
  injection ht with ht; subst ht; repeat' with_reducible first | assumption | apply issue_kept

theorem execForward_kept {r s : State} (h : Kept r s) (i : Nat) :
    ∀ t, execForward i s = .next t → Kept r t := by
  unfold execForward
  intro t ht
  refine begin_kept h _ _ _ (fun b u hu => ?_) t ht
  try dsimp only
  repeat' with_reducible first | assumption | apply startAttention_kept

theorem execPartialSegments_kept {r s : State} (h : Kept r s) (i : Nat) :
    ∀ t, execPartialSegments i s = .next t → Kept r t := by
  unfold execPartialSegments
  intro t ht
  refine begin_kept h _ _ _ (fun b u hu => ?_) t ht
  try dsimp only
  repeat' with_reducible first | assumption | apply startAttention_kept

theorem execJoin_kept {r s : State} (h : Kept r s) (i : Nat) :
    ∀ t, execJoin i s = .next t → Kept r t := by
  unfold execJoin
  intro t ht
  refine begin_kept h _ _ _ (fun b u hu => ?_) t ht
  try dsimp only
  repeat' with_reducible first | assumption | apply startAttention_kept

theorem execBackward_kept {r s : State} (h : Kept r s) (i : Nat) :
    ∀ t, execBackward i s = .next t → Kept r t := by
  unfold execBackward
  intro t ht
  refine begin_kept h _ _ _ (fun b u hu => ?_) t ht
  try dsimp only
  repeat' with_reducible first | assumption | apply startAttention_kept

theorem execRope_kept {r s : State} (h : Kept r s) (i : Nat) :
    ∀ t, execRope i s = .next t → Kept r t := by
  unfold execRope
  intro t ht
  refine begin_kept h _ _ _ (fun b u hu => ?_) t ht
  try dsimp only
  repeat' with_reducible first | assumption | apply startAttention_kept

theorem execCopy_kept {r s : State} (h : Kept r s) (i : Nat) :
    ∀ t, execCopy i s = .next t → Kept r t := by
  unfold execCopy
  intro t ht
  refine begin_kept h _ _ _ (fun b u hu => ?_) t ht
  try dsimp only
  repeat' with_reducible first | assumption | apply reading_kept | apply copyRows_kept | apply foldl_kept | split | intro _

theorem execCopy2d_kept {r s : State} (h : Kept r s) (i : Nat) :
    ∀ t, execCopy2d i s = .next t → Kept r t := by
  unfold execCopy2d
  intro t ht
  refine begin_kept h _ _ _ (fun b u hu => ?_) t ht
  try dsimp only
  repeat' with_reducible first | assumption | apply reading_kept | apply copyRows_kept | apply foldl_kept | split | intro _

theorem execFill_kept {r s : State} (h : Kept r s) (i : Nat) :
    ∀ t, execFill i s = .next t → Kept r t := by
  unfold execFill
  intro t ht
  refine begin_kept h _ _ _ (fun b u hu => ?_) t ht
  try dsimp only
  repeat' with_reducible first | assumption | apply writeAt_kept

theorem execStashSave_kept {r s : State} (h : Kept r s) (i : Nat) :
    ∀ t, execStashSave i s = .next t → Kept r t := by
  unfold execStashSave
  intro t ht
  refine begin_kept h _ _ _ (fun b u hu => ?_) t ht
  try dsimp only
  repeat' with_reducible first | assumption | apply reading_kept | apply stashSave_kept | apply foldl_kept | split | intro _

theorem execStashLoad_kept {r s : State} (h : Kept r s) (i : Nat) :
    ∀ t, execStashLoad i s = .next t → Kept r t := by
  unfold execStashLoad
  intro t ht
  refine begin_kept h _ _ _ (fun b u hu => ?_) t ht
  try dsimp only
  repeat' with_reducible first | assumption | apply stashLoad_kept

theorem execAdam_kept {r s : State} (h : Kept r s) (i : Nat) :
    ∀ t, execAdam i s = .next t → Kept r t := by
  unfold execAdam
  intro t ht
  refine begin_kept h _ _ _ (fun b u hu => ?_) t ht
  try dsimp only
  repeat' with_reducible first | assumption | apply startUpdate_kept | apply runUpdate_kept | apply foldl_kept | split | intro _

theorem execMomentum_kept {r s : State} (h : Kept r s) (i : Nat) :
    ∀ t, execMomentum i s = .next t → Kept r t := by
  unfold execMomentum
  intro t ht
  refine begin_kept h _ _ _ (fun b u hu => ?_) t ht
  try dsimp only
  repeat' with_reducible first | assumption | apply startUpdate_kept | apply runUpdate_kept | apply foldl_kept | split | intro _

theorem execUpdateCopy_kept {r s : State} (h : Kept r s) (i : Nat) :
    ∀ t, execUpdateCopy i s = .next t → Kept r t := by
  unfold execUpdateCopy
  intro t ht
  refine begin_kept h _ _ _ (fun b u hu => ?_) t ht
  try dsimp only
  repeat' with_reducible first | assumption | apply startUpdate_kept | apply updateCopy_kept | apply foldl_kept | split | intro _

theorem execVoteStep_kept {r s : State} (h : Kept r s) (i : Nat) :
    ∀ t, execVoteStep i s = .next t → Kept r t := by
  unfold execVoteStep
  intro t ht
  refine begin_kept h _ _ _ (fun b u hu => ?_) t ht
  try dsimp only
  repeat' with_reducible first | assumption | apply startVote_kept | apply placeStaged_kept

theorem execVoteCommit_kept {r s : State} (h : Kept r s) (i : Nat) :
    ∀ t, execVoteCommit i s = .next t → Kept r t := by
  unfold execVoteCommit
  intro t ht
  refine begin_kept h _ _ _ (fun b u hu => ?_) t ht
  try dsimp only
  repeat' with_reducible first | assumption | apply placeStaged_kept | apply setPhase_kept | apply updCtx_kept | apply sendVote_kept

theorem execStepVerdict_kept {r s : State} (h : Kept r s) (c : CtxId) (v : BitVec 2048) :
    ∀ t, execStepVerdict c v s = .next t → Kept r t := by
  unfold execStepVerdict
  intro t ht
  (repeat' split at ht) <;> (injection ht with ht; subst ht; repeat' with_reducible first | assumption | apply takeVerdict_kept)

theorem execCommitVerdict_kept {r s : State} (h : Kept r s) (c : CtxId) (v : BitVec 256) :
    ∀ t, execCommitVerdict c v s = .next t → Kept r t := by
  unfold execCommitVerdict
  intro t ht
  (repeat' split at ht) <;> (injection ht with ht; subst ht; repeat' with_reducible first | assumption | apply lateCommit_kept | apply takeCommit_kept)

theorem execReduceScatter_kept {r s : State} (h : Kept r s) (i : Nat) :
    ∀ t, execReduceScatter i s = .next t → Kept r t := by
  unfold execReduceScatter
  intro t ht
  refine collective_kept h _ _ t ht

theorem execAllReduce_kept {r s : State} (h : Kept r s) (i : Nat) :
    ∀ t, execAllReduce i s = .next t → Kept r t := by
  unfold execAllReduce
  intro t ht
  refine collective_kept h _ _ t ht

theorem execAllGather_kept {r s : State} (h : Kept r s) (i : Nat) :
    ∀ t, execAllGather i s = .next t → Kept r t := by
  unfold execAllGather
  intro t ht
  refine collective_kept h _ _ t ht

theorem execBroadcast_kept {r s : State} (h : Kept r s) (i : Nat) :
    ∀ t, execBroadcast i s = .next t → Kept r t := by
  unfold execBroadcast
  intro t ht
  refine collective_kept h _ _ t ht

theorem execShift_kept {r s : State} (h : Kept r s) (i : Nat) :
    ∀ t, execShift i s = .next t → Kept r t := by
  unfold execShift
  intro t ht
  refine collective_kept h _ _ t ht

theorem execAllToAll_kept {r s : State} (h : Kept r s) (i : Nat) :
    ∀ t, execAllToAll i s = .next t → Kept r t := by
  unfold execAllToAll
  intro t ht
  refine collective_kept h _ _ t ht

theorem execAmaxAgree_kept {r s : State} (h : Kept r s) (i : Nat) :
    ∀ t, execAmaxAgree i s = .next t → Kept r t := by
  unfold execAmaxAgree
  intro t ht
  refine collective_kept h _ _ t ht

theorem execCstatAgree_kept {r s : State} (h : Kept r s) (i : Nat) :
    ∀ t, execCstatAgree i s = .next t → Kept r t := by
  unfold execCstatAgree
  intro t ht
  refine collective_kept h _ _ t ht

theorem execTestEngine_kept {r s : State} (h : Kept r s) (i : Nat) (sigs : List DWord) :
    ∀ t, execTestEngine i sigs s = .next t → Kept r t := by
  unfold execTestEngine
  intro t ht
  refine begin_kept h _ _ _ (fun b u hu => ?_) t ht
  try dsimp only
  repeat' with_reducible first | assumption | apply testEngine_kept

theorem execTestDrain_kept {r s : State} (h : Kept r s) (i : Nat) :
    ∀ t, execTestDrain i s = .next t → Kept r t := by
  unfold execTestDrain
  intro t ht
  refine begin_kept h _ _ _ (fun b u hu => ?_) t ht
  try dsimp only
  repeat' with_reducible first | assumption | apply testDrain_kept

theorem execTestScrub_kept {r s : State} (h : Kept r s) (i : Nat) :
    ∀ t, execTestScrub i s = .next t → Kept r t := by
  unfold execTestScrub
  intro t ht
  refine begin_kept h _ _ _ (fun b u hu => ?_) t ht
  try dsimp only
  repeat' with_reducible first | assumption | apply testScrub_kept

theorem execTestSliceEnd_kept {r s : State} (h : Kept r s) (e : EngineId) (sig : DWord) :
    ∀ t, execTestSliceEnd e sig s = .next t → Kept r t := by
  unfold execTestSliceEnd
  intro t ht
  (repeat' split at ht) <;> (injection ht with ht; subst ht; repeat' with_reducible first | assumption | apply endSlice_kept)

theorem execResumeContext_kept {r s : State} (h : Kept r s) (w : Word) :
    ∀ t, execResumeContext w s = .next t → Kept r t := by
  unfold execResumeContext
  intro t ht
  injection ht with ht; subst ht; repeat' with_reducible first | assumption | apply onDies_kept | apply trainCtl_kept | apply foldl_kept | split | intro _

theorem execClearSkipRun_kept {r s : State} (h : Kept r s) (w : Word) :
    ∀ t, execClearSkipRun w s = .next t → Kept r t := by
  unfold execClearSkipRun
  intro t ht
  injection ht with ht; subst ht; repeat' with_reducible first | assumption | apply onDies_kept | apply trainCtl_kept | apply foldl_kept | split | intro _

theorem execCstatRead_kept {r s : State} (h : Kept r s) (w : Word) :
    ∀ t, execCstatRead w s = .next t → Kept r t := by
  unfold execCstatRead
  intro t ht
  injection ht with ht; subst ht; repeat' with_reducible first | assumption | apply onDies_kept | apply cstatSelect_kept | apply foldl_kept | split | intro _

theorem execCstatReadCopy_kept {r s : State} (h : Kept r s) :
    ∀ t, execCstatReadCopy s = .next t → Kept r t := by
  unfold execCstatReadCopy
  intro t ht
  revert ht; (try dsimp only); intro ht
  (repeat' split at ht) <;> (injection ht with ht; subst ht; repeat' with_reducible first | assumption | apply setReg_kept | apply off_kept | apply foldl_kept | split | intro _ | simp only [kept_mk])

theorem execRetrainPhaseEnd_kept {r s : State} (h : Kept r s) (r1 : RetrainReport) :
    ∀ t, execRetrainPhaseEnd r1 s = .next t → Kept r t := by
  unfold execRetrainPhaseEnd
  intro t ht
  (repeat' split at ht) <;> (injection ht with ht; subst ht; repeat' with_reducible first | assumption | apply endPhase_kept | apply strike_kept)

theorem execStackTemperatureRead_kept {r s : State} (h : Kept r s) (st : StackId) (temp : Byte) :
    ∀ t, execStackTemperatureRead st temp s = .next t → Kept r t := by
  unfold execStackTemperatureRead
  intro t ht
  injection ht with ht; subst ht; repeat' with_reducible first | assumption | apply readTemperature_kept

theorem execRefreshManagementRequest_kept {r s : State} (h : Kept r s) (x0 : StackId) :
    ∀ t, execRefreshManagementRequest x0 s = .next t → Kept r t := by
  unfold execRefreshManagementRequest
  intro t ht
  injection ht with ht; subst ht; repeat' with_reducible assumption

theorem execMarginSweep_kept {r s : State} (h : Kept r s) (w : Word) :
    ∀ t, execMarginSweep w s = .next t → Kept r t := by
  unfold execMarginSweep
  intro t ht
  injection ht with ht; subst ht; repeat' with_reducible first | assumption | apply onDies_kept | apply marginCtl_kept | apply foldl_kept | split | intro _

theorem execMarginSweepEnd_kept {r s : State} (h : Kept r s) (low : Byte) (high : Byte) (worst : BitVec 5) :
    ∀ t, execMarginSweepEnd low high worst s = .next t → Kept r t := by
  unfold execMarginSweepEnd
  intro t ht
  (repeat' split at ht) <;> (injection ht with ht; subst ht; repeat' with_reducible first | assumption | apply endSweep_kept)

theorem execMemXlate_kept {r s : State} (h : Kept r s) (addr : DWord) :
    ∀ t, execMemXlate addr s = .next t → Kept r t := by
  unfold execMemXlate
  intro t ht
  injection ht with ht; subst ht; repeat' with_reducible first | assumption | apply onDies_kept | apply xlate_kept | apply foldl_kept | split | intro _

theorem execDataFlit_kept {r s : State} (h : Kept r s) (p : PortId) (f : Arrival) :
    ∀ t, execDataFlit p f s = .next t → Kept r t := by
  unfold execDataFlit
  intro t ht
  injection ht with ht; subst ht; repeat' with_reducible first | assumption | apply flitIn_kept | apply takeData_kept | apply sendNak_kept | apply foldl_kept | split | intro _

theorem execIdleFlit_kept {r s : State} (h : Kept r s) (p : PortId) (f : Arrival) :
    ∀ t, execIdleFlit p f s = .next t → Kept r t := by
  unfold execIdleFlit
  intro t ht
  injection ht with ht; subst ht; repeat' with_reducible first | assumption | apply controlIn_kept | apply foldl_kept | split | intro _

theorem execNak_kept {r s : State} (h : Kept r s) (p : PortId) (f : Arrival) :
    ∀ t, execNak p f s = .next t → Kept r t := by
  unfold execNak
  intro t ht
  injection ht with ht; subst ht; repeat' with_reducible first | assumption | apply controlIn_kept | apply resend_kept | apply foldl_kept | split | intro _

theorem execHello_kept {r s : State} (h : Kept r s) (p : PortId) (f : Arrival) :
    ∀ t, execHello p f s = .next t → Kept r t := by
  unfold execHello
  intro t ht
  injection ht with ht; subst ht; repeat' with_reducible first | assumption | apply controlIn_kept | apply meet_kept | apply foldl_kept | split | intro _

theorem execTime_kept {r s : State} (h : Kept r s) (p : PortId) (f : Arrival) (now : DWord) :
    ∀ t, execTime p f now s = .next t → Kept r t := by
  unfold execTime
  intro t ht
  revert ht; (try dsimp only); intro ht
  injection ht with ht; subst ht; repeat' with_reducible first | assumption | apply at__kept | apply controlIn_kept | apply timeIn_kept | apply foldl_kept | split | intro _

theorem execEq_kept {r s : State} (h : Kept r s) (p : PortId) (f : Arrival) :
    ∀ t, execEq p f s = .next t → Kept r t := by
  unfold execEq
  intro t ht
  injection ht with ht; subst ht; repeat' with_reducible first | assumption | apply controlIn_kept | apply updPort_kept | apply foldl_kept | split | intro _

theorem execLinkSilence_kept {r s : State} (h : Kept r s) (p : PortId) :
    ∀ t, execLinkSilence p s = .next t → Kept r t := by
  unfold execLinkSilence
  intro t ht
  (repeat' split at ht) <;> (injection ht with ht; subst ht; repeat' with_reducible first | assumption | apply linkDown_kept)

theorem execLinkTrainingFailed_kept {r s : State} (h : Kept r s) (p : PortId) :
    ∀ t, execLinkTrainingFailed p s = .next t → Kept r t := by
  unfold execLinkTrainingFailed
  intro t ht
  (repeat' split at ht) <;> (injection ht with ht; subst ht; repeat' with_reducible first | assumption | apply linkDown_kept)

theorem execLinkRetrain_kept {r s : State} (h : Kept r s) (p : PortId) :
    ∀ t, execLinkRetrain p s = .next t → Kept r t := by
  unfold execLinkRetrain
  intro t ht
  (repeat' split at ht) <;> (injection ht with ht; subst ht; repeat' with_reducible first | assumption | apply setPortState_kept | apply setPort_kept)

theorem execLinkUp_kept {r s : State} (h : Kept r s) (p : PortId) :
    ∀ t, execLinkUp p s = .next t → Kept r t := by
  unfold execLinkUp
  intro t ht
  (repeat' split at ht) <;> (injection ht with ht; subst ht; repeat' with_reducible first | assumption | apply linkUp_kept)

theorem execPortAccept_kept {r s : State} (h : Kept r s) (p : PortId) :
    ∀ t, execPortAccept p s = .next t → Kept r t := by
  unfold execPortAccept
  intro t ht
  injection ht with ht; subst ht; repeat' with_reducible first | assumption | apply onDies_kept | apply acceptPartner_kept | apply foldl_kept | split | intro _

theorem execEqualisationStepEnd_kept {r s : State} (h : Kept r s) (p : PortId) :
    ∀ t, execEqualisationStepEnd p s = .next t → Kept r t := by
  unfold execEqualisationStepEnd
  intro t ht
  (repeat' split at ht) <;> (injection ht with ht; subst ht; repeat' with_reducible first | assumption | apply endEqualisation_kept)

theorem execPacketForward_kept {r s : State} (h : Kept r s) (p : PortId) (pk : LanePacket) :
    ∀ t, execPacketForward p pk s = .next t → Kept r t := by
  unfold execPacketForward
  intro t ht
  (repeat' split at ht) <;> (injection ht with ht; subst ht; repeat' with_reducible first | assumption | apply forward_kept)

theorem execPut_kept {r s : State} (h : Kept r s) (x0 : PortId) (pk : Packet) :
    ∀ t, execPut x0 pk s = .next t → Kept r t := by
  unfold execPut
  intro t ht
  (repeat' split at ht) <;> (injection ht with ht; subst ht; repeat' with_reducible first | assumption | apply receivePut_kept)

theorem execPutAck_kept {r s : State} (h : Kept r s) (x0 : PortId) (pk : Packet) :
    ∀ t, execPutAck x0 pk s = .next t → Kept r t := by
  unfold execPutAck
  intro t ht
  (repeat' split at ht) <;> (injection ht with ht; subst ht; repeat' with_reducible first | assumption | apply receiveAck_kept)

theorem execPutResend_kept {r s : State} (h : Kept r s) (n : Nat) :
    ∀ t, execPutResend n s = .next t → Kept r t := by
  unfold execPutResend
  intro t ht
  (repeat' split at ht) <;> (injection ht with ht; subst ht; repeat' with_reducible first | assumption | apply routePacket_kept)

theorem execSched_kept {r s : State} (h : Kept r s) (p : PortId) (pk : Packet) (now : DWord) :
    ∀ t, execSched p pk now s = .next t → Kept r t := by
  unfold execSched
  intro t ht
  revert ht; (try dsimp only); intro ht
  (repeat' split at ht) <;> (injection ht with ht; subst ht; repeat' with_reducible first | assumption | apply at__kept | apply receiveSched_kept)

theorem execStretchReq_kept {r s : State} (h : Kept r s) (p : PortId) (pk : Packet) (now : DWord) :
    ∀ t, execStretchReq p pk now s = .next t → Kept r t := by
  unfold execStretchReq
  intro t ht
  revert ht; (try dsimp only); intro ht
  (repeat' split at ht) <;> (injection ht with ht; subst ht; repeat' with_reducible first | assumption | apply at__kept | apply receiveStretch_kept)

theorem execAbort_kept {r s : State} (h : Kept r s) (p : PortId) (pk : Packet) :
    ∀ t, execAbort p pk s = .next t → Kept r t := by
  unfold execAbort
  intro t ht
  (repeat' split at ht) <;> (injection ht with ht; subst ht; repeat' with_reducible first | assumption | apply receiveAbort_kept)

theorem execAgree_kept {r s : State} (h : Kept r s) (x0 : PortId) (pk : Packet) :
    ∀ t, execAgree x0 pk s = .next t → Kept r t := by
  unfold execAgree
  intro t ht
  (repeat' split at ht) <;> (injection ht with ht; subst ht; repeat' with_reducible first | assumption | apply receiveAgree_kept)

theorem execMgmt_kept {r s : State} (h : Kept r s) (x0 : PortId) (pk : Packet) (tags : Option (Word × Word)) :
    ∀ t, execMgmt x0 pk tags s = .next t → Kept r t := by
  unfold execMgmt
  intro t ht
  (repeat' split at ht) <;> (injection ht with ht; subst ht; repeat' with_reducible first | assumption | apply checked_kept | apply takeTags_kept | apply foldl_kept | split | intro _)

theorem execAgreementMax_kept {r s : State} (h : Kept r s) (w : Word) :
    ∀ t, execAgreementMax w s = .next t → Kept r t := by
  unfold execAgreementMax
  intro t ht
  injection ht with ht; subst ht; repeat' with_reducible first | assumption | apply onDies_kept | apply agreeCtl_kept | apply foldl_kept | split | intro _

theorem execAgreementMin_kept {r s : State} (h : Kept r s) (w : Word) :
    ∀ t, execAgreementMin w s = .next t → Kept r t := by
  unfold execAgreementMin
  intro t ht
  injection ht with ht; subst ht; repeat' with_reducible first | assumption | apply onDies_kept | apply agreeCtl_kept | apply foldl_kept | split | intro _

theorem execAgreementTimeout_kept {r s : State} (h : Kept r s) :
    ∀ t, execAgreementTimeout s = .next t → Kept r t := by
  unfold execAgreementTimeout
  intro t ht
  revert ht; (try dsimp only); intro ht
  (repeat' split at ht) <;> (injection ht with ht; subst ht; repeat' with_reducible first | assumption | apply put_kept | apply endAgree_kept | apply event_kept)

theorem execGroupTableWrite_kept {r s : State} (h : Kept r s) (t1 : GroupWrite) (w : Word) :
    ∀ t, execGroupTableWrite t1 w s = .next t → Kept r t := by
  unfold execGroupTableWrite
  intro t ht
  injection ht with ht; subst ht; repeat' with_reducible first | assumption | apply onDies_kept | apply writeGroup_kept | apply foldl_kept | split | intro _

theorem execCtxEpochWrite_kept {r s : State} (h : Kept r s) (c : CtxId) (w : Word) :
    ∀ t, execCtxEpochWrite c w s = .next t → Kept r t := by
  unfold execCtxEpochWrite
  intro t ht
  injection ht with ht; subst ht; repeat' with_reducible first | assumption | apply onDies_kept | apply writeEpoch_kept | apply foldl_kept | split | intro _

theorem execLockstepMismatch_kept {r s : State} (h : Kept r s) (pair : Fin 24) :
    ∀ t, execLockstepMismatch pair s = .next t → Kept r t := by
  unfold execLockstepMismatch
  intro t ht
  (repeat' split at ht) <;> (injection ht with ht; subst ht; repeat' with_reducible first | assumption | apply haltPair_kept)

theorem execUcieLinkRecovery_kept {r s : State} (h : Kept r s) (link : Byte) (ok : Bool) :
    ∀ t, execUcieLinkRecovery link ok s = .next t → Kept r t := by
  unfold execUcieLinkRecovery
  intro t ht
  revert ht; (try dsimp only); intro ht
  (repeat' split at ht) <;> (injection ht with ht; subst ht; repeat' with_reducible first | assumption | apply event_kept | apply measure_kept | apply orderByWatchtower_kept)

theorem execWatchtowerEval_kept {r s : State} (h : Kept r s) :
    ∀ t, execWatchtowerEval s = .next t → Kept r t := by
  unfold execWatchtowerEval
  intro t ht
  revert ht; (try dsimp only); intro ht
  injection ht with ht; subst ht; repeat' with_reducible first | assumption | apply graceCheck_kept | apply showRisk_kept | apply showInput_kept | apply foldl_kept | split | intro _ | simp only [kept_mk]

theorem execWatchtowerWindowAdvance_kept {r s : State} (h : Kept r s) :
    ∀ t, execWatchtowerWindowAdvance s = .next t → Kept r t := by
  unfold execWatchtowerWindowAdvance
  intro t ht
  revert ht; (try dsimp only); intro ht
  injection ht with ht; subst ht; repeat' with_reducible first | assumption | apply foldl_kept | split | intro _ | simp only [kept_mk]

theorem execGraceExpiry_kept {r s : State} (h : Kept r s) :
    ∀ t, execGraceExpiry s = .next t → Kept r t := by
  unfold execGraceExpiry
  intro t ht
  injection ht with ht; subst ht; repeat' with_reducible first | assumption | apply graceCheck_kept

theorem execRecorderRead_kept {r s : State} (h : Kept r s) (w : Word) :
    ∀ t, execRecorderRead w s = .next t → Kept r t := by
  unfold execRecorderRead
  intro t ht
  injection ht with ht; subst ht; repeat' with_reducible first | assumption | apply onLk_kept | apply recorderSelect_kept | apply foldl_kept | split | intro _

theorem execRecorderReadCopy_kept {r s : State} (h : Kept r s) :
    ∀ t, execRecorderReadCopy s = .next t → Kept r t := by
  unfold execRecorderReadCopy
  intro t ht
  (repeat' split at ht) <;> (injection ht with ht; subst ht; repeat' with_reducible first | assumption | apply copyRecord_kept)

theorem execWatchdogSample_kept {r s : State} (h : Kept r s) :
    ∀ t, execWatchdogSample s = .next t → Kept r t := by
  unfold execWatchdogSample
  intro t ht
  revert ht; (try dsimp only); intro ht
  (repeat' split at ht) <;> (injection ht with ht; subst ht; repeat' with_reducible first | assumption | apply sample_kept | apply foldl_kept | split | intro _ | simp only [kept_mk])

theorem execComputeResetTimeout_kept {r s : State} (h : Kept r s) :
    ∀ t, execComputeResetTimeout s = .next t → Kept r t := by
  unfold execComputeResetTimeout
  intro t ht
  (repeat' split at ht) <;> (injection ht with ht; subst ht; repeat' with_reducible first | assumption | apply orderReset_kept)

theorem execRecoveryTimeout_kept {r s : State} (h : Kept r s) :
    ∀ t, execRecoveryTimeout s = .next t → Kept r t := by
  unfold execRecoveryTimeout
  intro t ht
  (repeat' split at ht) <;> (injection ht with ht; subst ht; repeat' with_reducible first | assumption | apply stopHeartbeat_kept)

theorem execComputeReset_kept {r s : State} (h : Kept r s) (w : Word) :
    ∀ t, execComputeReset w s = .next t → Kept r t := by
  unfold execComputeReset
  intro t ht
  injection ht with ht; subst ht; repeat' with_reducible first | assumption | apply onLk_kept | apply resetCmd_kept | apply foldl_kept | split | intro _

theorem execDeviceRecovery_kept {r s : State} (h : Kept r s) (w : Word) :
    ∀ t, execDeviceRecovery w s = .next t → Kept r t := by
  unfold execDeviceRecovery
  intro t ht
  injection ht with ht; subst ht; repeat' with_reducible first | assumption | apply onLk_kept | apply resetCmd_kept | apply foldl_kept | split | intro _

theorem execContextTeardown_kept {r s : State} (h : Kept r s) (w : Word) :
    ∀ t, execContextTeardown w s = .next t → Kept r t := by
  unfold execContextTeardown
  intro t ht
  injection ht with ht; subst ht; repeat' with_reducible first | assumption | apply onLk_kept | apply resetCmd_kept | apply foldl_kept | split | intro _

theorem execResetDrainEnd_kept {r s : State} (h : Kept r s) (now : DWord) :
    ∀ t, execResetDrainEnd now s = .next t → Kept r t := by
  unfold execResetDrainEnd
  intro t ht
  (repeat' split at ht) <;> (injection ht with ht; subst ht; repeat' with_reducible first | assumption | apply endResetDrain_kept | apply at__kept)

theorem execComputeResetDone_kept {r s : State} (h : Kept r s) (ms : Word) :
    ∀ t, execComputeResetDone ms s = .next t → Kept r t := by
  unfold execComputeResetDone
  intro t ht
  (repeat' split at ht) <;> (injection ht with ht; subst ht; repeat' with_reducible first | assumption | apply endCompute_kept)

theorem execDeviceRecoveryDone_kept {r s : State} (h : Kept r s) (r1 : RecoveryReport) :
    ∀ t, execDeviceRecoveryDone r1 s = .next t → Kept r t := by
  unfold execDeviceRecoveryDone
  intro t ht
  (repeat' split at ht) <;> (injection ht with ht; subst ht; repeat' with_reducible first | assumption | apply endRecovery_kept)

theorem execTeardownDrainEnd_kept {r s : State} (h : Kept r s) (c : CtxId) (us : Word) :
    ∀ t, execTeardownDrainEnd c us s = .next t → Kept r t := by
  unfold execTeardownDrainEnd
  intro t ht
  (repeat' split at ht) <;> (injection ht with ht; subst ht; repeat' with_reducible first | assumption | apply endTeardown_kept)

theorem execQuarantineFree_kept {r s : State} (h : Kept r s) (w : Word) :
    ∀ t, execQuarantineFree w s = .next t → Kept r t := by
  unfold execQuarantineFree
  intro t ht
  injection ht with ht; subst ht; repeat' with_reducible first | assumption | apply onLk_kept | apply freeQuarantine_kept | apply foldl_kept | split | intro _

theorem execCaptureNext_kept {r s : State} (h : Kept r s) (w : Word) :
    ∀ t, execCaptureNext w s = .next t → Kept r t := by
  unfold execCaptureNext
  intro t ht
  injection ht with ht; subst ht; repeat' with_reducible first | assumption | apply onLk_kept | apply snapCmd_kept | apply foldl_kept | split | intro _

theorem execSeal_kept {r s : State} (h : Kept r s) (w : Word) :
    ∀ t, execSeal w s = .next t → Kept r t := by
  unfold execSeal
  intro t ht
  injection ht with ht; subst ht; repeat' with_reducible first | assumption | apply onLk_kept | apply snapCmd_kept | apply foldl_kept | split | intro _

theorem execSealAck_kept {r s : State} (h : Kept r s) :
    ∀ t, execSealAck s = .next t → Kept r t := by
  unfold execSealAck
  intro t ht
  (repeat' split at ht) <;> (injection ht with ht; subst ht; repeat' with_reducible first | assumption | apply sealed_kept | apply updCtx_kept)

theorem execSealTimeout_kept {r s : State} (h : Kept r s) :
    ∀ t, execSealTimeout s = .next t → Kept r t := by
  unfold execSealTimeout
  intro t ht
  (repeat' split at ht) <;> (injection ht with ht; subst ht; repeat' with_reducible first | assumption | apply snapDone_kept | apply unseal_kept | apply updCtx_kept)

theorem execRestore_kept {r s : State} (h : Kept r s) (w : Word) (remote : Option (List Byte)) :
    ∀ t, execRestore w remote s = .next t → Kept r t := by
  unfold execRestore
  intro t ht
  injection ht with ht; subst ht; repeat' with_reducible first | assumption | apply onLk_kept | apply snapCmd_kept | apply foldl_kept | split | intro _

theorem execRestoreSourceTimeout_kept {r s : State} (h : Kept r s) :
    ∀ t, execRestoreSourceTimeout s = .next t → Kept r t := by
  unfold execRestoreSourceTimeout
  intro t ht
  (repeat' split at ht) <;> (injection ht with ht; subst ht; repeat' with_reducible first | assumption | apply refuseRestore_kept)

theorem execBindBuddy_kept {r s : State} (h : Kept r s) (w : Word) (tags : Option (Word × Word)) :
    ∀ t, execBindBuddy w tags s = .next t → Kept r t := by
  unfold execBindBuddy
  intro t ht
  injection ht with ht; subst ht; repeat' with_reducible first | assumption | apply onLk_kept | apply snapCmd_kept | apply foldl_kept | split | intro _

theorem execBuddyTimeout_kept {r s : State} (h : Kept r s) :
    ∀ t, execBuddyTimeout s = .next t → Kept r t := by
  unfold execBuddyTimeout
  intro t ht
  (repeat' split at ht) <;> (injection ht with ht; subst ht; repeat' with_reducible first | assumption | apply refuseBuddy_kept)

theorem execSnapshotStart_kept {r s : State} (h : Kept r s) (w : Word) :
    ∀ t, execSnapshotStart w s = .next t → Kept r t := by
  unfold execSnapshotStart
  intro t ht
  injection ht with ht; subst ht; repeat' with_reducible first | assumption | apply onLk_kept | apply snapCmd_kept | apply foldl_kept | split | intro _

theorem execCaptureComplete_kept {r s : State} (h : Kept r s) (c : CtxId) :
    ∀ t, execCaptureComplete c s = .next t → Kept r t := by
  unfold execCaptureComplete
  intro t ht
  revert ht; (try dsimp only); intro ht
  (repeat' split at ht) <;> (injection ht with ht; subst ht; repeat' with_reducible first | assumption | apply firmwareReads_kept | refine firmwareReads_kept_pair ?_ ‹_› | apply abandonCapture_kept | apply writeAt_kept | apply put_kept | apply updCtx_kept)

theorem execCaptureGapExpiry_kept {r s : State} (h : Kept r s) (c : CtxId) :
    ∀ t, execCaptureGapExpiry c s = .next t → Kept r t := by
  unfold execCaptureGapExpiry
  intro t ht
  injection ht with ht; subst ht; repeat' with_reducible first | assumption | apply abandonCapture_kept

theorem execSnapshotExport_kept {r s : State} (h : Kept r s) (c : CtxId) :
    ∀ t, execSnapshotExport c s = .next t → Kept r t := by
  unfold execSnapshotExport
  intro t ht
  revert ht; (try dsimp only); intro ht
  (repeat' split at ht) <;> (injection ht with ht; subst ht; repeat' with_reducible first | assumption | apply firmwareReads_kept | refine firmwareReads_kept_pair ?_ ‹_› | apply emit_kept | apply put_kept | apply updCtx_kept)

theorem execExportAck_kept {r s : State} (h : Kept r s) (c : CtxId) :
    ∀ t, execExportAck c s = .next t → Kept r t := by
  unfold execExportAck
  intro t ht
  revert ht; (try dsimp only); intro ht
  (repeat' split at ht) <;> (injection ht with ht; subst ht; repeat' with_reducible first | assumption | apply put_kept | apply setFlags_kept | apply updCtx_kept | apply event_kept)

theorem execWardCopyReceived_kept {r s : State} (h : Kept r s) (c : CtxId) (slot : Fin 2) (bytes : List Byte) :
    ∀ t, execWardCopyReceived c slot bytes s = .next t → Kept r t := by
  unfold execWardCopyReceived
  intro t ht
  (repeat' split at ht) <;> (injection ht with ht; subst ht; repeat' with_reducible first | assumption | apply takeSealed_kept | apply takeWard_kept)

theorem execFwWrite_kept {r s : State} (h : Kept r s) (w : Word) :
    ∀ t, execFwWrite w s = .next t → Kept r t := by
  unfold execFwWrite
  intro t ht
  injection ht with ht; subst ht; repeat' with_reducible first | assumption | apply onLk_kept | apply flashCmd_kept | apply foldl_kept | split | intro _

theorem execFwCommit_kept {r s : State} (h : Kept r s) (w : Word) :
    ∀ t, execFwCommit w s = .next t → Kept r t := by
  unfold execFwCommit
  intro t ht
  injection ht with ht; subst ht; repeat' with_reducible first | assumption | apply onLk_kept | apply flashCmd_kept | apply foldl_kept | split | intro _

theorem execFwConfirm_kept {r s : State} (h : Kept r s) (w : Word) :
    ∀ t, execFwConfirm w s = .next t → Kept r t := by
  unfold execFwConfirm
  intro t ht
  injection ht with ht; subst ht; repeat' with_reducible first | assumption | apply onLk_kept | apply flashCmd_kept | apply foldl_kept | split | intro _

theorem execSiteWrite_kept {r s : State} (h : Kept r s) (w : Word) :
    ∀ t, execSiteWrite w s = .next t → Kept r t := by
  unfold execSiteWrite
  intro t ht
  injection ht with ht; subst ht; repeat' with_reducible first | assumption | apply onLk_kept | apply flashCmd_kept | apply foldl_kept | split | intro _

theorem execEnrol_kept {r s : State} (h : Kept r s) (w : Word) :
    ∀ t, execEnrol w s = .next t → Kept r t := by
  unfold execEnrol
  intro t ht
  injection ht with ht; subst ht; repeat' with_reducible first | assumption | apply onLk_kept | apply flashCmd_kept | apply foldl_kept | split | intro _

theorem execRelease_kept {r s : State} (h : Kept r s) (w : Word) (nonce : DWord) :
    ∀ t, execRelease w nonce s = .next t → Kept r t := by
  unfold execRelease
  intro t ht
  injection ht with ht; subst ht; repeat' with_reducible first | assumption | apply onLk_kept | apply flashCmd_kept | apply foldl_kept | split | intro _

theorem execFlashCommandDone_kept {r s : State} (h : Kept r s) :
    ∀ t, execFlashCommandDone s = .next t → Kept r t := by
  unfold execFlashCommandDone
  intro t ht
  (repeat' split at ht) <;> (injection ht with ht; subst ht; repeat' with_reducible first | assumption | apply endFlash_kept)

theorem execEnterStandby_kept {r s : State} (h : Kept r s) :
    ∀ t, execEnterStandby s = .next t → Kept r t := by
  unfold execEnterStandby
  intro t ht
  injection ht with ht; subst ht; repeat' with_reducible first | assumption | apply onLk_kept | apply powerRequest_kept | apply foldl_kept | split | intro _

theorem execLeaveStandby_kept {r s : State} (h : Kept r s) :
    ∀ t, execLeaveStandby s = .next t → Kept r t := by
  unfold execLeaveStandby
  intro t ht
  injection ht with ht; subst ht; repeat' with_reducible first | assumption | apply onLk_kept | apply powerRequest_kept | apply foldl_kept | split | intro _

theorem execLeaveStandbyDone_kept {r s : State} (h : Kept r s) (r1 : RecoveryReport) :
    ∀ t, execLeaveStandbyDone r1 s = .next t → Kept r t := by
  unfold execLeaveStandbyDone
  intro t ht
  (repeat' split at ht) <;> (injection ht with ht; subst ht; repeat' with_reducible first | assumption | apply leaveStandby_kept)

theorem execEnterOff_kept {r s : State} (h : Kept r s) :
    ∀ t, execEnterOff s = .next t → Kept r t := by
  unfold execEnterOff
  intro t ht
  injection ht with ht; subst ht; repeat' with_reducible first | assumption | apply onLk_kept | apply powerRequest_kept | apply foldl_kept | split | intro _

theorem execDoeDiscovery_kept {r s : State} (h : Kept r s) (x0 : List Byte) :
    ∀ t, execDoeDiscovery x0 s = .next t → Kept r t := by
  unfold execDoeDiscovery
  intro t ht
  injection ht with ht; subst ht; repeat' with_reducible first | assumption | apply answer_kept

theorem execGetVersion_kept {r s : State} (h : Kept r s) (x0 : List Byte) :
    ∀ t, execGetVersion x0 s = .next t → Kept r t := by
  unfold execGetVersion
  intro t ht
  injection ht with ht; subst ht; repeat' with_reducible first | assumption | apply spdm_kept

theorem execGetCapabilities_kept {r s : State} (h : Kept r s) (x0 : List Byte) :
    ∀ t, execGetCapabilities x0 s = .next t → Kept r t := by
  unfold execGetCapabilities
  intro t ht
  injection ht with ht; subst ht; repeat' with_reducible first | assumption | apply spdm_kept

theorem execNegotiateAlgorithms_kept {r s : State} (h : Kept r s) (req : List Byte) :
    ∀ t, execNegotiateAlgorithms req s = .next t → Kept r t := by
  unfold execNegotiateAlgorithms
  intro t ht
  (repeat' split at ht) <;> (injection ht with ht; subst ht; repeat' with_reducible first | assumption | apply spdm_kept)

theorem execGetDigests_kept {r s : State} (h : Kept r s) (x0 : List Byte) :
    ∀ t, execGetDigests x0 s = .next t → Kept r t := by
  unfold execGetDigests
  intro t ht
  injection ht with ht; subst ht; repeat' with_reducible first | assumption | apply spdm_kept

theorem execGetCertificate_kept {r s : State} (h : Kept r s) (req : List Byte) :
    ∀ t, execGetCertificate req s = .next t → Kept r t := by
  unfold execGetCertificate
  intro t ht
  injection ht with ht; subst ht; repeat' with_reducible first | assumption | apply spdm_kept

theorem execChallenge_kept {r s : State} (h : Kept r s) (req : List Byte) :
    ∀ t, execChallenge req s = .next t → Kept r t := by
  unfold execChallenge
  intro t ht
  injection ht with ht; subst ht; repeat' with_reducible first | assumption | apply spdm_kept

theorem execGetMeasurements_kept {r s : State} (h : Kept r s) (req : List Byte) :
    ∀ t, execGetMeasurements req s = .next t → Kept r t := by
  unfold execGetMeasurements
  intro t ht
  injection ht with ht; subst ht; repeat' with_reducible first | assumption | apply spdm_kept

theorem execSpdmUnsupportedRequest_kept {r s : State} (h : Kept r s) (x0 : List Byte) :
    ∀ t, execSpdmUnsupportedRequest x0 s = .next t → Kept r t := by
  unfold execSpdmUnsupportedRequest
  intro t ht
  injection ht with ht; subst ht; repeat' with_reducible first | assumption | apply spdm_kept

theorem execSqDoorbell_kept {r s : State} (h : Kept r s) (c : CtxId) (w : Word) (entries : List (BitVec 512)) :
    ∀ t, execSqDoorbell c w entries s = .next t → Kept r t := by
  unfold execSqDoorbell
  intro t ht
  injection ht with ht; subst ht; repeat' with_reducible first | assumption | apply onLk_kept | apply sqDoorbell_kept | apply foldl_kept | split | intro _

theorem execCqHeadDoorbell_kept {r s : State} (h : Kept r s) (c : CtxId) (w : Word) :
    ∀ t, execCqHeadDoorbell c w s = .next t → Kept r t := by
  unfold execCqHeadDoorbell
  intro t ht
  injection ht with ht; subst ht; repeat' with_reducible first | assumption | apply onLk_kept | apply cqDoorbell_kept | apply foldl_kept | split | intro _

theorem execQueueConfigWrite_kept {r s : State} (h : Kept r s) (c : CtxId) (q : QueueSetting) (w : Word) :
    ∀ t, execQueueConfigWrite c q w s = .next t → Kept r t := by
  unfold execQueueConfigWrite
  intro t ht
  injection ht with ht; subst ht; repeat' with_reducible first | assumption | apply onLk_kept | apply writeQueue_kept | apply foldl_kept | split | intro _

theorem execLoad_kept {r s : State} (h : Kept r s) (c : CtxId) :
    ∀ t, execLoad c s = .next t → Kept r t := by
  unfold execLoad
  intro t ht
  injection ht with ht; subst ht; repeat' with_reducible first | assumption | apply onEntry_kept | apply orderLoad_kept | apply foldl_kept | split | intro _

theorem execImageFetched_kept {r s : State} (h : Kept r s) (c : CtxId) (im : Image) :
    ∀ t, execImageFetched c im s = .next t → Kept r t := by
  unfold execImageFetched
  intro t ht
  injection ht with ht; subst ht; repeat' with_reducible first | assumption | apply imageIn_kept

theorem execLoadHbm_kept {r s : State} (h : Kept r s) (c : CtxId) (im : Image) :
    ∀ t, execLoadHbm c im s = .next t → Kept r t := by
  unfold execLoadHbm
  intro t ht
  injection ht with ht; subst ht; repeat' with_reducible first | assumption | apply onEntry_kept | apply orderLoadHbm_kept | apply foldl_kept | split | intro _

theorem execStart_kept {r s : State} (h : Kept r s) (c : CtxId) :
    ∀ t, execStart c s = .next t → Kept r t := by
  unfold execStart
  intro t ht
  injection ht with ht; subst ht; repeat' with_reducible first | assumption | apply onEntry_kept | apply orderRun_kept | apply foldl_kept | split | intro _

theorem execEval_kept {r s : State} (h : Kept r s) (c : CtxId) :
    ∀ t, execEval c s = .next t → Kept r t := by
  unfold execEval
  intro t ht
  injection ht with ht; subst ht; repeat' with_reducible first | assumption | apply onEntry_kept | apply orderEval_kept | apply foldl_kept | split | intro _

theorem execPause_kept {r s : State} (h : Kept r s) (c : CtxId) :
    ∀ t, execPause c s = .next t → Kept r t := by
  unfold execPause
  intro t ht
  injection ht with ht; subst ht; repeat' with_reducible first | assumption | apply onEntry_kept | apply orderPause_kept | apply foldl_kept | split | intro _

theorem execSqFence_kept {r s : State} (h : Kept r s) (c : CtxId) :
    ∀ t, execSqFence c s = .next t → Kept r t := by
  unfold execSqFence
  intro t ht
  injection ht with ht; subst ht; repeat' with_reducible first | assumption | apply onEntry_kept | apply finish_kept | apply foldl_kept | split | intro _

theorem execHeartbeat_kept {r s : State} (h : Kept r s) :
    ∀ t, execHeartbeat s = .next t → Kept r t := by
  unfold execHeartbeat
  intro t ht
  revert ht; (try dsimp only); intro ht
  (repeat' split at ht) <;> (injection ht with ht; subst ht; repeat' with_reducible first | assumption | apply tick_kept | apply foldl_kept | split | intro _ | simp only [kept_mk])

theorem execMsixMessage_kept {r s : State} (h : Kept r s) (v : Fin 64) :
    ∀ t, execMsixMessage v s = .next t → Kept r t := by
  unfold execMsixMessage
  intro t ht
  injection ht with ht; subst ht; repeat' with_reducible first | assumption | apply onLk_kept | apply sendMsix_kept | apply foldl_kept | split | intro _

theorem execBar2Read_kept {r s : State} (h : Kept r s) (x : Nat) (len : Nat) :
    ∀ t, execBar2Read x len s = .next t → Kept r t := by
  unfold execBar2Read
  intro t ht
  injection ht with ht; subst ht; repeat' with_reducible first | assumption | apply onLk_kept | apply access_kept | apply foldl_kept | split | intro _

theorem execBar2Write_kept {r s : State} (h : Kept r s) (x : Nat) (bytes : List Byte) :
    ∀ t, execBar2Write x bytes s = .next t → Kept r t := by
  unfold execBar2Write
  intro t ht
  injection ht with ht; subst ht; repeat' with_reducible first | assumption | apply onLk_kept | apply access_kept | apply foldl_kept | split | intro _

theorem execHotReset_kept {r s : State} (h : Kept r s) :
    ∀ t, execHotReset s = .next t → Kept r t := by
  unfold execHotReset
  intro t ht
  injection ht with ht; subst ht; repeat' with_reducible assumption

theorem execPmcsrWrite_kept {r s : State} (h : Kept r s) (x0 : Word) :
    ∀ t, execPmcsrWrite x0 s = .next t → Kept r t := by
  unfold execPmcsrWrite
  intro t ht
  injection ht with ht; subst ht; repeat' with_reducible assumption

theorem execRegisterWrite_kept {r s : State} (h : Kept r s) (a : Nat) (size : Nat) (w : Word) :
    ∀ t, execRegisterWrite a size w s = .next t → Kept r t := by
  unfold execRegisterWrite
  intro t ht
  injection ht with ht; subst ht; repeat' with_reducible first | assumption | apply hostStore_kept

theorem execReg64LowHalfRead_kept {r s : State} (h : Kept r s) (a : RegRead) :
    ∀ t, execReg64LowHalfRead a s = .next t → Kept r t := by
  unfold execReg64LowHalfRead
  intro t ht
  injection ht with ht; subst ht; repeat' with_reducible first | assumption | apply onLk_kept | apply readRegister_kept | apply foldl_kept | split | intro _

theorem execReg64HighHalfRead_kept {r s : State} (h : Kept r s) (a : RegRead) :
    ∀ t, execReg64HighHalfRead a s = .next t → Kept r t := by
  unfold execReg64HighHalfRead
  intro t ht
  injection ht with ht; subst ht; repeat' with_reducible first | assumption | apply onLk_kept | apply readRegister_kept | apply foldl_kept | split | intro _

theorem execReg64LowHalfWrite_kept {r s : State} (h : Kept r s) (a : Nat) (w : Word) :
    ∀ t, execReg64LowHalfWrite a w s = .next t → Kept r t := by
  unfold execReg64LowHalfWrite
  intro t ht
  injection ht with ht; subst ht; repeat' with_reducible first | assumption | apply hostStore_kept

theorem execReg64HighHalfWrite_kept {r s : State} (h : Kept r s) (a : Nat) (w : Word) :
    ∀ t, execReg64HighHalfWrite a w s = .next t → Kept r t := by
  unfold execReg64HighHalfWrite
  intro t ht
  injection ht with ht; subst ht; repeat' with_reducible first | assumption | apply hostStore_kept

theorem execColdPowerOn_kept {r s : State} (h : Kept r s) :
    ∀ t, execColdPowerOn s = .next t → Kept r t := by
  unfold execColdPowerOn
  intro t ht
  revert ht; (try dsimp only); intro ht
  (repeat' split at ht) <;> (injection ht with ht; subst ht; repeat' with_reducible first | assumption | apply foldl_kept | split | intro _ | simp only [kept_mk])

theorem execPwrGoodFall_kept {r s : State} (h : Kept r s) :
    ∀ t, execPwrGoodFall s = .next t → Kept r t := by
  unfold execPwrGoodFall
  intro t ht
  injection ht with ht; subst ht; repeat' with_reducible first | assumption | apply onModule_kept | apply off_kept | apply losePower_kept | apply foldl_kept | split | intro _

theorem execUndervoltageShutdown_kept {r s : State} (h : Kept r s) :
    ∀ t, execUndervoltageShutdown s = .next t → Kept r t := by
  unfold execUndervoltageShutdown
  intro t ht
  injection ht with ht; subst ht; repeat' with_reducible first | assumption | apply losePower_kept

theorem execPerstNAssert_kept {r s : State} (h : Kept r s) :
    ∀ t, execPerstNAssert s = .next t → Kept r t := by
  unfold execPerstNAssert
  intro t ht
  revert ht; (try dsimp only); intro ht
  (repeat' split at ht) <;> (injection ht with ht; subst ht; repeat' with_reducible first | assumption | apply moduleReset_kept | apply foldl_kept | split | intro _ | simp only [kept_mk])

theorem execBoot_kept {r s : State} (h : Kept r s) (r1 : BootReport) :
    ∀ t, execBoot r1 s = .next t → Kept r t := by
  unfold execBoot
  intro t ht
  (repeat' split at ht) <;> (injection ht with ht; subst ht; repeat' with_reducible first | assumption | apply bootSequence_kept)

theorem execPowerSample_kept {r s : State} (h : Kept r s) (watts : Half) (avg : Half) :
    ∀ t, execPowerSample watts avg s = .next t → Kept r t := by
  unfold execPowerSample
  intro t ht
  injection ht with ht; subst ht; repeat' with_reducible first | assumption | apply onModule_kept | apply powerSample_kept | apply foldl_kept | split | intro _

theorem execDieThermalSample_kept {r s : State} (h : Kept r s) (d : DieId) (temp : Half) :
    ∀ t, execDieThermalSample d temp s = .next t → Kept r t := by
  unfold execDieThermalSample
  intro t ht
  injection ht with ht; subst ht; repeat' with_reducible first | assumption | apply onModule_kept | apply readSensor_kept | apply foldl_kept | split | intro _

theorem execThermalTrip_kept {r s : State} (h : Kept r s) (u : TripUnit) (temp : Half) :
    ∀ t, execThermalTrip u temp s = .next t → Kept r t := by
  unfold execThermalTrip
  intro t ht
  (repeat' split at ht) <;> (injection ht with ht; subst ht; repeat' with_reducible first | assumption | apply trip_kept)

theorem execSensorSample_kept {r s : State} (h : Kept r s) (k : Fin 15) (value : Half) :
    ∀ t, execSensorSample k value s = .next t → Kept r t := by
  unfold execSensorSample
  intro t ht
  injection ht with ht; subst ht; repeat' with_reducible first | assumption | apply onModule_kept | apply readSensor_kept | apply foldl_kept | split | intro _

theorem execLeakNLow_kept {r s : State} (h : Kept r s) :
    ∀ t, execLeakNLow s = .next t → Kept r t := by
  unfold execLeakNLow
  intro t ht
  injection ht with ht; subst ht; repeat' with_reducible first | assumption | apply onModule_kept | apply alarm_kept | apply foldl_kept | split | intro _

theorem execAlarmClear_kept {r s : State} (h : Kept r s) (al : Alarm) :
    ∀ t, execAlarmClear al s = .next t → Kept r t := by
  unfold execAlarmClear
  intro t ht
  injection ht with ht; subst ht; repeat' with_reducible first | assumption | apply onModule_kept | apply clearAlarm_kept | apply foldl_kept | split | intro _

theorem execI3cRegisterRead_kept {r s : State} (h : Kept r s) (a : Nat) :
    ∀ t, execI3cRegisterRead a s = .next t → Kept r t := by
  unfold execI3cRegisterRead
  intro t ht
  injection ht with ht; subst ht; repeat' with_reducible first | assumption | apply onModule_kept | apply emit_kept | apply foldl_kept | split | intro _

theorem execI3cRegisterWrite_kept {r s : State} (h : Kept r s) (a : Nat) (w : Word) :
    ∀ t, execI3cRegisterWrite a w s = .next t → Kept r t := by
  unfold execI3cRegisterWrite
  intro t ht
  (repeat' split at ht) <;> (injection ht with ht; subst ht; repeat' with_reducible first | assumption | apply wakeUp_kept | apply recorderSelect_kept)

theorem execI3cDynamicAddress_kept {r s : State} (h : Kept r s) (a : BitVec 7) :
    ∀ t, execI3cDynamicAddress a s = .next t → Kept r t := by
  unfold execI3cDynamicAddress
  intro t ht
  revert ht; (try dsimp only); intro ht
  injection ht with ht; subst ht; repeat' with_reducible first | assumption | apply onModule_kept | apply foldl_kept | split | intro _ | simp only [kept_mk]

theorem execDisec_kept {r s : State} (h : Kept r s) :
    ∀ t, execDisec s = .next t → Kept r t := by
  unfold execDisec
  intro t ht
  revert ht; (try dsimp only); intro ht
  injection ht with ht; subst ht; repeat' with_reducible first | assumption | apply onModule_kept | apply foldl_kept | split | intro _ | simp only [kept_mk]

theorem execWake_kept {r s : State} (h : Kept r s) (w : Word) :
    ∀ t, execWake w s = .next t → Kept r t := by
  unfold execWake
  intro t ht
  injection ht with ht; subst ht; repeat' with_reducible first | assumption | apply wakeUp_kept

theorem execPwrLimitWrite_kept {r s : State} (h : Kept r s) (w : Word) :
    ∀ t, execPwrLimitWrite w s = .next t → Kept r t := by
  unfold execPwrLimitWrite
  intro t ht
  injection ht with ht; subst ht; repeat' with_reducible first | assumption | apply onLk_kept | apply limitPower_kept | apply foldl_kept | split | intro _

theorem execSramScrub_kept {r s : State} (h : Kept r s) (arisen : List SramWord) :
    ∀ t, execSramScrub arisen s = .next t → Kept r t := by
  unfold execSramScrub
  intro t ht
  revert ht; (try dsimp only); intro ht
  injection ht with ht; subst ht; repeat' with_reducible first | assumption | apply scrubWord_kept | apply foldl_kept | split | intro _ | simp only [kept_mk]

theorem execPwrGoodRise_kept {r s : State} (h : Kept r s) :
    ∀ t, execPwrGoodRise s = .next t → Kept r t := by
  unfold execPwrGoodRise
  intro t ht
  injection ht with ht; subst ht; repeat' with_reducible first | assumption | apply onModule_kept | apply on_kept | apply foldl_kept | split | intro _

theorem execLossOf48vFeed_kept {r s : State} (h : Kept r s) : ∀ t, execLossOf48vFeed s = .next t → Kept r t := by
  intro t ht
  unfold execLossOf48vFeed at ht
  injection ht with ht
  subst ht
  exact afterOutage_kept (tearFlash_kept h) rfl _ _

end Sys2Proof.Machine
end

