-- ==== Sys2Proof/Laws/State.lean ====
section
/-! SUPPORT. What each update of State leaves alone: one lemma per field and update, so that no proof unfolds a record. -/

namespace Sys2Proof.Machine

variable (s : State)

@[simp] theorem State.setReg_pending (a : Nat) (w : BitVec 32) : (s.setReg a w).pending = s.pending := rfl
@[simp] theorem State.setReg_free (a : Nat) (w : BitVec 32) : (s.setReg a w).free = s.free := rfl
@[simp] theorem State.setReg_latches (a : Nat) (w : BitVec 32) : (s.setReg a w).latches = s.latches := rfl
@[simp] theorem State.setReg_heldLows (a : Nat) (w : BitVec 32) : (s.setReg a w).heldLows = s.heldLows := rfl
@[simp] theorem State.setReg_lock (a : Nat) (w : BitVec 32) : (s.setReg a w).lock = s.lock := rfl
@[simp] theorem State.setReg_ctxs (a : Nat) (w : BitVec 32) : (s.setReg a w).ctxs = s.ctxs := rfl
@[simp] theorem State.setReg_array (a : Nat) (w : BitVec 32) : (s.setReg a w).array = s.array := rfl
@[simp] theorem State.setReg_kernels (a : Nat) (w : BitVec 32) : (s.setReg a w).kernels = s.kernels := rfl
@[simp] theorem State.setReg_lanes (a : Nat) (w : BitVec 32) : (s.setReg a w).lanes = s.lanes := rfl
@[simp] theorem State.setReg_scales (a : Nat) (w : BitVec 32) : (s.setReg a w).scales = s.scales := rfl
@[simp] theorem State.setReg_cstat (a : Nat) (w : BitVec 32) : (s.setReg a w).cstat = s.cstat := rfl
@[simp] theorem State.setReg_windows (a : Nat) (w : BitVec 32) : (s.setReg a w).windows = s.windows := rfl
@[simp] theorem State.setReg_mem (a : Nat) (w : BitVec 32) : (s.setReg a w).mem = s.mem := rfl
@[simp] theorem State.setReg_link (a : Nat) (w : BitVec 32) : (s.setReg a w).link = s.link := rfl
@[simp] theorem State.setReg_health (a : Nat) (w : BitVec 32) : (s.setReg a w).health = s.health := rfl
@[simp] theorem State.setReg_lk (a : Nat) (w : BitVec 32) : (s.setReg a w).lk = s.lk := rfl
@[simp] theorem State.setReg_module (a : Nat) (w : BitVec 32) : (s.setReg a w).module = s.module := rfl
@[simp] theorem State.setReg_out (a : Nat) (w : BitVec 32) : (s.setReg a w).out = s.out := rfl

@[simp] theorem State.setByte_pending (a : Nat) (b : Byte) : (s.setByte a b).pending = s.pending := rfl
@[simp] theorem State.setByte_free (a : Nat) (b : Byte) : (s.setByte a b).free = s.free := rfl
@[simp] theorem State.setByte_regs (a : Nat) (b : Byte) : (s.setByte a b).regs = s.regs := rfl
@[simp] theorem State.setByte_latches (a : Nat) (b : Byte) : (s.setByte a b).latches = s.latches := rfl
@[simp] theorem State.setByte_heldLows (a : Nat) (b : Byte) : (s.setByte a b).heldLows = s.heldLows := rfl
@[simp] theorem State.setByte_lock (a : Nat) (b : Byte) : (s.setByte a b).lock = s.lock := rfl
@[simp] theorem State.setByte_ctxs (a : Nat) (b : Byte) : (s.setByte a b).ctxs = s.ctxs := rfl
@[simp] theorem State.setByte_array (a : Nat) (b : Byte) : (s.setByte a b).array = s.array := rfl
@[simp] theorem State.setByte_kernels (a : Nat) (b : Byte) : (s.setByte a b).kernels = s.kernels := rfl
@[simp] theorem State.setByte_lanes (a : Nat) (b : Byte) : (s.setByte a b).lanes = s.lanes := rfl
@[simp] theorem State.setByte_scales (a : Nat) (b : Byte) : (s.setByte a b).scales = s.scales := rfl
@[simp] theorem State.setByte_cstat (a : Nat) (b : Byte) : (s.setByte a b).cstat = s.cstat := rfl
@[simp] theorem State.setByte_windows (a : Nat) (b : Byte) : (s.setByte a b).windows = s.windows := rfl
@[simp] theorem State.setByte_link (a : Nat) (b : Byte) : (s.setByte a b).link = s.link := rfl
@[simp] theorem State.setByte_health (a : Nat) (b : Byte) : (s.setByte a b).health = s.health := rfl
@[simp] theorem State.setByte_lk (a : Nat) (b : Byte) : (s.setByte a b).lk = s.lk := rfl
@[simp] theorem State.setByte_module (a : Nat) (b : Byte) : (s.setByte a b).module = s.module := rfl
@[simp] theorem State.setByte_out (a : Nat) (b : Byte) : (s.setByte a b).out = s.out := rfl

@[simp] theorem State.setCtx_pending (c : Nat) (x : Ctx) : (s.setCtx c x).pending = s.pending := rfl
@[simp] theorem State.setCtx_free (c : Nat) (x : Ctx) : (s.setCtx c x).free = s.free := rfl
@[simp] theorem State.setCtx_regs (c : Nat) (x : Ctx) : (s.setCtx c x).regs = s.regs := rfl
@[simp] theorem State.setCtx_latches (c : Nat) (x : Ctx) : (s.setCtx c x).latches = s.latches := rfl
@[simp] theorem State.setCtx_heldLows (c : Nat) (x : Ctx) : (s.setCtx c x).heldLows = s.heldLows := rfl
@[simp] theorem State.setCtx_lock (c : Nat) (x : Ctx) : (s.setCtx c x).lock = s.lock := rfl
@[simp] theorem State.setCtx_array (c : Nat) (x : Ctx) : (s.setCtx c x).array = s.array := rfl
@[simp] theorem State.setCtx_kernels (c : Nat) (x : Ctx) : (s.setCtx c x).kernels = s.kernels := rfl
@[simp] theorem State.setCtx_lanes (c : Nat) (x : Ctx) : (s.setCtx c x).lanes = s.lanes := rfl
@[simp] theorem State.setCtx_scales (c : Nat) (x : Ctx) : (s.setCtx c x).scales = s.scales := rfl
@[simp] theorem State.setCtx_cstat (c : Nat) (x : Ctx) : (s.setCtx c x).cstat = s.cstat := rfl
@[simp] theorem State.setCtx_windows (c : Nat) (x : Ctx) : (s.setCtx c x).windows = s.windows := rfl
@[simp] theorem State.setCtx_mem (c : Nat) (x : Ctx) : (s.setCtx c x).mem = s.mem := rfl
@[simp] theorem State.setCtx_link (c : Nat) (x : Ctx) : (s.setCtx c x).link = s.link := rfl
@[simp] theorem State.setCtx_health (c : Nat) (x : Ctx) : (s.setCtx c x).health = s.health := rfl
@[simp] theorem State.setCtx_lk (c : Nat) (x : Ctx) : (s.setCtx c x).lk = s.lk := rfl
@[simp] theorem State.setCtx_module (c : Nat) (x : Ctx) : (s.setCtx c x).module = s.module := rfl
@[simp] theorem State.setCtx_out (c : Nat) (x : Ctx) : (s.setCtx c x).out = s.out := rfl

@[simp] theorem State.updCtx_pending (c : Nat) (f : Ctx → Ctx) : (s.updCtx c f).pending = s.pending := rfl
@[simp] theorem State.updCtx_free (c : Nat) (f : Ctx → Ctx) : (s.updCtx c f).free = s.free := rfl
@[simp] theorem State.updCtx_regs (c : Nat) (f : Ctx → Ctx) : (s.updCtx c f).regs = s.regs := rfl
@[simp] theorem State.updCtx_latches (c : Nat) (f : Ctx → Ctx) : (s.updCtx c f).latches = s.latches := rfl
@[simp] theorem State.updCtx_heldLows (c : Nat) (f : Ctx → Ctx) : (s.updCtx c f).heldLows = s.heldLows := rfl
@[simp] theorem State.updCtx_lock (c : Nat) (f : Ctx → Ctx) : (s.updCtx c f).lock = s.lock := rfl
@[simp] theorem State.updCtx_array (c : Nat) (f : Ctx → Ctx) : (s.updCtx c f).array = s.array := rfl
@[simp] theorem State.updCtx_kernels (c : Nat) (f : Ctx → Ctx) : (s.updCtx c f).kernels = s.kernels := rfl
@[simp] theorem State.updCtx_lanes (c : Nat) (f : Ctx → Ctx) : (s.updCtx c f).lanes = s.lanes := rfl
@[simp] theorem State.updCtx_scales (c : Nat) (f : Ctx → Ctx) : (s.updCtx c f).scales = s.scales := rfl
@[simp] theorem State.updCtx_cstat (c : Nat) (f : Ctx → Ctx) : (s.updCtx c f).cstat = s.cstat := rfl
@[simp] theorem State.updCtx_windows (c : Nat) (f : Ctx → Ctx) : (s.updCtx c f).windows = s.windows := rfl
@[simp] theorem State.updCtx_mem (c : Nat) (f : Ctx → Ctx) : (s.updCtx c f).mem = s.mem := rfl
@[simp] theorem State.updCtx_link (c : Nat) (f : Ctx → Ctx) : (s.updCtx c f).link = s.link := rfl
@[simp] theorem State.updCtx_health (c : Nat) (f : Ctx → Ctx) : (s.updCtx c f).health = s.health := rfl
@[simp] theorem State.updCtx_lk (c : Nat) (f : Ctx → Ctx) : (s.updCtx c f).lk = s.lk := rfl
@[simp] theorem State.updCtx_module (c : Nat) (f : Ctx → Ctx) : (s.updCtx c f).module = s.module := rfl
@[simp] theorem State.updCtx_out (c : Nat) (f : Ctx → Ctx) : (s.updCtx c f).out = s.out := rfl

@[simp] theorem State.updBarge_pending (i : Nat) (f : Barge → Barge) : (s.updBarge i f).pending = s.pending := rfl
@[simp] theorem State.updBarge_free (i : Nat) (f : Barge → Barge) : (s.updBarge i f).free = s.free := rfl
@[simp] theorem State.updBarge_regs (i : Nat) (f : Barge → Barge) : (s.updBarge i f).regs = s.regs := rfl
@[simp] theorem State.updBarge_latches (i : Nat) (f : Barge → Barge) : (s.updBarge i f).latches = s.latches := rfl
@[simp] theorem State.updBarge_heldLows (i : Nat) (f : Barge → Barge) : (s.updBarge i f).heldLows = s.heldLows := rfl
@[simp] theorem State.updBarge_ctxs (i : Nat) (f : Barge → Barge) : (s.updBarge i f).ctxs = s.ctxs := rfl
@[simp] theorem State.updBarge_array (i : Nat) (f : Barge → Barge) : (s.updBarge i f).array = s.array := rfl
@[simp] theorem State.updBarge_kernels (i : Nat) (f : Barge → Barge) : (s.updBarge i f).kernels = s.kernels := rfl
@[simp] theorem State.updBarge_lanes (i : Nat) (f : Barge → Barge) : (s.updBarge i f).lanes = s.lanes := rfl
@[simp] theorem State.updBarge_scales (i : Nat) (f : Barge → Barge) : (s.updBarge i f).scales = s.scales := rfl
@[simp] theorem State.updBarge_cstat (i : Nat) (f : Barge → Barge) : (s.updBarge i f).cstat = s.cstat := rfl
@[simp] theorem State.updBarge_windows (i : Nat) (f : Barge → Barge) : (s.updBarge i f).windows = s.windows := rfl
@[simp] theorem State.updBarge_mem (i : Nat) (f : Barge → Barge) : (s.updBarge i f).mem = s.mem := rfl
@[simp] theorem State.updBarge_link (i : Nat) (f : Barge → Barge) : (s.updBarge i f).link = s.link := rfl
@[simp] theorem State.updBarge_health (i : Nat) (f : Barge → Barge) : (s.updBarge i f).health = s.health := rfl
@[simp] theorem State.updBarge_lk (i : Nat) (f : Barge → Barge) : (s.updBarge i f).lk = s.lk := rfl
@[simp] theorem State.updBarge_module (i : Nat) (f : Barge → Barge) : (s.updBarge i f).module = s.module := rfl
@[simp] theorem State.updBarge_out (i : Nat) (f : Barge → Barge) : (s.updBarge i f).out = s.out := rfl

@[simp] theorem State.emit_pending (o : Output) : (s.emit o).pending = s.pending := rfl
@[simp] theorem State.emit_free (o : Output) : (s.emit o).free = s.free := rfl
@[simp] theorem State.emit_regs (o : Output) : (s.emit o).regs = s.regs := rfl
@[simp] theorem State.emit_latches (o : Output) : (s.emit o).latches = s.latches := rfl
@[simp] theorem State.emit_heldLows (o : Output) : (s.emit o).heldLows = s.heldLows := rfl
@[simp] theorem State.emit_lock (o : Output) : (s.emit o).lock = s.lock := rfl
@[simp] theorem State.emit_ctxs (o : Output) : (s.emit o).ctxs = s.ctxs := rfl
@[simp] theorem State.emit_array (o : Output) : (s.emit o).array = s.array := rfl
@[simp] theorem State.emit_kernels (o : Output) : (s.emit o).kernels = s.kernels := rfl
@[simp] theorem State.emit_lanes (o : Output) : (s.emit o).lanes = s.lanes := rfl
@[simp] theorem State.emit_scales (o : Output) : (s.emit o).scales = s.scales := rfl
@[simp] theorem State.emit_cstat (o : Output) : (s.emit o).cstat = s.cstat := rfl
@[simp] theorem State.emit_windows (o : Output) : (s.emit o).windows = s.windows := rfl
@[simp] theorem State.emit_mem (o : Output) : (s.emit o).mem = s.mem := rfl
@[simp] theorem State.emit_link (o : Output) : (s.emit o).link = s.link := rfl
@[simp] theorem State.emit_health (o : Output) : (s.emit o).health = s.health := rfl
@[simp] theorem State.emit_lk (o : Output) : (s.emit o).lk = s.lk := rfl
@[simp] theorem State.emit_module (o : Output) : (s.emit o).module = s.module := rfl

@[simp] theorem State.setReg64_pending (a : Nat) (v : BitVec 64) : (s.setReg64 a v).pending = s.pending := rfl
@[simp] theorem State.setReg64_free (a : Nat) (v : BitVec 64) : (s.setReg64 a v).free = s.free := rfl
@[simp] theorem State.setReg64_latches (a : Nat) (v : BitVec 64) : (s.setReg64 a v).latches = s.latches := rfl
@[simp] theorem State.setReg64_heldLows (a : Nat) (v : BitVec 64) : (s.setReg64 a v).heldLows = s.heldLows := rfl
@[simp] theorem State.setReg64_lock (a : Nat) (v : BitVec 64) : (s.setReg64 a v).lock = s.lock := rfl
@[simp] theorem State.setReg64_ctxs (a : Nat) (v : BitVec 64) : (s.setReg64 a v).ctxs = s.ctxs := rfl
@[simp] theorem State.setReg64_array (a : Nat) (v : BitVec 64) : (s.setReg64 a v).array = s.array := rfl
@[simp] theorem State.setReg64_kernels (a : Nat) (v : BitVec 64) : (s.setReg64 a v).kernels = s.kernels := rfl
@[simp] theorem State.setReg64_lanes (a : Nat) (v : BitVec 64) : (s.setReg64 a v).lanes = s.lanes := rfl
@[simp] theorem State.setReg64_scales (a : Nat) (v : BitVec 64) : (s.setReg64 a v).scales = s.scales := rfl
@[simp] theorem State.setReg64_cstat (a : Nat) (v : BitVec 64) : (s.setReg64 a v).cstat = s.cstat := rfl
@[simp] theorem State.setReg64_windows (a : Nat) (v : BitVec 64) : (s.setReg64 a v).windows = s.windows := rfl
@[simp] theorem State.setReg64_mem (a : Nat) (v : BitVec 64) : (s.setReg64 a v).mem = s.mem := rfl
@[simp] theorem State.setReg64_link (a : Nat) (v : BitVec 64) : (s.setReg64 a v).link = s.link := rfl
@[simp] theorem State.setReg64_health (a : Nat) (v : BitVec 64) : (s.setReg64 a v).health = s.health := rfl
@[simp] theorem State.setReg64_lk (a : Nat) (v : BitVec 64) : (s.setReg64 a v).lk = s.lk := rfl
@[simp] theorem State.setReg64_module (a : Nat) (v : BitVec 64) : (s.setReg64 a v).module = s.module := rfl
@[simp] theorem State.setReg64_out (a : Nat) (v : BitVec 64) : (s.setReg64 a v).out = s.out := rfl

@[simp] theorem State.put_pending (f : Fld) (v : Nat) : (s.put f v).pending = s.pending := rfl
@[simp] theorem State.put_free (f : Fld) (v : Nat) : (s.put f v).free = s.free := rfl
@[simp] theorem State.put_latches (f : Fld) (v : Nat) : (s.put f v).latches = s.latches := rfl
@[simp] theorem State.put_heldLows (f : Fld) (v : Nat) : (s.put f v).heldLows = s.heldLows := rfl
@[simp] theorem State.put_lock (f : Fld) (v : Nat) : (s.put f v).lock = s.lock := rfl
@[simp] theorem State.put_ctxs (f : Fld) (v : Nat) : (s.put f v).ctxs = s.ctxs := rfl
@[simp] theorem State.put_array (f : Fld) (v : Nat) : (s.put f v).array = s.array := rfl
@[simp] theorem State.put_kernels (f : Fld) (v : Nat) : (s.put f v).kernels = s.kernels := rfl
@[simp] theorem State.put_lanes (f : Fld) (v : Nat) : (s.put f v).lanes = s.lanes := rfl
@[simp] theorem State.put_scales (f : Fld) (v : Nat) : (s.put f v).scales = s.scales := rfl
@[simp] theorem State.put_cstat (f : Fld) (v : Nat) : (s.put f v).cstat = s.cstat := rfl
@[simp] theorem State.put_windows (f : Fld) (v : Nat) : (s.put f v).windows = s.windows := rfl
@[simp] theorem State.put_mem (f : Fld) (v : Nat) : (s.put f v).mem = s.mem := rfl
@[simp] theorem State.put_link (f : Fld) (v : Nat) : (s.put f v).link = s.link := rfl
@[simp] theorem State.put_health (f : Fld) (v : Nat) : (s.put f v).health = s.health := rfl
@[simp] theorem State.put_lk (f : Fld) (v : Nat) : (s.put f v).lk = s.lk := rfl
@[simp] theorem State.put_module (f : Fld) (v : Nat) : (s.put f v).module = s.module := rfl
@[simp] theorem State.put_out (f : Fld) (v : Nat) : (s.put f v).out = s.out := rfl

@[simp] theorem State.on_pending (f : Fld) : (s.on f).pending = s.pending := rfl
@[simp] theorem State.on_free (f : Fld) : (s.on f).free = s.free := rfl
@[simp] theorem State.on_latches (f : Fld) : (s.on f).latches = s.latches := rfl
@[simp] theorem State.on_heldLows (f : Fld) : (s.on f).heldLows = s.heldLows := rfl
@[simp] theorem State.on_lock (f : Fld) : (s.on f).lock = s.lock := rfl
@[simp] theorem State.on_ctxs (f : Fld) : (s.on f).ctxs = s.ctxs := rfl
@[simp] theorem State.on_array (f : Fld) : (s.on f).array = s.array := rfl
@[simp] theorem State.on_kernels (f : Fld) : (s.on f).kernels = s.kernels := rfl
@[simp] theorem State.on_lanes (f : Fld) : (s.on f).lanes = s.lanes := rfl
@[simp] theorem State.on_scales (f : Fld) : (s.on f).scales = s.scales := rfl
@[simp] theorem State.on_cstat (f : Fld) : (s.on f).cstat = s.cstat := rfl
@[simp] theorem State.on_windows (f : Fld) : (s.on f).windows = s.windows := rfl
@[simp] theorem State.on_mem (f : Fld) : (s.on f).mem = s.mem := rfl
@[simp] theorem State.on_link (f : Fld) : (s.on f).link = s.link := rfl
@[simp] theorem State.on_health (f : Fld) : (s.on f).health = s.health := rfl
@[simp] theorem State.on_lk (f : Fld) : (s.on f).lk = s.lk := rfl
@[simp] theorem State.on_module (f : Fld) : (s.on f).module = s.module := rfl
@[simp] theorem State.on_out (f : Fld) : (s.on f).out = s.out := rfl

@[simp] theorem State.off_pending (f : Fld) : (s.off f).pending = s.pending := rfl
@[simp] theorem State.off_free (f : Fld) : (s.off f).free = s.free := rfl
@[simp] theorem State.off_latches (f : Fld) : (s.off f).latches = s.latches := rfl
@[simp] theorem State.off_heldLows (f : Fld) : (s.off f).heldLows = s.heldLows := rfl
@[simp] theorem State.off_lock (f : Fld) : (s.off f).lock = s.lock := rfl
@[simp] theorem State.off_ctxs (f : Fld) : (s.off f).ctxs = s.ctxs := rfl
@[simp] theorem State.off_array (f : Fld) : (s.off f).array = s.array := rfl
@[simp] theorem State.off_kernels (f : Fld) : (s.off f).kernels = s.kernels := rfl
@[simp] theorem State.off_lanes (f : Fld) : (s.off f).lanes = s.lanes := rfl
@[simp] theorem State.off_scales (f : Fld) : (s.off f).scales = s.scales := rfl
@[simp] theorem State.off_cstat (f : Fld) : (s.off f).cstat = s.cstat := rfl
@[simp] theorem State.off_windows (f : Fld) : (s.off f).windows = s.windows := rfl
@[simp] theorem State.off_mem (f : Fld) : (s.off f).mem = s.mem := rfl
@[simp] theorem State.off_link (f : Fld) : (s.off f).link = s.link := rfl
@[simp] theorem State.off_health (f : Fld) : (s.off f).health = s.health := rfl
@[simp] theorem State.off_lk (f : Fld) : (s.off f).lk = s.lk := rfl
@[simp] theorem State.off_module (f : Fld) : (s.off f).module = s.module := rfl
@[simp] theorem State.off_out (f : Fld) : (s.off f).out = s.out := rfl

@[simp] theorem State.count_pending (a n : Nat) : (s.count a n).pending = s.pending := rfl
@[simp] theorem State.count_free (a n : Nat) : (s.count a n).free = s.free := rfl
@[simp] theorem State.count_latches (a n : Nat) : (s.count a n).latches = s.latches := rfl
@[simp] theorem State.count_heldLows (a n : Nat) : (s.count a n).heldLows = s.heldLows := rfl
@[simp] theorem State.count_lock (a n : Nat) : (s.count a n).lock = s.lock := rfl
@[simp] theorem State.count_ctxs (a n : Nat) : (s.count a n).ctxs = s.ctxs := rfl
@[simp] theorem State.count_array (a n : Nat) : (s.count a n).array = s.array := rfl
@[simp] theorem State.count_kernels (a n : Nat) : (s.count a n).kernels = s.kernels := rfl
@[simp] theorem State.count_lanes (a n : Nat) : (s.count a n).lanes = s.lanes := rfl
@[simp] theorem State.count_scales (a n : Nat) : (s.count a n).scales = s.scales := rfl
@[simp] theorem State.count_cstat (a n : Nat) : (s.count a n).cstat = s.cstat := rfl
@[simp] theorem State.count_windows (a n : Nat) : (s.count a n).windows = s.windows := rfl
@[simp] theorem State.count_mem (a n : Nat) : (s.count a n).mem = s.mem := rfl
@[simp] theorem State.count_link (a n : Nat) : (s.count a n).link = s.link := rfl
@[simp] theorem State.count_health (a n : Nat) : (s.count a n).health = s.health := rfl
@[simp] theorem State.count_lk (a n : Nat) : (s.count a n).lk = s.lk := rfl
@[simp] theorem State.count_module (a n : Nat) : (s.count a n).module = s.module := rfl
@[simp] theorem State.count_out (a n : Nat) : (s.count a n).out = s.out := rfl

@[simp] theorem State.tick_pending (a : Nat) : (s.tick a).pending = s.pending := rfl
@[simp] theorem State.tick_free (a : Nat) : (s.tick a).free = s.free := rfl
@[simp] theorem State.tick_latches (a : Nat) : (s.tick a).latches = s.latches := rfl
@[simp] theorem State.tick_heldLows (a : Nat) : (s.tick a).heldLows = s.heldLows := rfl
@[simp] theorem State.tick_lock (a : Nat) : (s.tick a).lock = s.lock := rfl
@[simp] theorem State.tick_ctxs (a : Nat) : (s.tick a).ctxs = s.ctxs := rfl
@[simp] theorem State.tick_array (a : Nat) : (s.tick a).array = s.array := rfl
@[simp] theorem State.tick_kernels (a : Nat) : (s.tick a).kernels = s.kernels := rfl
@[simp] theorem State.tick_lanes (a : Nat) : (s.tick a).lanes = s.lanes := rfl
@[simp] theorem State.tick_scales (a : Nat) : (s.tick a).scales = s.scales := rfl
@[simp] theorem State.tick_cstat (a : Nat) : (s.tick a).cstat = s.cstat := rfl
@[simp] theorem State.tick_windows (a : Nat) : (s.tick a).windows = s.windows := rfl
@[simp] theorem State.tick_mem (a : Nat) : (s.tick a).mem = s.mem := rfl
@[simp] theorem State.tick_link (a : Nat) : (s.tick a).link = s.link := rfl
@[simp] theorem State.tick_health (a : Nat) : (s.tick a).health = s.health := rfl
@[simp] theorem State.tick_lk (a : Nat) : (s.tick a).lk = s.lk := rfl
@[simp] theorem State.tick_module (a : Nat) : (s.tick a).module = s.module := rfl
@[simp] theorem State.tick_out (a : Nat) : (s.tick a).out = s.out := rfl

@[simp] theorem State.countField_pending (f : Fld) : (s.countField f).pending = s.pending := rfl
@[simp] theorem State.countField_free (f : Fld) : (s.countField f).free = s.free := rfl
@[simp] theorem State.countField_latches (f : Fld) : (s.countField f).latches = s.latches := rfl
@[simp] theorem State.countField_heldLows (f : Fld) : (s.countField f).heldLows = s.heldLows := rfl
@[simp] theorem State.countField_lock (f : Fld) : (s.countField f).lock = s.lock := rfl
@[simp] theorem State.countField_ctxs (f : Fld) : (s.countField f).ctxs = s.ctxs := rfl
@[simp] theorem State.countField_array (f : Fld) : (s.countField f).array = s.array := rfl
@[simp] theorem State.countField_kernels (f : Fld) : (s.countField f).kernels = s.kernels := rfl
@[simp] theorem State.countField_lanes (f : Fld) : (s.countField f).lanes = s.lanes := rfl
@[simp] theorem State.countField_scales (f : Fld) : (s.countField f).scales = s.scales := rfl
@[simp] theorem State.countField_cstat (f : Fld) : (s.countField f).cstat = s.cstat := rfl
@[simp] theorem State.countField_windows (f : Fld) : (s.countField f).windows = s.windows := rfl
@[simp] theorem State.countField_mem (f : Fld) : (s.countField f).mem = s.mem := rfl
@[simp] theorem State.countField_link (f : Fld) : (s.countField f).link = s.link := rfl
@[simp] theorem State.countField_health (f : Fld) : (s.countField f).health = s.health := rfl
@[simp] theorem State.countField_lk (f : Fld) : (s.countField f).lk = s.lk := rfl
@[simp] theorem State.countField_module (f : Fld) : (s.countField f).module = s.module := rfl
@[simp] theorem State.countField_out (f : Fld) : (s.countField f).out = s.out := rfl

@[simp] theorem State.hostWrite_pending (a : Nat) (w : BitVec 32) : (s.hostWrite a w).pending = s.pending := rfl
@[simp] theorem State.hostWrite_free (a : Nat) (w : BitVec 32) : (s.hostWrite a w).free = s.free := rfl
@[simp] theorem State.hostWrite_latches (a : Nat) (w : BitVec 32) : (s.hostWrite a w).latches = s.latches := rfl
@[simp] theorem State.hostWrite_heldLows (a : Nat) (w : BitVec 32) : (s.hostWrite a w).heldLows = s.heldLows := rfl
@[simp] theorem State.hostWrite_lock (a : Nat) (w : BitVec 32) : (s.hostWrite a w).lock = s.lock := rfl
@[simp] theorem State.hostWrite_ctxs (a : Nat) (w : BitVec 32) : (s.hostWrite a w).ctxs = s.ctxs := rfl
@[simp] theorem State.hostWrite_array (a : Nat) (w : BitVec 32) : (s.hostWrite a w).array = s.array := rfl
@[simp] theorem State.hostWrite_kernels (a : Nat) (w : BitVec 32) : (s.hostWrite a w).kernels = s.kernels := rfl
@[simp] theorem State.hostWrite_lanes (a : Nat) (w : BitVec 32) : (s.hostWrite a w).lanes = s.lanes := rfl
@[simp] theorem State.hostWrite_scales (a : Nat) (w : BitVec 32) : (s.hostWrite a w).scales = s.scales := rfl
@[simp] theorem State.hostWrite_cstat (a : Nat) (w : BitVec 32) : (s.hostWrite a w).cstat = s.cstat := rfl
@[simp] theorem State.hostWrite_windows (a : Nat) (w : BitVec 32) : (s.hostWrite a w).windows = s.windows := rfl
@[simp] theorem State.hostWrite_mem (a : Nat) (w : BitVec 32) : (s.hostWrite a w).mem = s.mem := rfl
@[simp] theorem State.hostWrite_link (a : Nat) (w : BitVec 32) : (s.hostWrite a w).link = s.link := rfl
@[simp] theorem State.hostWrite_health (a : Nat) (w : BitVec 32) : (s.hostWrite a w).health = s.health := rfl
@[simp] theorem State.hostWrite_lk (a : Nat) (w : BitVec 32) : (s.hostWrite a w).lk = s.lk := rfl
@[simp] theorem State.hostWrite_module (a : Nat) (w : BitVec 32) : (s.hostWrite a w).module = s.module := rfl
@[simp] theorem State.hostWrite_out (a : Nat) (w : BitVec 32) : (s.hostWrite a w).out = s.out := rfl

@[simp] theorem State.passTime_pending : (s.passTime).pending = s.pending := rfl
@[simp] theorem State.passTime_free : (s.passTime).free = s.free := rfl
@[simp] theorem State.passTime_latches : (s.passTime).latches = s.latches := rfl
@[simp] theorem State.passTime_heldLows : (s.passTime).heldLows = s.heldLows := rfl
@[simp] theorem State.passTime_lock : (s.passTime).lock = s.lock := rfl
@[simp] theorem State.passTime_ctxs : (s.passTime).ctxs = s.ctxs := rfl
@[simp] theorem State.passTime_array : (s.passTime).array = s.array := rfl
@[simp] theorem State.passTime_kernels : (s.passTime).kernels = s.kernels := rfl
@[simp] theorem State.passTime_lanes : (s.passTime).lanes = s.lanes := rfl
@[simp] theorem State.passTime_scales : (s.passTime).scales = s.scales := rfl
@[simp] theorem State.passTime_cstat : (s.passTime).cstat = s.cstat := rfl
@[simp] theorem State.passTime_windows : (s.passTime).windows = s.windows := rfl
@[simp] theorem State.passTime_mem : (s.passTime).mem = s.mem := rfl
@[simp] theorem State.passTime_link : (s.passTime).link = s.link := rfl
@[simp] theorem State.passTime_health : (s.passTime).health = s.health := rfl
@[simp] theorem State.passTime_lk : (s.passTime).lk = s.lk := rfl
@[simp] theorem State.passTime_module : (s.passTime).module = s.module := rfl
@[simp] theorem State.passTime_out : (s.passTime).out = s.out := rfl

@[simp] theorem State.setReg_ctx (a : Nat) (w : BitVec 32) (k : Nat) : (s.setReg a w).ctx k = s.ctx k := rfl
@[simp] theorem State.setReg_byte (a : Nat) (w : BitVec 32) (k : Nat) : (s.setReg a w).byte k = s.byte k := rfl
@[simp] theorem State.setReg_barge (a : Nat) (w : BitVec 32) (k : Nat) : (s.setReg a w).barge k = s.barge k := rfl
@[simp] theorem State.setByte_reg (a : Nat) (b : Byte) (r : Nat) : (s.setByte a b).reg r = s.reg r := rfl
@[simp] theorem State.setByte_reg64 (a : Nat) (b : Byte) (r : Nat) : (s.setByte a b).reg64 r = s.reg64 r := rfl
@[simp] theorem State.setByte_get (a : Nat) (b : Byte) (g : Fld) : (s.setByte a b).get g = s.get g := rfl
@[simp] theorem State.setByte_ctx (a : Nat) (b : Byte) (k : Nat) : (s.setByte a b).ctx k = s.ctx k := rfl
@[simp] theorem State.setByte_barge (a : Nat) (b : Byte) (k : Nat) : (s.setByte a b).barge k = s.barge k := rfl
@[simp] theorem State.setCtx_reg (c : Nat) (x : Ctx) (r : Nat) : (s.setCtx c x).reg r = s.reg r := rfl
@[simp] theorem State.setCtx_reg64 (c : Nat) (x : Ctx) (r : Nat) : (s.setCtx c x).reg64 r = s.reg64 r := rfl
@[simp] theorem State.setCtx_get (c : Nat) (x : Ctx) (g : Fld) : (s.setCtx c x).get g = s.get g := rfl
@[simp] theorem State.setCtx_byte (c : Nat) (x : Ctx) (k : Nat) : (s.setCtx c x).byte k = s.byte k := rfl
@[simp] theorem State.setCtx_barge (c : Nat) (x : Ctx) (k : Nat) : (s.setCtx c x).barge k = s.barge k := rfl
@[simp] theorem State.updCtx_reg (c : Nat) (f : Ctx → Ctx) (r : Nat) : (s.updCtx c f).reg r = s.reg r := rfl
@[simp] theorem State.updCtx_reg64 (c : Nat) (f : Ctx → Ctx) (r : Nat) : (s.updCtx c f).reg64 r = s.reg64 r := rfl
@[simp] theorem State.updCtx_get (c : Nat) (f : Ctx → Ctx) (g : Fld) : (s.updCtx c f).get g = s.get g := rfl
@[simp] theorem State.updCtx_byte (c : Nat) (f : Ctx → Ctx) (k : Nat) : (s.updCtx c f).byte k = s.byte k := rfl
@[simp] theorem State.updCtx_barge (c : Nat) (f : Ctx → Ctx) (k : Nat) : (s.updCtx c f).barge k = s.barge k := rfl
@[simp] theorem State.updBarge_reg (i : Nat) (f : Barge → Barge) (r : Nat) : (s.updBarge i f).reg r = s.reg r := rfl
@[simp] theorem State.updBarge_reg64 (i : Nat) (f : Barge → Barge) (r : Nat) : (s.updBarge i f).reg64 r = s.reg64 r := rfl
@[simp] theorem State.updBarge_get (i : Nat) (f : Barge → Barge) (g : Fld) : (s.updBarge i f).get g = s.get g := rfl
@[simp] theorem State.updBarge_ctx (i : Nat) (f : Barge → Barge) (k : Nat) : (s.updBarge i f).ctx k = s.ctx k := rfl
@[simp] theorem State.updBarge_byte (i : Nat) (f : Barge → Barge) (k : Nat) : (s.updBarge i f).byte k = s.byte k := rfl
@[simp] theorem State.emit_reg (o : Output) (r : Nat) : (s.emit o).reg r = s.reg r := rfl
@[simp] theorem State.emit_reg64 (o : Output) (r : Nat) : (s.emit o).reg64 r = s.reg64 r := rfl
@[simp] theorem State.emit_get (o : Output) (g : Fld) : (s.emit o).get g = s.get g := rfl
@[simp] theorem State.emit_ctx (o : Output) (k : Nat) : (s.emit o).ctx k = s.ctx k := rfl
@[simp] theorem State.emit_byte (o : Output) (k : Nat) : (s.emit o).byte k = s.byte k := rfl
@[simp] theorem State.emit_barge (o : Output) (k : Nat) : (s.emit o).barge k = s.barge k := rfl
@[simp] theorem State.setReg64_ctx (a : Nat) (v : BitVec 64) (k : Nat) : (s.setReg64 a v).ctx k = s.ctx k := rfl
@[simp] theorem State.setReg64_byte (a : Nat) (v : BitVec 64) (k : Nat) : (s.setReg64 a v).byte k = s.byte k := rfl
@[simp] theorem State.setReg64_barge (a : Nat) (v : BitVec 64) (k : Nat) : (s.setReg64 a v).barge k = s.barge k := rfl
@[simp] theorem State.put_ctx (f : Fld) (v : Nat) (k : Nat) : (s.put f v).ctx k = s.ctx k := rfl
@[simp] theorem State.put_byte (f : Fld) (v : Nat) (k : Nat) : (s.put f v).byte k = s.byte k := rfl
@[simp] theorem State.put_barge (f : Fld) (v : Nat) (k : Nat) : (s.put f v).barge k = s.barge k := rfl
@[simp] theorem State.on_ctx (f : Fld) (k : Nat) : (s.on f).ctx k = s.ctx k := rfl
@[simp] theorem State.on_byte (f : Fld) (k : Nat) : (s.on f).byte k = s.byte k := rfl
@[simp] theorem State.on_barge (f : Fld) (k : Nat) : (s.on f).barge k = s.barge k := rfl
@[simp] theorem State.off_ctx (f : Fld) (k : Nat) : (s.off f).ctx k = s.ctx k := rfl
@[simp] theorem State.off_byte (f : Fld) (k : Nat) : (s.off f).byte k = s.byte k := rfl
@[simp] theorem State.off_barge (f : Fld) (k : Nat) : (s.off f).barge k = s.barge k := rfl
@[simp] theorem State.count_ctx (a n : Nat) (k : Nat) : (s.count a n).ctx k = s.ctx k := rfl
@[simp] theorem State.count_byte (a n : Nat) (k : Nat) : (s.count a n).byte k = s.byte k := rfl
@[simp] theorem State.count_barge (a n : Nat) (k : Nat) : (s.count a n).barge k = s.barge k := rfl
@[simp] theorem State.tick_ctx (a : Nat) (k : Nat) : (s.tick a).ctx k = s.ctx k := rfl
@[simp] theorem State.tick_byte (a : Nat) (k : Nat) : (s.tick a).byte k = s.byte k := rfl
@[simp] theorem State.tick_barge (a : Nat) (k : Nat) : (s.tick a).barge k = s.barge k := rfl
@[simp] theorem State.countField_ctx (f : Fld) (k : Nat) : (s.countField f).ctx k = s.ctx k := rfl
@[simp] theorem State.countField_byte (f : Fld) (k : Nat) : (s.countField f).byte k = s.byte k := rfl
@[simp] theorem State.countField_barge (f : Fld) (k : Nat) : (s.countField f).barge k = s.barge k := rfl
@[simp] theorem State.hostWrite_ctx (a : Nat) (w : BitVec 32) (k : Nat) : (s.hostWrite a w).ctx k = s.ctx k := rfl
@[simp] theorem State.hostWrite_byte (a : Nat) (w : BitVec 32) (k : Nat) : (s.hostWrite a w).byte k = s.byte k := rfl
@[simp] theorem State.hostWrite_barge (a : Nat) (w : BitVec 32) (k : Nat) : (s.hostWrite a w).barge k = s.barge k := rfl
@[simp] theorem State.passTime_ctx (k : Nat) : s.passTime.ctx k = s.ctx k := rfl
@[simp] theorem State.passTime_byte (k : Nat) : s.passTime.byte k = s.byte k := rfl
@[simp] theorem State.passTime_barge (k : Nat) : s.passTime.barge k = s.barge k := rfl

end Sys2Proof.Machine
end

