-- ==== Sys2Proof/Laws/Regs.lean ====
section
/-! SUPPORT. Registers, fields, bytes and contexts: a read after a write of the same place gives what was written, and a
write leaves every other place alone. -/

namespace Sys2Proof.Machine

variable (s : State)

/-! ## Words -/

theorem reg_setReg (a b : Nat) (w : BitVec 32) : (s.setReg a w).reg b = if b = a then w else s.reg b :=
  tblGet_set regDefault s.regs b a w

@[simp] theorem reg_setReg_same (a : Nat) (w : BitVec 32) : (s.setReg a w).reg a = w := tblGet_set_same _ _ _ _

theorem reg_setReg_other {a b : Nat} (w : BitVec 32) (h : b ≠ a) : (s.setReg a w).reg b = s.reg b :=
  tblGet_set_other _ _ _ h

@[simp] theorem reg64_setReg64_same (a : Nat) (v : BitVec 64) : (s.setReg64 a v).reg64 a = v := by
  unfold State.reg64 State.setReg64
  rw [reg_setReg_same, reg_setReg_other _ _ (by omega), reg_setReg_same]
  ext i h
  simp only [BitVec.getElem_append, BitVec.getElem_extractLsb']
  split
  · simp [BitVec.getElem_eq_testBit_toNat, BitVec.getLsbD]
  · simp only [BitVec.getElem_eq_testBit_toNat, BitVec.getLsbD]
    congr 1
    omega

theorem reg_setReg64_other {a b : Nat} (v : BitVec 64) (h : b ≠ a) (k : b ≠ a + 4) : (s.setReg64 a v).reg b = s.reg b := by
  unfold State.setReg64
  rw [reg_setReg_other _ _ k, reg_setReg_other _ _ h]

theorem reg64_setReg64_other {a b : Nat} (v : BitVec 64) (h : b ≠ a) (k : b ≠ a + 4) (l : b + 4 ≠ a) :
    (s.setReg64 a v).reg64 b = s.reg64 b := by
  unfold State.reg64
  rw [reg_setReg64_other s v h k, reg_setReg64_other s v l (by omega)]

theorem reg64_setReg_other {a b : Nat} (w : BitVec 32) (h : b ≠ a) (k : b + 4 ≠ a) : (s.setReg a w).reg64 b = s.reg64 b := by
  unfold State.reg64
  rw [reg_setReg_other s w h, reg_setReg_other s w k]

/-! ## Fields -/

theorem fieldMask_testBit (hi lo i : Nat) : (fieldMask hi lo).testBit i = (decide (lo ≤ i) && decide (i < lo + (hi + 1 - lo))) := by
  unfold fieldMask
  rw [Nat.testBit_mul_two_pow, Nat.testBit_two_pow_sub_one]
  by_cases h : lo ≤ i <;> simp [h] <;> omega

theorem putBits_bit (w : BitVec 32) (hi lo v i : Nat) : (putBits w hi lo v).getLsbD i =
    if lo ≤ i ∧ i ≤ hi then (decide (i < 32) && v.testBit (i - lo)) else w.getLsbD i := by
  unfold putBits
  have h1 : (v % 2 ^ (hi + 1 - lo) * 2 ^ lo).testBit i = (decide (lo ≤ i) && (decide (i - lo < hi + 1 - lo) && v.testBit (i - lo))) := by
    rw [Nat.testBit_mul_two_pow, Nat.testBit_mod_two_pow]
  simp only [BitVec.getLsbD_or, BitVec.getLsbD_and, BitVec.getLsbD_not, BitVec.getLsbD_ofNat, fieldMask_testBit, h1]
  by_cases a : i < 32
  · by_cases b : lo ≤ i
    · by_cases c : i ≤ hi
      · have : i - lo < hi + 1 - lo := by omega
        have : i < lo + (hi + 1 - lo) := by omega
        simp [*]
      · have : ¬ i - lo < hi + 1 - lo := by omega
        have : ¬ i < lo + (hi + 1 - lo) := by omega
        simp [*]
    · simp [*]
  · have : w.getLsbD i = false := BitVec.getLsbD_of_ge _ _ (by omega)
    simp [a, this]

theorem bitsAt_testBit (n lo k i : Nat) : (bitsAt n lo k).testBit i = (decide (i < k) && n.testBit (lo + i)) := by
  unfold bitsAt
  rw [Nat.testBit_mod_two_pow, Nat.testBit_div_two_pow, Nat.add_comm]

/-- A field reads what was put into it, cut to its width. -/
@[simp] theorem get_put_same (f : Fld) (v : Nat) (h : f.hi < 32) :
    (s.put f v).get f = v % 2 ^ (f.hi + 1 - f.lo) := by
  apply Nat.eq_of_testBit_eq
  intro i
  unfold State.get State.put
  rw [reg_setReg_same, bitsAt_testBit, Nat.testBit_mod_two_pow]
  have e : (putBits (s.reg f.addr) f.hi f.lo v).toNat.testBit (f.lo + i) =
      (putBits (s.reg f.addr) f.hi f.lo v).getLsbD (f.lo + i) := rfl
  rw [e, putBits_bit]
  by_cases a : i < f.hi + 1 - f.lo
  · have : f.lo + i ≤ f.hi := by omega
    have : f.lo + i < 32 := by omega
    simp [*]
  · simp [a]

/-- Fields of other registers, and bits of other places, are left alone. -/
def Fld.apart (f g : Fld) : Bool := decide (f.addr ≠ g.addr) || decide (f.hi < g.lo) || decide (g.hi < f.lo)

theorem get_put_apart (f g : Fld) (v : Nat) (h : f.apart g = true) : (s.put f v).get g = s.get g := by
  unfold State.get State.put
  rw [reg_setReg]
  split
  · rename_i e
    apply Nat.eq_of_testBit_eq
    intro i
    rw [bitsAt_testBit, bitsAt_testBit]
    by_cases a : i < g.hi + 1 - g.lo
    · have e1 : (putBits (s.reg f.addr) f.hi f.lo v).toNat.testBit (g.lo + i) =
          (putBits (s.reg f.addr) f.hi f.lo v).getLsbD (g.lo + i) := rfl
      have e2 : (s.reg g.addr).toNat.testBit (g.lo + i) = (s.reg g.addr).getLsbD (g.lo + i) := rfl
      rw [e1, e2, putBits_bit, e]
      unfold Fld.apart at h
      simp only [Bool.or_eq_true, decide_eq_true_eq] at h
      have : ¬ (f.lo ≤ g.lo + i ∧ g.lo + i ≤ f.hi) := by
        have := e.symm
        rcases h with (h | h) | h
        · exact absurd this h
        · omega
        · omega
      simp [this]
    · simp [a]
  · rfl

theorem get_setReg_other {a : Nat} {g : Fld} (w : BitVec 32) (h : g.addr ≠ a) : (s.setReg a w).get g = s.get g := by
  unfold State.get
  rw [reg_setReg_other s w h]

theorem get_setReg64_other {a : Nat} {g : Fld} (v : BitVec 64) (h : g.addr ≠ a) (k : g.addr ≠ a + 4) :
    (s.setReg64 a v).get g = s.get g := by
  unfold State.get
  rw [reg_setReg64_other s v h k]

theorem reg_put_other {f : Fld} {b : Nat} (v : Nat) (h : b ≠ f.addr) : (s.put f v).reg b = s.reg b :=
  reg_setReg_other s _ h

theorem get_on_same (f : Fld) (h : f.hi < 32) (k : f.lo ≤ f.hi) : (s.on f).get f = 1 := by
  unfold State.on
  rw [get_put_same s f 1 h, Nat.mod_eq_of_lt]
  exact Nat.one_lt_two_pow (by omega)

theorem get_off_same (f : Fld) (h : f.hi < 32) : (s.off f).get f = 0 := by
  unfold State.off
  rw [get_put_same s f 0 h, Nat.zero_mod]

theorem reg_count_same (a n : Nat) : (s.count a n).reg a = BitVec.ofNat 32 (min (2 ^ 32 - 1) ((s.reg a).toNat + n)) := by
  unfold State.count
  rw [reg_setReg_same]

theorem reg_count_other {a b : Nat} (n : Nat) (h : b ≠ a) : (s.count a n).reg b = s.reg b := reg_setReg_other s _ h

/-! ## Bytes and contexts -/

theorem byte_setByte (a b : Nat) (v : Byte) : (s.setByte a v).byte b = if b = a then v else s.byte b :=
  tblGet_set _ _ _ _ _

/-- Every memory operation keeps the canonical form of memory, since every one writes through `setByte`. -/
theorem setByte_wf (a : Nat) (v : Byte) (h : tblWf (memDefault s.mem.lost) s.mem.cells = true) :
    tblWf (memDefault (s.setByte a v).mem.lost) (s.setByte a v).mem.cells = true := tblWf_set _ _ _ h

theorem byte_store_other (ws : List (Nat × Byte)) {a : Nat} (h : ∀ w ∈ ws, w.1 ≠ a) : (s.store ws).byte a = s.byte a := by
  induction ws generalizing s with
  | nil => rfl
  | cons w ws ih =>
    unfold State.store
    rw [List.foldl_cons]
    refine (ih (s.setByte w.1 w.2) (fun v hv => h v (List.mem_cons_of_mem _ hv))).trans ?_
    rw [byte_setByte, if_neg (fun e => h w List.mem_cons_self e.symm)]

theorem ctx_setCtx (c d : Nat) (x : Ctx) : (s.setCtx c x).ctx d = if d = c then x else s.ctx d := tblGet_set _ _ _ _ _

@[simp] theorem ctx_setCtx_same (c : Nat) (x : Ctx) : (s.setCtx c x).ctx c = x := tblGet_set_same _ _ _ _

@[simp] theorem ctx_updCtx_same (c : Nat) (f : Ctx → Ctx) : (s.updCtx c f).ctx c = f (s.ctx c) := tblGet_set_same _ _ _ _

theorem ctx_updCtx_other {c d : Nat} (f : Ctx → Ctx) (h : d ≠ c) : (s.updCtx c f).ctx d = s.ctx d :=
  tblGet_set_other _ _ _ h

/-! ## Time -/

/-- The fabric time never goes back. -/
theorem ftc_at (n : Nat) (h : n < 2 ^ 64) : (s.at_ n).ftc = max s.ftc n := by
  unfold State.at_
  split
  · unfold State.ftc at *
    rw [reg64_setReg64_same, BitVec.toNat_ofNat]
    omega
  · omega

theorem reg_at (n : Nat) {a : Nat} (h : a ≠ R.LOCK_FTC) (k : a ≠ R.LOCK_FTC + 4) : (s.at_ n).reg a = s.reg a := by
  unfold State.at_
  split
  · exact reg_setReg64_other s _ h k
  · rfl

/-! ## Events -/

/-- `s` without what recording events and raising interrupts writes. -/
def State.untold (s : State) : State :=
  { s with
    regs := []
    lk := { s.lk with msixPending := [] }
    health := { s.health with records := [] }
    module := { s.module with held := [], heldLost := 0 } }

/-- All that recording events and raising interrupts can do: the recorder's registers and records, the pending vectors,
the events held for an unpowered recorder. Everything else is as in `r`. -/
structure Told (r s : State) : Prop where
  reg : ∀ a, postingReg a = false → s.reg a = r.reg a
  rest : s.untold = r.untold

theorem Told.refl : Told s s := ⟨fun _ _ => rfl, rfl⟩

theorem Told.trans {r s t : State} (h : Told r s) (k : Told s t) : Told r t :=
  ⟨fun a p => (k.reg a p).trans (h.reg a p), k.rest.trans h.rest⟩

theorem told_setReg {r s : State} (h : Told r s) {a : Nat} (w : BitVec 32) (p : postingReg a = true) : Told r (s.setReg a w) :=
  ⟨fun b q => by
    rw [reg_setReg_other s w (fun e => by rw [e, p] at q; exact absurd q (by decide))]
    exact h.reg b q, h.rest⟩

theorem told_setReg64 {r s : State} (h : Told r s) {a : Nat} (v : BitVec 64) (p : postingReg a = true)
    (q : postingReg (a + 4) = true) : Told r (s.setReg64 a v) :=
  told_setReg (told_setReg h _ p) _ q

theorem told_raise {r s : State} (h : Told r s) (v : Nat) : Told r (s.raise v) := by
  unfold State.raise
  split
  · exact told_setReg64 h _ (by decide) (by decide)
  · split
    · exact h
    · exact ⟨h.reg, h.rest⟩

theorem told_storeRec {r s : State} (h : Told r s) (e : Event) : Told r (s.storeRec e) := by
  unfold State.storeRec
  have k : Told r ((s.tick R.RECORDER_UPDATES).countField F.RECORDER_COUNT_COUNT) :=
    told_setReg (told_setReg h _ (by decide)) _ (by decide)
  exact ⟨k.reg, k.rest⟩

theorem told_records {r s : State} (h : Told r s) (rs : List Rec) :
    Told r { s with health := { s.health with records := rs } } := ⟨h.reg, h.rest⟩

theorem told_recordEvent {r s : State} (h : Told r s) (e : Event) : Told r (s.recordEvent e) := by
  unfold State.recordEvent
  dsimp only
  split
  · exact told_records (told_setReg h _ (by decide)) _
  · split
    · refine told_setReg ?_ _ (by decide)
      split
      · exact told_setReg64 h _ (by decide) (by decide)
      · exact h
    · split
      · exact told_raise (told_setReg (told_storeRec (told_storeRec h e) _) _ (by decide)) 4
      · exact told_storeRec h e

theorem told_event {r s : State} (h : Told r s) (code src : BitVec 16) (fs : List (Nat × Nat)) :
    Told r (s.event code src fs) := by
  unfold State.event
  dsimp only
  split
  · exact told_recordEvent h _
  · split
    · exact ⟨h.reg, h.rest⟩
    · exact ⟨h.reg, h.rest⟩

/-- An event leaves every register but the recorder's alone. -/
theorem reg_event {a : Nat} (code src : BitVec 16) (fs : List (Nat × Nat)) (h : postingReg a = false) :
    (s.event code src fs).reg a = s.reg a := (told_event (Told.refl s) code src fs).reg a h

theorem get_event {g : Fld} (code src : BitVec 16) (fs : List (Nat × Nat)) (h : postingReg g.addr = false) :
    (s.event code src fs).get g = s.get g := by
  unfold State.get
  rw [reg_event s code src fs h]

theorem reg64_event {a : Nat} (code src : BitVec 16) (fs : List (Nat × Nat)) (h : postingReg a = false)
    (k : postingReg (a + 4) = false) : (s.event code src fs).reg64 a = s.reg64 a := by
  unfold State.reg64
  rw [reg_event s code src fs h, reg_event s code src fs k]

theorem reg_raise {a : Nat} (v : Nat) (h : postingReg a = false) : (s.raise v).reg a = s.reg a :=
  (told_raise (Told.refl s) v).reg a h

theorem get_raise {g : Fld} (v : Nat) (h : postingReg g.addr = false) : (s.raise v).get g = s.get g := by
  unfold State.get
  rw [reg_raise s v h]

theorem reg64_raise {a : Nat} (v : Nat) (h : postingReg a = false) (k : postingReg (a + 4) = false) :
    (s.raise v).reg64 a = s.reg64 a := by
  unfold State.reg64
  rw [reg_raise s v h, reg_raise s v k]

variable {s}

theorem Told.lock {r s : State} (h : Told r s) : s.lock = r.lock := by have := h.rest; injection this
theorem Told.ctxs {r s : State} (h : Told r s) : s.ctxs = r.ctxs := by have := h.rest; injection this
theorem Told.array {r s : State} (h : Told r s) : s.array = r.array := by have := h.rest; injection this
theorem Told.lanes {r s : State} (h : Told r s) : s.lanes = r.lanes := by have := h.rest; injection this
theorem Told.scales {r s : State} (h : Told r s) : s.scales = r.scales := by have := h.rest; injection this
theorem Told.cstat {r s : State} (h : Told r s) : s.cstat = r.cstat := by have := h.rest; injection this
theorem Told.mem {r s : State} (h : Told r s) : s.mem = r.mem := by have := h.rest; injection this
theorem Told.link {r s : State} (h : Told r s) : s.link = r.link := by have := h.rest; injection this
theorem Told.out {r s : State} (h : Told r s) : s.out = r.out := by have := h.rest; injection this
theorem Told.free {r s : State} (h : Told r s) : s.free = r.free := by have := h.rest; injection this
theorem Told.pending {r s : State} (h : Told r s) : s.pending = r.pending := by have := h.rest; injection this

theorem Told.lk {r s : State} (h : Told r s) : { s.lk with msixPending := [] } = { r.lk with msixPending := [] } := by
  have := h.rest; injection this
theorem Told.health {r s : State} (h : Told r s) : { s.health with records := [] } = { r.health with records := [] } := by
  have := h.rest; injection this
theorem Told.module {r s : State} (h : Told r s) :
    { s.module with held := [], heldLost := 0 } = { r.module with held := [], heldLost := 0 } := by
  have := h.rest; injection this

variable (s)

@[simp] theorem State.event_lock (c r : BitVec 16) (fs : List (Nat × Nat)) : (s.event c r fs).lock = s.lock :=
  (told_event (Told.refl s) c r fs).lock
@[simp] theorem State.event_ctxs (c r : BitVec 16) (fs : List (Nat × Nat)) : (s.event c r fs).ctxs = s.ctxs :=
  (told_event (Told.refl s) c r fs).ctxs
@[simp] theorem State.event_ctx (c r : BitVec 16) (fs : List (Nat × Nat)) (k : Nat) : (s.event c r fs).ctx k = s.ctx k := by
  unfold State.ctx; rw [State.event_ctxs]
@[simp] theorem State.event_array (c r : BitVec 16) (fs : List (Nat × Nat)) : (s.event c r fs).array = s.array :=
  (told_event (Told.refl s) c r fs).array
@[simp] theorem State.event_mem (c r : BitVec 16) (fs : List (Nat × Nat)) : (s.event c r fs).mem = s.mem :=
  (told_event (Told.refl s) c r fs).mem
@[simp] theorem State.event_byte (c r : BitVec 16) (fs : List (Nat × Nat)) (a : Nat) : (s.event c r fs).byte a = s.byte a := by
  unfold State.byte; rw [State.event_mem]
@[simp] theorem State.event_link (c r : BitVec 16) (fs : List (Nat × Nat)) : (s.event c r fs).link = s.link :=
  (told_event (Told.refl s) c r fs).link
@[simp] theorem State.event_out (c r : BitVec 16) (fs : List (Nat × Nat)) : (s.event c r fs).out = s.out :=
  (told_event (Told.refl s) c r fs).out
@[simp] theorem State.event_scales (c r : BitVec 16) (fs : List (Nat × Nat)) : (s.event c r fs).scales = s.scales :=
  (told_event (Told.refl s) c r fs).scales
@[simp] theorem State.raise_lock (v : Nat) : (s.raise v).lock = s.lock := (told_raise (Told.refl s) v).lock
@[simp] theorem State.raise_ctxs (v : Nat) : (s.raise v).ctxs = s.ctxs := (told_raise (Told.refl s) v).ctxs
@[simp] theorem State.raise_ctx (v k : Nat) : (s.raise v).ctx k = s.ctx k := by unfold State.ctx; rw [State.raise_ctxs]
@[simp] theorem State.raise_mem (v : Nat) : (s.raise v).mem = s.mem := (told_raise (Told.refl s) v).mem
@[simp] theorem State.raise_out (v : Nat) : (s.raise v).out = s.out := (told_raise (Told.refl s) v).out

end Sys2Proof.Machine
end

