-- ==== Sys2Proof/Laws/Timed.lean ====
section
/-! SUPPORT. What the work of an interval and the staging of the next leave alone among the registers of the LOCK block: the
settings, the lock index, the next tick, and every bit of LOCK_EVENTS that is set. One lemma per operation stands in the
file TimedA. -/

namespace Sys2Proof.Machine

/-- The registers of the LOCK block that only a tick, a schedule, a reset or a boot writes: settings, LOCK_INDEX,
LOCK_NEXT_TICK and LOCK_GRANT. -/
def timedReg (a : Nat) : Prop := (0x100000 ≤ a ∧ a < 0x100010) ∨ (0x100020 ≤ a ∧ a < 0x100034)

/-- `s` has those registers of `r`, the same LOCK_STATUS.TICKING, and every event bit of LOCK_EVENTS that `r` has. -/
structure Timed (r s : State) : Prop where
  regs : ∀ a, timedReg a → s.reg a = r.reg a
  ticking : (s.reg R.LOCK_STATUS).getLsbD 1 = (r.reg R.LOCK_STATUS).getLsbD 1
  events : ∀ i, (r.reg R.LOCK_EVENTS).getLsbD i = true → (s.reg R.LOCK_EVENTS).getLsbD i = true

theorem Timed.refl (s : State) : Timed s s := ⟨fun _ _ => rfl, rfl, fun _ h => h⟩

theorem Timed.trans {r s t : State} (h : Timed r s) (k : Timed s t) : Timed r t :=
  ⟨fun a p => (k.regs a p).trans (h.regs a p), k.ticking.trans h.ticking, fun i p => k.events i (h.events i p)⟩

theorem timed_of_regs {r s t : State} (h : Timed r s) (k : t.regs = s.regs) : Timed r t := by
  have e : ∀ a, t.reg a = s.reg a := fun a => by unfold State.reg; rw [k]
  exact ⟨fun a p => (e a).trans (h.regs a p), by rw [e]; exact h.ticking, fun i p => by rw [e]; exact h.events i p⟩

theorem timed_mk (r s : State) {p f la hl lo cx ar ke ln sc cs wi me li he lk mo ou} (h : Timed r s) :
    Timed r (State.mk p f s.regs la hl lo cx ar ke ln sc cs wi me li he lk mo ou) := timed_of_regs h rfl

/-- A write anywhere else. -/
theorem setReg_timed {r s : State} (h : Timed r s) (a : Nat) (w : BitVec 32) (k : ¬ timedReg a ∧ a ≠ 0x100014 ∧ a ≠ 0x100010) :
    Timed r (s.setReg a w) := by
  refine ⟨fun b p => ?_, ?_, fun i p => ?_⟩
  · rw [reg_setReg_other s w (fun e => k.1 (by rw [← e]; exact p))]
    exact h.regs b p
  · rw [reg_setReg_other s w (fun e => k.2.2 e.symm)]
    exact h.ticking
  · rw [reg_setReg_other s w (fun e => k.2.1 e.symm)]
    exact h.events i p

theorem setReg64_timed {r s : State} (h : Timed r s) (a : Nat) (v : BitVec 64) (k : ¬ timedReg a ∧ a ≠ 0x100014 ∧ a ≠ 0x100010)
    (k2 : ¬ timedReg (a + 4) ∧ a + 4 ≠ 0x100014 ∧ a + 4 ≠ 0x100010) : Timed r (s.setReg64 a v) :=
  setReg_timed (setReg_timed h _ _ k) _ _ k2

theorem put_timed {r s : State} (h : Timed r s) (f : Fld) (v : Nat) (k : ¬ timedReg f.addr ∧ f.addr ≠ 0x100014 ∧ f.addr ≠ 0x100010) :
    Timed r (s.put f v) := setReg_timed h _ _ k

theorem on_timed {r s : State} (h : Timed r s) (f : Fld) (k : ¬ timedReg f.addr ∧ f.addr ≠ 0x100014 ∧ f.addr ≠ 0x100010) : Timed r (s.on f) :=
  setReg_timed h _ _ k

theorem off_timed {r s : State} (h : Timed r s) (f : Fld) (k : ¬ timedReg f.addr ∧ f.addr ≠ 0x100014 ∧ f.addr ≠ 0x100010) : Timed r (s.off f) :=
  setReg_timed h _ _ k

theorem count_timed {r s : State} (h : Timed r s) (a n : Nat) (k : ¬ timedReg a ∧ a ≠ 0x100014 ∧ a ≠ 0x100010) : Timed r (s.count a n) :=
  setReg_timed h _ _ k

theorem tick_timed {r s : State} (h : Timed r s) (a : Nat) (k : ¬ timedReg a ∧ a ≠ 0x100014 ∧ a ≠ 0x100010) : Timed r (s.tick a) :=
  setReg_timed h _ _ k

theorem countField_timed {r s : State} (h : Timed r s) (f : Fld) (k : ¬ timedReg f.addr ∧ f.addr ≠ 0x100014 ∧ f.addr ≠ 0x100010) :
    Timed r (s.countField f) := setReg_timed h _ _ k

theorem setBit_timed {r s : State} (h : Timed r s) (f : Fld) (c : Nat) (x : Bool)
    (k : ¬ timedReg f.addr ∧ f.addr ≠ 0x100014 ∧ f.addr ≠ 0x100010) : Timed r (s.setBit f c x) := setReg_timed h _ _ k

/-- An event bit set. -/
theorem event_bit_timed {r s : State} (h : Timed r s) (f : Fld) (k : f.addr = 0x100014) (l : f.hi = f.lo) :
    Timed r (s.on f) := by
  refine ⟨fun b p => ?_, ?_, fun i p => ?_⟩
  · unfold State.on State.put
    rw [reg_setReg_other s _ (fun e => by rw [e, k] at p; unfold timedReg at p; omega)]
    exact h.regs b p
  · unfold State.on State.put
    rw [k, reg_setReg_other s _ (by decide)]
    exact h.ticking
  · have q := h.events i p
    unfold State.on State.put
    rw [k, reg_setReg_same, putBits_bit]
    split
    · rename_i c
      have : i = f.lo := by omega
      subst this
      have : f.lo < 32 := by
        by_contra n
        rw [BitVec.getLsbD_of_ge _ _ (by omega)] at q
        exact absurd q (by decide)
      simp [this]
    · exact q

/-- Another bit of LOCK_STATUS written. -/
theorem status_bit_timed {r s : State} (h : Timed r s) (f : Fld) (v : Nat) (k : f.addr = 0x100010) (l : f.lo ≠ 1)
    (m : f.hi = f.lo) : Timed r (s.put f v) := by
  refine ⟨fun b p => ?_, ?_, fun i p => ?_⟩
  · unfold State.put
    rw [reg_setReg_other s _ (fun e => by rw [e, k] at p; unfold timedReg at p; omega)]
    exact h.regs b p
  · unfold State.put
    rw [k, reg_setReg_same, putBits_bit, if_neg (by omega)]
    exact h.ticking
  · unfold State.put
    rw [k, reg_setReg_other s _ (by decide)]
    exact h.events i p

theorem status_on_timed {r s : State} (h : Timed r s) (f : Fld) (k : f.addr = 0x100010) (l : f.lo ≠ 1) (m : f.hi = f.lo) :
    Timed r (s.on f) := status_bit_timed h f 1 k l m

theorem status_off_timed {r s : State} (h : Timed r s) (f : Fld) (k : f.addr = 0x100010) (l : f.lo ≠ 1) (m : f.hi = f.lo) :
    Timed r (s.off f) := status_bit_timed h f 0 k l m

theorem timedFold {α : Type} {f : State → α → State} {l : List α} {r s : State} (h : Timed r s)
    (hf : ∀ t a, Timed r t → Timed r (f t a)) : Timed r (l.foldl f s) := by
  induction l generalizing s with
  | nil => exact h
  | cons a l ih => exact ih (hf s a h)

theorem told_timed {r s t : State} (h : Timed r s) (k : Told s t) : Timed r t := by
  have e : ∀ a, timedReg a ∨ a = R.LOCK_EVENTS ∨ a = R.LOCK_STATUS → postingReg a = false := by
    intro a p
    unfold timedReg at p
    simp only [postingReg, List.contains_eq_mem, List.mem_cons, List.not_mem_nil, or_false, decide_eq_false_iff_not]
    simp only [R.LOCK_EVENTS, R.LOCK_STATUS] at p
    simp only [R.RECORDER_UPDATES, R.RECORDER_COUNT, R.RECORDER_STATUS, R.RECORDER_LOST, R.RECORDER_FIRST_LOST, R.MSIX_PBA]
    omega
  exact ⟨fun a p => (k.reg a (e a (.inl p))).trans (h.regs a p),
    by rw [k.reg _ (e _ (.inr (.inr rfl)))]; exact h.ticking,
    fun i p => by rw [k.reg _ (e _ (.inr (.inl rfl)))]; exact h.events i p⟩

theorem event_timed {r s : State} (h : Timed r s) (c o : BitVec 16) (fs : List (Nat × Nat)) : Timed r (s.event c o fs) :=
  told_timed h (told_event (Told.refl s) c o fs)

theorem raise_timed {r s : State} (h : Timed r s) (v : Nat) : Timed r (s.raise v) :=
  told_timed h (told_raise (Told.refl s) v)

theorem Timed.reg64 {r s : State} (h : Timed r s) {a : Nat} (p : timedReg a) (q : timedReg (a + 4)) : s.reg64 a = r.reg64 a := by
  unfold State.reg64
  rw [h.regs a p, h.regs _ q]

theorem Timed.get {r s : State} (h : Timed r s) {f : Fld} (p : timedReg f.addr) : s.get f = r.get f := by
  unfold State.get
  rw [h.regs _ p]

theorem flag_ticking (s : State) : s.flag F.LOCK_STATUS_TICKING = (s.reg R.LOCK_STATUS).getLsbD 1 := by
  unfold State.flag State.get bitsAt
  rw [BitVec.getLsbD, Nat.testBit_eq_decide_div_mod_eq]
  rfl

end Sys2Proof.Machine
end

