-- ==== Sys2Proof/Laws/TimedA.lean ====
section
/-! SUPPORT. What leaves the lock's registers alone (see Timed), part A: one lemma per operation, each from those of the
operations it calls. -/

namespace Sys2Proof.Machine

theorem forEach_timed {r s : State} (h : Timed r s) (cs : List Nat) {f : Nat → State → State}
    (hf : ∀ c t, Timed r t → Timed r (f c t)) : Timed r (s.forEach cs f) := by
  unfold State.forEach
  exact timedFold h (fun t c k => hf c t k)

theorem setPort_timed {r s : State} (h : Timed r s) (p : Nat) (x : Port) :
    Timed r (State.setPort s p x) := by
  unfold State.setPort
  try dsimp only
  repeat' with_reducible first | assumption | apply timedFold | split | intro _ | refine timed_mk _ _ ?_

theorem updPort_timed {r s : State} (h : Timed r s) (p : Nat) (f : Port → Port) :
    Timed r (State.updPort s p f) := by
  unfold State.updPort
  try dsimp only
  repeat' with_reducible first | assumption | apply setPort_timed

theorem emit_timed {r s : State} (h : Timed r s) (o : Output) :
    Timed r (State.emit s o) := by
  unfold State.emit
  try dsimp only
  repeat' with_reducible first | assumption | apply timedFold | split | intro _ | refine timed_mk _ _ ?_

theorem sendFlit_timed {r s : State} (h : Timed r s) (p : Nat) (ty : Nat) (vl : Nat) (sop : Bool) (eop : Bool) (seq : Nat) (payload : List Byte) :
    Timed r (State.sendFlit s p ty vl sop eop seq payload) := by
  unfold State.sendFlit
  try dsimp only
  repeat' with_reducible first | assumption | apply emit_timed | apply setPort_timed

theorem sendData_timed {r s : State} (h : Timed r s) (p : Nat) (seq : Nat) (times : Nat) (f : BitVec 2048) :
    Timed r (State.sendData s p seq times f) := by
  unfold State.sendData
  try dsimp only
  repeat' with_reducible first | assumption | apply sendFlit_timed | apply updPort_timed

theorem pump_timed {r s : State} (h : Timed r s) (p n : Nat) : Timed r (s.pump p n) := by
  induction n generalizing s with
  | zero => exact h
  | succ n ih =>
    unfold State.pump
    dsimp only
    split
    · exact h
    · split
      · exact h
      · split
        · exact h
        · exact ih (sendData_timed (setPort_timed h _ _) _ _ _ _)

theorem queuePacket_timed {r s : State} (h : Timed r s) (p : Nat) (vl : Nat) (pk : Packet) :
    Timed r (State.queuePacket s p vl pk) := by
  unfold State.queuePacket
  try dsimp only
  repeat' with_reducible first | assumption | apply updPort_timed | apply pump_timed

theorem sendAbort_timed {r s : State} (h : Timed r s) (c : Nat) :
    Timed r (State.sendAbort s c) := by
  unfold State.sendAbort
  try dsimp only
  repeat' with_reducible first | assumption | apply queuePacket_timed | apply timedFold | split | intro _

theorem forgetPuts_timed {r s : State} (h : Timed r s) (b : Barge) :
    Timed r (State.forgetPuts s b) := by
  unfold State.forgetPuts
  try dsimp only
  repeat' with_reducible first | assumption | apply timedFold | split | intro _ | refine timed_mk _ _ ?_

theorem endCollective_timed {r s : State} (h : Timed r s) (b : Barge) :
    Timed r (State.endCollective s b) := by
  unfold State.endCollective
  try dsimp only
  repeat' with_reducible first | assumption | apply event_timed | apply forgetPuts_timed

theorem showKernels_timed {r s : State} (h : Timed r s) :
    Timed r (State.showKernels s) := by
  unfold State.showKernels
  try dsimp only
  repeat' with_reducible first | assumption | refine put_timed ?_ _ _ (by simp only [timedReg, F.VECTOR_KERNEL_INFO_CONST_COUNT, F.VECTOR_KERNEL_INFO_COUNT, F.VECTOR_KERNEL_INFO_ISSUE, F.VECTOR_KERNEL_INFO_VALID, F.VECTOR_KERNEL_LOC_CONST_BASE, F.VECTOR_KERNEL_LOC_START, F.VECTOR_KERNEL_SEL_CONTEXT, F.VECTOR_KERNEL_SEL_KERNEL, F.VECTOR_KSTORE_CONST_USED, F.VECTOR_KSTORE_INSTR_USED, R.VECTOR_KERNEL_INFO, R.VECTOR_KERNEL_LOC, R.VECTOR_KERNEL_SEL, R.VECTOR_KSTORE] <;> omega) | refine status_on_timed ?_ _ rfl (by decide) rfl | refine event_bit_timed ?_ _ rfl rfl | refine on_timed ?_ _ (by simp only [timedReg, F.VECTOR_KERNEL_INFO_CONST_COUNT, F.VECTOR_KERNEL_INFO_COUNT, F.VECTOR_KERNEL_INFO_ISSUE, F.VECTOR_KERNEL_INFO_VALID, F.VECTOR_KERNEL_LOC_CONST_BASE, F.VECTOR_KERNEL_LOC_START, F.VECTOR_KERNEL_SEL_CONTEXT, F.VECTOR_KERNEL_SEL_KERNEL, F.VECTOR_KSTORE_CONST_USED, F.VECTOR_KSTORE_INSTR_USED, R.VECTOR_KERNEL_INFO, R.VECTOR_KERNEL_LOC, R.VECTOR_KERNEL_SEL, R.VECTOR_KSTORE] <;> omega) | refine setReg_timed ?_ _ _ (by simp only [timedReg, F.VECTOR_KERNEL_INFO_CONST_COUNT, F.VECTOR_KERNEL_INFO_COUNT, F.VECTOR_KERNEL_INFO_ISSUE, F.VECTOR_KERNEL_INFO_VALID, F.VECTOR_KERNEL_LOC_CONST_BASE, F.VECTOR_KERNEL_LOC_START, F.VECTOR_KERNEL_SEL_CONTEXT, F.VECTOR_KERNEL_SEL_KERNEL, F.VECTOR_KSTORE_CONST_USED, F.VECTOR_KSTORE_INSTR_USED, R.VECTOR_KERNEL_INFO, R.VECTOR_KERNEL_LOC, R.VECTOR_KERNEL_SEL, R.VECTOR_KSTORE] <;> omega) | apply timedFold | split

theorem layStore_timed {r s : State} (h : Timed r s) :
    Timed r (State.layStore s) := by
  unfold State.layStore
  try dsimp only
  repeat' with_reducible first | assumption | apply showKernels_timed | apply timedFold | split | intro _ | refine timed_mk _ _ ?_

theorem layDue_timed {r s : State} (h : Timed r s) :
    Timed r (State.layDue s) := by
  unfold State.layDue
  try dsimp only
  repeat' with_reducible first | assumption | apply layStore_timed | apply timedFold | split

theorem showEngine_timed {r s : State} (h : Timed r s) (d : Nat) :
    Timed r (State.showEngine s d) := by
  unfold State.showEngine
  try dsimp only
  repeat' with_reducible first | assumption | refine put_timed ?_ _ _ (by simp only [timedReg, F.COMPUTE_ENG_SEL_ENGINE, F.COMPUTE_ENG_STATUS_SLOTS, F.COMPUTE_ENG_STATUS_STATE, F.COMPUTE_ENG_STATUS_TASKS, F.VECTOR_STATUS_BUSY, R.COMPUTE_ENG_SEL, R.COMPUTE_ENG_STATUS, R.VECTOR_STATUS] <;> omega)

theorem showEngines_timed {r s : State} (h : Timed r s) :
    Timed r (State.showEngines s) := by
  unfold State.showEngines
  try dsimp only
  repeat' with_reducible first | assumption | apply showEngine_timed | apply timedFold | split | intro _

theorem freeArray_timed {r s : State} (h : Timed r s) :
    Timed r (State.freeArray s) := by
  unfold State.freeArray
  try dsimp only
  repeat' with_reducible first | assumption | refine status_off_timed ?_ _ rfl (by decide) rfl | refine off_timed ?_ _ (by simp only [timedReg, F.ATTN_STATUS_BUSY, F.COMPUTE_ARRAY_BUSY, F.VECTOR_STATUS_BUSY, F.VECTOR_STATUS_STAGE, R.ATTN_STATUS, R.COMPUTE_ARRAY, R.VECTOR_STATUS] <;> omega) | apply layDue_timed | apply showEngines_timed | refine put_timed ?_ _ _ (by simp only [timedReg, F.ATTN_STATUS_BUSY, F.COMPUTE_ARRAY_BUSY, F.VECTOR_STATUS_BUSY, F.VECTOR_STATUS_STAGE, R.ATTN_STATUS, R.COMPUTE_ARRAY, R.VECTOR_STATUS] <;> omega) | apply timedFold | split | intro _ | refine timed_mk _ _ ?_

theorem reportRows_timed {r s : State} (h : Timed r s) (b : Barge) :
    Timed r (State.reportRows s b) := by
  unfold State.reportRows
  try dsimp only
  repeat' with_reducible first | assumption | apply event_timed | apply timedFold | split

theorem draw_timed {r s : State} (h : Timed r s) :
    Timed r (State.draw s).2 := by
  unfold State.draw
  try dsimp only
  repeat' with_reducible first | assumption | apply timedFold | split | intro _ | refine timed_mk _ _ ?_

theorem draw_timed_pair {r s : State} (h : Timed r s) {x y} (e : State.draw s = (x, y)) : Timed r y := by
  have k := draw_timed h 
  rwa [e] at k

theorem setByte_timed {r s : State} (h : Timed r s) (a : Nat) (b : Byte) :
    Timed r (State.setByte s a b) := by
  unfold State.setByte
  try dsimp only
  repeat' with_reducible first | assumption | apply timedFold | split | intro _ | refine timed_mk _ _ ?_

theorem undefine_timed {r s : State} (h : Timed r s) (regions : List (Nat × Nat)) :
    Timed r (State.undefine s regions) := by
  unfold State.undefine
  try dsimp only
  repeat' with_reducible first | assumption | apply draw_timed | refine draw_timed_pair ?_ ‹_› | apply setByte_timed | apply timedFold | split | intro _

theorem dropArray_timed {r s : State} (h : Timed r s) (b : Barge) :
    Timed r (State.dropArray s b) := by
  unfold State.dropArray
  try dsimp only
  repeat' with_reducible first | assumption | refine status_on_timed ?_ _ rfl (by decide) rfl | refine event_bit_timed ?_ _ rfl rfl | refine on_timed ?_ _ (by simp only [timedReg, F.COMPUTE_ARRAY_ABORTED, R.COMPUTE_ARRAY] <;> omega) | apply freeArray_timed | apply reportRows_timed | apply undefine_timed | apply event_timed | apply timedFold | split

theorem promoteTo_timed {r s : State} (h : Timed r s) (b : Barge) (key : Nat) (n : Nat) :
    Timed r (State.promoteTo s b key n) := by
  unfold State.promoteTo
  try dsimp only
  repeat' with_reducible first | assumption | refine count_timed ?_ _ _ (by simp only [timedReg, R.COMPUTE_STICKY_GROUPS] <;> omega) | apply timedFold | split | intro _ | refine timed_mk _ _ ?_

theorem runOn_timed {r s : State} (h : Timed r s) (b : Barge) (key : Nat) (lo : Nat) :
    Timed r (State.runOn s b key lo) := by
  unfold State.runOn
  try dsimp only
  repeat' with_reducible first | assumption | apply draw_timed | refine draw_timed_pair ?_ ‹_› | apply promoteTo_timed | apply timedFold | split

theorem forceSlot_timed {r s : State} (h : Timed r s) (b : Barge) (key : Nat) :
    Timed r (State.forceSlot s b key) := by
  unfold State.forceSlot
  try dsimp only
  repeat' with_reducible first | assumption | refine count_timed ?_ _ _ (by simp only [timedReg, R.COMPUTE_FORCED_DRAINS, R.COMPUTE_STICKY_GROUPS] <;> omega) | apply runOn_timed | apply draw_timed | refine draw_timed_pair ?_ ‹_› | apply timedFold | split

theorem forceDrains_timed {r s : State} (h : Timed r s) (b : Barge) :
    Timed r (State.forceDrains s b) := by
  unfold State.forceDrains
  try dsimp only
  repeat' with_reducible first | assumption | apply forceSlot_timed | apply timedFold | split | intro _

theorem endArray_timed {r s : State} (h : Timed r s) :
    Timed r (State.endArray s) := by
  unfold State.endArray
  try dsimp only
  repeat' with_reducible first | assumption | apply dropArray_timed | apply forceDrains_timed | apply timedFold | split

theorem setCtx_timed {r s : State} (h : Timed r s) (c : Nat) (x : Ctx) :
    Timed r (State.setCtx s c x) := by
  unfold State.setCtx
  try dsimp only
  repeat' with_reducible first | assumption | apply timedFold | split | intro _ | refine timed_mk _ _ ?_

theorem updCtx_timed {r s : State} (h : Timed r s) (c : Nat) (f : Ctx → Ctx) :
    Timed r (State.updCtx s c f) := by
  unfold State.updCtx
  try dsimp only
  repeat' with_reducible first | assumption | apply setCtx_timed

theorem setPhase_timed {r s : State} (h : Timed r s) (c : Nat) (p : Nat) :
    Timed r (State.setPhase s c p) := by
  unfold State.setPhase
  try dsimp only
  repeat' with_reducible first | assumption | refine put_timed ?_ _ _ (by simp only [timedReg, F.TRAIN_CTX_STATUS_PHASE, R.TRAIN_CTX_STATUS] <;> omega)

theorem abortCtx_timed {r s : State} (h : Timed r s) (c : Nat) :
    Timed r (State.abortCtx s c) := by
  unfold State.abortCtx
  try dsimp only
  repeat' with_reducible first | assumption | apply updCtx_timed | apply setPhase_timed | refine status_off_timed ?_ _ rfl (by decide) rfl | refine off_timed ?_ _ (by simp only [timedReg, F.TRAIN_CTX_STATUS_EVAL, F.TRAIN_CTX_STATUS_IN_STEP, R.TRAIN_CTX_STATUS] <;> omega) | apply timedFold | split

theorem abortSteps_timed {r s : State} (h : Timed r s) (cs : List Nat) :
    Timed r (State.abortSteps s cs) := by
  unfold State.abortSteps
  try dsimp only
  repeat' with_reducible first | assumption | apply endCollective_timed | apply endArray_timed | refine status_on_timed ?_ _ rfl (by decide) rfl | refine event_bit_timed ?_ _ rfl rfl | refine on_timed ?_ _ (by simp only [timedReg, F.LOCK_STATUS_DRAINING, F.LOCK_STATUS_STEP_ABORTED, R.LOCK_STATUS] <;> omega) | apply forEach_timed | apply abortCtx_timed | apply timedFold | split | intro _ | refine timed_mk _ _ ?_

theorem abandon_timed {r s : State} (h : Timed r s) (cs : List Nat) :
    Timed r (State.abandon s cs) := by
  unfold State.abandon
  try dsimp only
  repeat' with_reducible first | assumption | apply forEach_timed | apply sendAbort_timed | apply abortSteps_timed | refine status_on_timed ?_ _ rfl (by decide) rfl | refine event_bit_timed ?_ _ rfl rfl | refine on_timed ?_ _ (by simp only [timedReg, F.LOCK_EVENTS_ABORT_TX, R.LOCK_EVENTS] <;> omega) | apply timedFold | split | intro _

theorem setSlot_timed {r s : State} (h : Timed r s) (c : Nat) (j : Nat) (state : Nat) (step : Nat) :
    Timed r (State.setSlot s c j state step) := by
  unfold State.setSlot
  try dsimp only
  repeat' with_reducible first | assumption | refine put_timed ?_ _ _ (by simp only [timedReg, F.LK_SNAP_SLOT_STATE, F.LK_SNAP_SLOT_STEP, R.LK_SNAP_SLOT] <;> omega)

theorem setSector_timed {r s : State} (h : Timed r s) (n : Nat) (x : Sector) :
    Timed r (State.setSector s n x) := by
  unfold State.setSector
  try dsimp only
  repeat' with_reducible first | assumption | apply timedFold | split | intro _ | refine timed_mk _ _ ?_

theorem store_timed {r s : State} (h : Timed r s) (ws : List (Nat × Byte)) :
    Timed r (State.store s ws) := by
  unfold State.store
  try dsimp only
  repeat' with_reducible first | assumption | apply setByte_timed | apply timedFold | split | intro _

theorem settle_timed {r s : State} (h : Timed r s) (n : Nat) :
    Timed r (State.settle s n) := by
  unfold State.settle
  try dsimp only
  repeat' with_reducible first | assumption | apply store_timed | apply setSector_timed | apply timedFold | split

theorem markLane_timed {r s : State} (h : Timed r s) (channel : Nat) (pc : Nat) (lane : Nat) (cause : Nat) :
    Timed r (State.markLane s channel pc lane cause) := by
  unfold State.markLane
  try dsimp only
  repeat' with_reducible first | assumption | refine put_timed ?_ _ _ (by simp only [timedReg, F.MEM_LANE_MARK_LANE, F.MEM_LANE_MARK_VALID, F.MEM_STATUS_MARKED, R.MEM_LANE_MARK, R.MEM_STATUS] <;> omega) | refine status_on_timed ?_ _ rfl (by decide) rfl | refine event_bit_timed ?_ _ rfl rfl | refine on_timed ?_ _ (by simp only [timedReg, F.MEM_LANE_MARK_LANE, F.MEM_LANE_MARK_VALID, F.MEM_STATUS_MARKED, R.MEM_LANE_MARK, R.MEM_STATUS] <;> omega) | apply event_timed | apply settle_timed | apply timedFold | split | intro _

theorem countRun_timed {r s : State} (h : Timed r s) (p : Place) (lane : Option Nat) :
    Timed r (State.countRun s p lane) := by
  unfold State.countRun
  try dsimp only
  repeat' with_reducible first | assumption | apply markLane_timed | apply timedFold | split | intro _ | refine timed_mk _ _ ?_

theorem measure_timed {r s : State} (h : Timed r s) (i : Nat) (n : Nat) :
    Timed r (State.measure s i n) := by
  unfold State.measure
  try dsimp only
  repeat' with_reducible first | assumption | apply timedFold | split | intro _ | refine timed_mk _ _ ?_

theorem readSector_timed {r s : State} (h : Timed r s) (n : Nat) :
    Timed r (State.readSector s n).1 := by
  unfold State.readSector
  try dsimp only
  repeat' with_reducible first | assumption | refine count_timed ?_ _ _ (by simp only [timedReg, R.MEM_CORRECTED, R.MEM_ERASURE, R.MEM_STACK_CORR] <;> omega) | apply countRun_timed | apply measure_timed | apply timedFold | split

theorem readSector_timed_pair {r s : State} (h : Timed r s) (n : Nat) {x y} (e : State.readSector s n = (x, y)) : Timed r x := by
  have k := readSector_timed h n
  rwa [e] at k

theorem uncorrectable_timed {r s : State} (h : Timed r s) (reader : Nat) (n : Nat) :
    Timed r (State.uncorrectable s reader n) := by
  unfold State.uncorrectable
  try dsimp only
  repeat' with_reducible first | assumption | refine setReg64_timed ?_ _ _ (by simp only [timedReg, R.MEM_UNCORR, R.MEM_UNCORR_ADDR] <;> omega) (by simp only [timedReg, R.MEM_UNCORR, R.MEM_UNCORR_ADDR] <;> omega) | refine count_timed ?_ _ _ (by simp only [timedReg, R.MEM_UNCORR, R.MEM_UNCORR_ADDR] <;> omega) | apply event_timed | apply timedFold | split | intro _ | refine timed_mk _ _ ?_

theorem readSectors_timed {r s : State} (h : Timed r s) (reader : Nat) (ns : List Nat) :
    Timed r (s.readSectors reader ns).1 := by
  unfold State.readSectors
  have key : ∀ (l : List Nat) (s : State) (bad : List Nat), Timed r s → Timed r (l.foldl (fun (s, bad) n =>
      if s.isNotable n then
        let (s, r) := s.readSector n
        if r = .uncorrectable then (s.uncorrectable reader n, bad ++ [n]) else (s, bad)
      else (s, bad)) (s, bad)).1 := by
    intro l
    induction l with
    | nil => exact fun _ _ h => h
    | cons n l ih =>
      intro s bad h
      rw [List.foldl_cons]
      dsimp only
      split
      · split
        · exact ih _ _ (uncorrectable_timed (readSector_timed h n) reader n)
        · exact ih _ _ (readSector_timed h n)
      · exact ih _ _ h
  exact key ns s [] h

theorem readSectors_timed_pair {r s : State} (h : Timed r s) (reader : Nat) (ns : List Nat) {x y}
    (e : State.readSectors s reader ns = (x, y)) : Timed r x := by
  have k := readSectors_timed h reader ns
  rwa [e] at k

theorem writeSector_timed {r s : State} (h : Timed r s) (n : Nat) (covered : Nat) :
    Timed r (State.writeSector s n covered) := by
  unfold State.writeSector
  try dsimp only
  repeat' with_reducible first | assumption | apply setSector_timed | refine count_timed ?_ _ _ (by simp only [timedReg, R.MEM_RMW] <;> omega) | apply readSectors_timed | refine readSectors_timed_pair ?_ ‹_› | apply timedFold | split

theorem writeAt_timed {r s : State} (h : Timed r s) (a : Nat) (bs : List Byte) :
    Timed r (State.writeAt s a bs) := by
  unfold State.writeAt
  try dsimp only
  repeat' with_reducible first | assumption | apply writeSector_timed | apply store_timed | apply timedFold | split | intro _

theorem abandonCapture_timed {r s : State} (h : Timed r s) (c : Nat) :
    Timed r (State.abandonCapture s c) := by
  unfold State.abandonCapture
  try dsimp only
  repeat' with_reducible first | assumption | apply setSlot_timed | apply writeAt_timed | apply event_timed | apply updCtx_timed | apply timedFold | split

theorem setScale_timed {r s : State} (h : Timed r s) (i : Nat) (e : ScaleEntry) :
    Timed r (State.setScale s i e) := by
  unfold State.setScale
  try dsimp only
  repeat' with_reducible first | assumption | apply timedFold | split | intro _ | refine timed_mk _ _ ?_

theorem showHistory_timed {r s : State} (h : Timed r s) (c : Nat) :
    Timed r (State.showHistory s c) := by
  unfold State.showHistory
  try dsimp only
  repeat' with_reducible first | assumption | refine put_timed ?_ _ _ (by simp only [timedReg, F.SCALE_CTX_BOOTSTRAP_NEXT, F.SCALE_CTX_HIST_EMPTY, R.SCALE_CTX] <;> omega)

theorem setCtxState_timed {r s : State} (h : Timed r s) (c : Nat) (v : Nat) :
    Timed r (State.setCtxState s c v) := by
  unfold State.setCtxState
  try dsimp only
  repeat' with_reducible first | assumption | refine put_timed ?_ _ _ (by simp only [timedReg, F.LK_CTX_STATE_STATE, R.LK_CTX_STATE] <;> omega)

theorem touch_timed {r s : State} (h : Timed r s) (reader : Nat) (regions : List (Nat × Nat)) :
    Timed r (State.touch s reader regions).1 := by
  unfold State.touch
  try dsimp only
  repeat' with_reducible first | assumption | apply readSectors_timed

theorem touch_timed_pair {r s : State} (h : Timed r s) (reader : Nat) (regions : List (Nat × Nat)) {x y} (e : State.touch s reader regions = (x, y)) : Timed r x := by
  have k := touch_timed h reader regions
  rwa [e] at k

theorem cqWrite_timed {r s : State} (h : Timed r s) (c : Nat) (r1 : BitVec 256) :
    Timed r (State.cqWrite s c r1) := by
  unfold State.cqWrite
  try dsimp only
  repeat' with_reducible first | assumption | apply emit_timed | refine put_timed ?_ _ _ (by simp only [timedReg, F.LK_CQ_SIZE_ENTRIES, F.LK_CQ_TAIL_TAIL, R.LK_CQ_BASE, R.LK_CQ_SIZE, R.LK_CQ_TAIL] <;> omega) | apply updCtx_timed | apply raise_timed | apply timedFold | split

theorem complete_timed {r s : State} (h : Timed r s) (c : Nat) (tag : Nat) (kind : Nat) (status : Nat) (detail : Nat) :
    Timed r (State.complete s c tag kind status detail) := by
  unfold State.complete
  try dsimp only
  repeat' with_reducible first | assumption | apply cqWrite_timed | apply setCtx_timed | refine count_timed ?_ _ _ (by simp only [timedReg, R.LK_CQ_LOST, R.TRAIN_STEP] <;> omega) | apply event_timed | apply timedFold | split

theorem showWiden_timed {r s : State} (h : Timed r s) :
    Timed r (State.showWiden s) := by
  unfold State.showWiden
  try dsimp only
  repeat' with_reducible first | assumption | refine put_timed ?_ _ _ (by simp only [timedReg, F.TRAIN_WIDEN_SEL_CONTEXT, F.TRAIN_WIDEN_SEL_SLOT, F.TRAIN_WIDEN_STATE_HOLD, F.TRAIN_WIDEN_STATE_LEVEL, F.TRAIN_WIDEN_STATE_REQ_LAST, F.TRAIN_WIDEN_STATE_REQ_OWN, R.TRAIN_WIDEN_SEL, R.TRAIN_WIDEN_STATE] <;> omega)

theorem overrun_timed {r s : State} (h : Timed r s) (kind : Nat) :
    Timed r (State.overrun s kind) := by
  unfold State.overrun
  try dsimp only
  repeat' with_reducible first | assumption | apply forEach_timed | apply sendAbort_timed | refine count_timed ?_ _ _ (by simp only [timedReg, F.LOCK_EVENTS_ABORT_TX, F.LOCK_EVENTS_OVERRUN, R.LOCK_EVENTS, R.LOCK_OVERRUN_COUNT] <;> omega) | refine status_on_timed ?_ _ rfl (by decide) rfl | refine event_bit_timed ?_ _ rfl rfl | refine on_timed ?_ _ (by simp only [timedReg, F.LOCK_EVENTS_ABORT_TX, F.LOCK_EVENTS_OVERRUN, R.LOCK_EVENTS, R.LOCK_OVERRUN_COUNT] <;> omega) | apply measure_timed | apply event_timed | apply abortSteps_timed | apply timedFold | split | intro _ | refine timed_mk _ _ ?_

theorem routePacket_timed {r s : State} (h : Timed r s) (d : Nat) (vl : Nat) (pk : Packet) :
    Timed r (State.routePacket s d vl pk) := by
  unfold State.routePacket
  try dsimp only
  repeat' with_reducible first | assumption | apply queuePacket_timed | refine count_timed ?_ _ _ (by simp only [timedReg, R.LINK_NOROUTE] <;> omega) | apply event_timed | apply timedFold | split | intro _ | refine timed_mk _ _ ?_

theorem setCollective_timed {r s : State} (h : Timed r s) (i : Nat) (n : Nat) :
    Timed r (State.setCollective s i n) := by
  unfold State.setCollective
  try dsimp only
  repeat' with_reducible first | assumption | apply timedFold | split | intro _ | refine timed_mk _ _ ?_

theorem sendPacket_timed {r s : State} (h : Timed r s) (vl : Nat) (a : PacketArgs) :
    Timed r (State.sendPacket s vl a) := by
  unfold State.sendPacket
  try dsimp only
  repeat' with_reducible first | assumption | apply routePacket_timed | apply timedFold | split

theorem sendStream_timed {r s : State} (h : Timed r s) (vl : Nat) (a : PacketArgs) (bs : List Byte) :
    Timed r (State.sendStream s vl a bs) := by
  unfold State.sendStream
  try dsimp only
  repeat' with_reducible first | assumption | apply sendPacket_timed | apply timedFold | split | intro _ | refine timed_mk _ _ ?_

theorem sendTo_timed {r s : State} (h : Timed r s) (b : Barge) (phase : Nat) (j : Nat) (bs : List Byte) :
    Timed r (State.sendTo s b phase j bs) := by
  unfold State.sendTo
  try dsimp only
  repeat' with_reducible first | assumption | apply sendStream_timed | apply timedFold | split

theorem coPass_timed {r s : State} (h : Timed r s) (b : Barge) :
    Timed r (State.coPass s b) := by
  unfold State.coPass
  try dsimp only
  repeat' with_reducible first | assumption | apply sendTo_timed | apply timedFold | split | intro _

theorem write_timed {r s : State} (h : Timed r s) (ws : List (Nat × Byte)) :
    Timed r (State.write s ws) := by
  unfold State.write
  try dsimp only
  repeat' with_reducible first | assumption | apply writeSector_timed | apply store_timed | apply timedFold | split | intro _

theorem coWrite_timed {r s : State} (h : Timed r s) (b : Barge) (rs : List (List Byte)) :
    Timed r (State.coWrite s b rs) := by
  unfold State.coWrite
  try dsimp only
  repeat' with_reducible first | assumption | apply write_timed

theorem setCstat_timed {r s : State} (h : Timed r s) (bank : Bool) (i : Nat) (e : CStat) :
    Timed r (State.setCstat s bank i e) := by
  unfold State.setCstat
  try dsimp only
  repeat' with_reducible first | assumption | apply timedFold | split | intro _ | refine timed_mk _ _ ?_

theorem coAgree_timed {r s : State} (h : Timed r s) (b : Barge) (rs : List (List Byte)) :
    Timed r (State.coAgree s b rs) := by
  unfold State.coAgree
  try dsimp only
  repeat' with_reducible first | assumption | apply setScale_timed | apply setCstat_timed | apply timedFold | split | intro _

theorem coOutput_timed {r s : State} (h : Timed r s) (b : Barge) :
    Timed r (State.coOutput s b) := by
  unfold State.coOutput
  try dsimp only
  repeat' with_reducible first | assumption | apply coWrite_timed | apply coAgree_timed | apply writeAt_timed | apply timedFold | split

theorem updBarge_timed {r s : State} (h : Timed r s) (i : Nat) (f : Barge → Barge) :
    Timed r (State.updBarge s i f) := by
  unfold State.updBarge
  try dsimp only
  repeat' with_reducible first | assumption | apply timedFold | split | intro _ | refine timed_mk _ _ ?_

theorem showCounts_timed {r s : State} (h : Timed r s) (b : Barge) :
    Timed r (State.showCounts s b) := by
  unfold State.showCounts
  try dsimp only
  repeat' with_reducible first | assumption | refine put_timed ?_ _ _ (by simp only [timedReg, F.VECTOR_CNT_COUNT, F.VECTOR_CNT_DROPPED_COUNT, F.VECTOR_CNT_STATUS_CONTEXT, F.VECTOR_CNT_STATUS_NBUCKETS, F.VECTOR_CNT_STATUS_VALID, R.VECTOR_CNT, R.VECTOR_CNT_DROPPED, R.VECTOR_CNT_STATUS] <;> omega) | refine status_on_timed ?_ _ rfl (by decide) rfl | refine event_bit_timed ?_ _ rfl rfl | refine on_timed ?_ _ (by simp only [timedReg, F.VECTOR_CNT_COUNT, F.VECTOR_CNT_DROPPED_COUNT, F.VECTOR_CNT_STATUS_CONTEXT, F.VECTOR_CNT_STATUS_NBUCKETS, F.VECTOR_CNT_STATUS_VALID, R.VECTOR_CNT, R.VECTOR_CNT_DROPPED, R.VECTOR_CNT_STATUS] <;> omega) | apply timedFold | split | intro _

theorem finishBarge_timed {r s : State} (h : Timed r s) (i : Nat) (start : Nat) (b : Barge) :
    Timed r (State.finishBarge s i start b) := by
  unfold State.finishBarge
  try dsimp only
  repeat' with_reducible first | assumption | apply updBarge_timed | apply event_timed | refine status_on_timed ?_ _ rfl (by decide) rfl | refine event_bit_timed ?_ _ rfl rfl | refine on_timed ?_ _ (by simp only [timedReg, F.LOCK_EVENTS_BUDGET_EXCEED, F.SCALE_CSTAT_STATUS_AGREED, R.LOCK_BUDGET_COUNT, R.LOCK_EVENTS, R.SCALE_CSTAT_STATUS] <;> omega) | refine count_timed ?_ _ _ (by simp only [timedReg, F.LOCK_EVENTS_BUDGET_EXCEED, F.SCALE_CSTAT_STATUS_AGREED, R.LOCK_BUDGET_COUNT, R.LOCK_EVENTS, R.SCALE_CSTAT_STATUS] <;> omega) | apply showCounts_timed | apply freeArray_timed | apply reportRows_timed | apply complete_timed | apply timedFold | split | intro _ | refine timed_mk _ _ ?_

theorem tryFinish_timed {r s : State} (h : Timed r s) (i : Nat) :
    Timed r (State.tryFinish s i) := by
  unfold State.tryFinish
  try dsimp only
  repeat' with_reducible first | assumption | apply finishBarge_timed | apply timedFold | split

theorem progress_timed {r s : State} (h : Timed r s) (i : Nat) :
    Timed r (State.progress s i) := by
  unfold State.progress
  try dsimp only
  repeat' with_reducible first | assumption | apply setCollective_timed | apply coPass_timed | apply coOutput_timed | apply tryFinish_timed | apply timedFold | split

theorem ackPut_timed {r s : State} (h : Timed r s) (k : StreamKey) (n : Nat) :
    Timed r (State.ackPut s k n) := by
  unfold State.ackPut
  try dsimp only
  repeat' with_reducible first | assumption | apply sendPacket_timed

theorem dropExport_timed {r s : State} (h : Timed r s) (c : Nat) (cause : Nat) :
    Timed r (State.dropExport s c cause) := by
  unfold State.dropExport
  try dsimp only
  repeat' with_reducible first | assumption | refine put_timed ?_ _ _ (by simp only [timedReg, F.LK_SNAP_SLOT_STATE, R.LK_SNAP_SLOT] <;> omega) | apply updCtx_timed | apply event_timed | apply timedFold | split

theorem nameSuspect_timed {r s : State} (h : Timed r s) :
    Timed r (State.nameSuspect s) := by
  unfold State.nameSuspect
  try dsimp only
  repeat' with_reducible first | assumption | apply event_timed | refine put_timed ?_ _ _ (by simp only [timedReg, F.LK_REPLAY_ACTIVE, F.LK_REPLAY_CLEARED, F.LK_REPLAY_CONTEXT, F.LK_REPLAY_PENDING, R.LK_REPLAY] <;> omega) | refine status_off_timed ?_ _ rfl (by decide) rfl | refine off_timed ?_ _ (by simp only [timedReg, F.LK_REPLAY_ACTIVE, F.LK_REPLAY_CLEARED, F.LK_REPLAY_CONTEXT, F.LK_REPLAY_PENDING, R.LK_REPLAY] <;> omega) | apply timedFold | split

theorem countBlocks_timed {r s : State} (h : Timed r s) (f : Frame) (i : Nat) (b : BlockCount) :
    Timed r (State.countBlocks s f i b) := by
  unfold State.countBlocks
  try dsimp only
  repeat' with_reducible first | assumption | refine count_timed ?_ _ _ (by simp only [timedReg, R.FORMAT_Q_BLOCKS, R.FORMAT_Q_NONFINITE, R.FORMAT_Q_SAT, R.FORMAT_Q_ZERO] <;> omega) | apply updCtx_timed

theorem feedStats_timed {r s : State} (h : Timed r s) (c : Nat) (fs : List StatFeed) :
    Timed r (State.feedStats s c fs) := by
  unfold State.feedStats
  try dsimp only
  repeat' with_reducible first | assumption | apply setCstat_timed | apply timedFold | split | intro _

theorem feedAmax_timed {r s : State} (h : Timed r s) (f : Frame) (i : Nat) (as : List (BitVec 32)) :
    Timed r (State.feedAmax s f i as) := by
  unfold State.feedAmax
  try dsimp only
  repeat' with_reducible first | assumption | apply setScale_timed | apply timedFold | split

theorem flagTensor_timed {r s : State} (h : Timed r s) (f : Frame) (i : Nat) :
    Timed r (State.flagTensor s f i) := by
  unfold State.flagTensor
  try dsimp only
  repeat' with_reducible first | assumption | apply event_timed | apply updCtx_timed | apply timedFold | split

theorem nonfinite_timed {r s : State} (h : Timed r s) (c : Nat) (eval : Bool) :
    Timed r (State.nonfinite s c eval) := by
  unfold State.nonfinite
  try dsimp only
  repeat' with_reducible first | assumption | refine count_timed ?_ _ _ (by simp only [timedReg, F.TRAIN_CTX_STATUS_NONFINITE, F.TRAIN_CTX_STATUS_UPD_NONFINITE, R.TRAIN_CTX_STATUS, R.TRAIN_EVAL_NONFINITE] <;> omega) | apply updCtx_timed | refine status_on_timed ?_ _ rfl (by decide) rfl | refine event_bit_timed ?_ _ rfl rfl | refine on_timed ?_ _ (by simp only [timedReg, F.TRAIN_CTX_STATUS_NONFINITE, F.TRAIN_CTX_STATUS_UPD_NONFINITE, R.TRAIN_CTX_STATUS, R.TRAIN_EVAL_NONFINITE] <;> omega) | apply timedFold | split

theorem raiseNonfinite_timed {r s : State} (h : Timed r s) (f : Frame) :
    Timed r (State.raiseNonfinite s f) := by
  unfold State.raiseNonfinite
  try dsimp only
  repeat' with_reducible first | assumption | apply nonfinite_timed

theorem apply_timed {r s : State} (h : Timed r s) (f : Frame) (i : Nat) (r1 : OutResult) :
    Timed r (State.apply s f i r1) := by
  unfold State.apply
  try dsimp only
  repeat' with_reducible first | assumption | apply write_timed | refine count_timed ?_ _ _ (by simp only [timedReg, R.FORMAT_Q_SLUICED] <;> omega) | apply countBlocks_timed | apply feedStats_timed | apply feedAmax_timed | apply flagTensor_timed | apply raiseNonfinite_timed | apply timedFold | split

theorem at'_timed {r s : State} (h : Timed r s) (now : Nat) :
    Timed r (State.at_ s now) := by
  unfold State.at_
  try dsimp only
  repeat' with_reducible first | assumption | refine setReg64_timed ?_ _ _ (by simp only [timedReg, R.LOCK_FTC] <;> omega) (by simp only [timedReg, R.LOCK_FTC] <;> omega) | apply timedFold | split

theorem writeTensor_timed {r s : State} (h : Timed r s) (f : Frame) (td : Nat) (rot : Bool) (sluice : Nat) (stats : Option Nat) (ls : Lines) (get : Ix → OutPos) :
    Timed r (State.writeTensor s f td rot sluice stats ls get) := by
  unfold State.writeTensor
  try dsimp only
  repeat' with_reducible first | assumption | apply apply_timed

theorem writeGrad_timed {r s : State} (h : Timed r s) (f : Frame) (td : Nat) (factor : Fv) (ok : Ix → Bool) (total : Ix → Total) :
    Timed r (State.writeGrad s f td factor ok total) := by
  unfold State.writeGrad
  try dsimp only
  repeat' with_reducible first | assumption | apply writeTensor_timed | refine count_timed ?_ _ _ (by simp only [timedReg, R.FORMAT_NONFINITE_OUT] <;> omega) | apply raiseNonfinite_timed | apply timedFold | split

theorem backward_timed {r s : State} (h : Timed r s) (f : Frame) (g : Grad) (e : Nat) :
    Timed r (State.backward s f g e) := by
  unfold State.backward
  try dsimp only
  repeat' with_reducible first | assumption | refine count_timed ?_ _ _ (by simp only [timedReg, R.ATTN_ZERO_GRAD_ROWS, R.COMPUTE_STICKY_GROUPS] <;> omega) | apply raiseNonfinite_timed | apply writeGrad_timed | apply timedFold | split

theorem badHyper_timed {r s : State} (h : Timed r s) (f : Frame) (d : BitVec 1024) (off : Nat) :
    Timed r (State.badHyper s f d off) := by
  unfold State.badHyper
  try dsimp only
  repeat' with_reducible first | assumption | apply event_timed | refine status_on_timed ?_ _ rfl (by decide) rfl | refine event_bit_timed ?_ _ rfl rfl | refine on_timed ?_ _ (by simp only [timedReg, F.TRAIN_CTX_STATUS_UPD_FAULT, R.TRAIN_CTX_STATUS] <;> omega)

theorem loseWord_timed {r s : State} (h : Timed r s) (w : SramWord) :
    Timed r (State.loseWord s w) := by
  unfold State.loseWord
  try dsimp only
  repeat' with_reducible first | assumption | apply timedFold | split | intro _ | refine timed_mk _ _ ?_

theorem readWord_timed {r s : State} (h : Timed r s) (w : SramWord) :
    Timed r (State.readWord s w) := by
  unfold State.readWord
  try dsimp only
  repeat' with_reducible first | assumption | refine count_timed ?_ _ _ (by simp only [timedReg, R.HEALTH_SRAM_CORR, R.HEALTH_SRAM_UNCORR] <;> omega) | apply event_timed | apply measure_timed | apply timedFold | split | intro _ | refine timed_mk _ _ ?_

theorem readWords_timed {r s : State} (h : Timed r s) (which : SramWord → Bool) :
    Timed r (State.readWords s which).1 := by
  unfold State.readWords
  try dsimp only
  repeat' with_reducible first | assumption | apply loseWord_timed | apply readWord_timed | apply timedFold | split | intro _

theorem readWords_timed_pair {r s : State} (h : Timed r s) (which : SramWord → Bool) {x y} (e : State.readWords s which = (x, y)) : Timed r x := by
  have k := readWords_timed h which
  rwa [e] at k

theorem endEvalAt_timed {r s : State} (h : Timed r s) (b : Barge) :
    Timed r (State.endEvalAt s b) := by
  unfold State.endEvalAt
  try dsimp only
  repeat' with_reducible first | assumption | apply freeArray_timed | apply forgetPuts_timed | apply updCtx_timed | apply complete_timed | apply timedFold | split | intro _ | refine timed_mk _ _ ?_

theorem endAtRead_timed {r s : State} (h : Timed r s) (b : Barge) :
    Timed r (State.endAtRead s b) := by
  unfold State.endAtRead
  try dsimp only
  repeat' with_reducible first | assumption | apply endEvalAt_timed | apply undefine_timed | apply abandon_timed | apply timedFold | split

theorem readingWords_timed {r s : State} (h : Timed r s) (b : Barge) (which : SramWord → Bool) {f : State → State} (hf : ∀ t, Timed r t → Timed r (f t)) :
    Timed r (State.readingWords s b which f) := by
  unfold State.readingWords
  try dsimp only
  repeat' with_reducible first | assumption | apply hf | apply readWords_timed | refine readWords_timed_pair ?_ ‹_› | apply endAtRead_timed | apply timedFold | split

theorem begin_timed {r s : State} (h : Timed r s) (i : Nat) (cls : Nat) (op : Nat) {f : Barge → State → State} (hf : ∀ a0 t, Timed r t → Timed r (f a0 t)) :
    ∀ t, State.begin s i cls op f = .next t → Timed r t := by
  unfold State.begin
  intro t ht
  revert ht; (try dsimp only); intro ht
  (repeat' split at ht) <;> (injection ht with ht; subst ht; repeat' with_reducible first | assumption | apply hf | apply updBarge_timed | apply readingWords_timed)

theorem reading_timed {r s : State} (h : Timed r s) (b : Barge) (regions : List (Nat × Nat)) {f : State → State} (hf : ∀ t, Timed r t → Timed r (f t)) :
    Timed r (State.reading s b regions f) := by
  unfold State.reading
  try dsimp only
  repeat' with_reducible first | assumption | apply hf | apply touch_timed | refine touch_timed_pair ?_ ‹_› | apply readingWords_timed | apply endAtRead_timed | apply timedFold | split

theorem setQueue_timed {r s : State} (h : Timed r s) (g : Nat) (ts : List Nat) :
    Timed r (State.setQueue s g ts) := by
  unfold State.setQueue
  try dsimp only
  repeat' with_reducible first | assumption | apply timedFold | split | intro _ | refine timed_mk _ _ ?_

theorem deal_timed {r s : State} (h : Timed r s) (ts : List Nat) :
    Timed r (State.deal s ts) := by
  unfold State.deal
  try dsimp only
  repeat' with_reducible first | assumption | apply setQueue_timed | apply timedFold | split | intro _

theorem fetchTiles_timed {r s : State} (h : Timed r s) (g : Nat) (regions : List (Nat × Nat)) :
    Timed r (State.fetchTiles s g regions) := by
  unfold State.fetchTiles
  try dsimp only
  repeat' with_reducible first | assumption | apply timedFold | split | intro _ | refine timed_mk _ _ ?_

theorem loadLanes_timed {r s : State} (h : Timed r s) (b : Barge) (e : Nat) (t1 : Nat) :
    Timed r (State.loadLanes s b e t1) := by
  unfold State.loadLanes
  try dsimp only
  repeat' with_reducible first | assumption | apply timedFold | split | intro _ | refine timed_mk _ _ ?_

theorem fetchTask_timed {r s : State} (h : Timed r s) (b : Barge) (e : Nat) (t1 : Nat) :
    Timed r (State.fetchTask s b e t1) := by
  unfold State.fetchTask
  try dsimp only
  repeat' with_reducible first | assumption | apply fetchTiles_timed | apply loadLanes_timed | apply timedFold | split

theorem nearEnd_timed {r s : State} (h : Timed r s) (b : Barge) (key : Nat) :
    Timed r (State.nearEnd s b key) := by
  unfold State.nearEnd
  try dsimp only
  repeat' with_reducible first | assumption | apply runOn_timed | apply timedFold | split

theorem take_timed {r s : State} (h : Timed r s) (b : Barge) (e : Nat) (k : Nat) (t1 : Nat) :
    Timed r (State.take s b e k t1) := by
  unfold State.take
  try dsimp only
  repeat' with_reducible first | assumption | apply fetchTask_timed | apply nearEnd_timed | apply showEngine_timed | apply timedFold | split | intro _ | refine timed_mk _ _ ?_

theorem stealFrom_timed {r s : State} (h : Timed r s) (b : Barge) (e : Nat) (k : Nat) (v : Nat) :
    Timed r (State.stealFrom s b e k v) := by
  unfold State.stealFrom
  try dsimp only
  repeat' with_reducible first | assumption | apply take_timed | apply setQueue_timed | refine count_timed ?_ _ _ (by simp only [timedReg, R.COMPUTE_STEALS_CROSS, R.COMPUTE_STEALS_IN] <;> omega) | apply timedFold | split

theorem waitSplit_timed {r s : State} (h : Timed r s) (e : Nat) :
    Timed r (State.waitSplit s e) := by
  unfold State.waitSplit
  try dsimp only
  repeat' with_reducible first | assumption | refine count_timed ?_ _ _ (by simp only [timedReg, R.COMPUTE_SPLITK_WAIT] <;> omega) | apply showEngine_timed | apply timedFold | split | intro _ | refine timed_mk _ _ ?_

theorem claim_timed {r s : State} (h : Timed r s) (e : Nat) :
    Timed r (State.claim s e) := by
  unfold State.claim
  try dsimp only
  repeat' with_reducible first | assumption | apply take_timed | apply setQueue_timed | apply stealFrom_timed | apply waitSplit_timed | apply timedFold | split

theorem dealOut_timed {r s : State} (h : Timed r s) (tasks : List Nat) :
    Timed r (State.dealOut s tasks) := by
  unfold State.dealOut
  try dsimp only
  repeat' with_reducible first | assumption | apply deal_timed | apply claim_timed | apply timedFold | split | intro _

theorem startArray_timed {r s : State} (h : Timed r s) (i : Nat) (b : Barge) (tasks : List Nat) (total : Nat) (stage : Nat) (counts : List Nat) (docs : List Nat) :
    Timed r (State.startArray s i b tasks total stage counts docs) := by
  unfold State.startArray
  try dsimp only
  repeat' with_reducible first | assumption | refine put_timed ?_ _ _ (by simp only [timedReg, F.COMPUTE_ARRAY_ABORTED, F.COMPUTE_ARRAY_BARGE_INDEX, F.COMPUTE_ARRAY_BUSY, F.COMPUTE_ARRAY_CONTEXT, R.COMPUTE_ARRAY, R.COMPUTE_TASKS_DONE, R.COMPUTE_TASKS_TOTAL] <;> omega) | refine status_off_timed ?_ _ rfl (by decide) rfl | refine off_timed ?_ _ (by simp only [timedReg, F.COMPUTE_ARRAY_ABORTED, F.COMPUTE_ARRAY_BARGE_INDEX, F.COMPUTE_ARRAY_BUSY, F.COMPUTE_ARRAY_CONTEXT, R.COMPUTE_ARRAY, R.COMPUTE_TASKS_DONE, R.COMPUTE_TASKS_TOTAL] <;> omega) | refine status_on_timed ?_ _ rfl (by decide) rfl | refine event_bit_timed ?_ _ rfl rfl | refine on_timed ?_ _ (by simp only [timedReg, F.COMPUTE_ARRAY_ABORTED, F.COMPUTE_ARRAY_BARGE_INDEX, F.COMPUTE_ARRAY_BUSY, F.COMPUTE_ARRAY_CONTEXT, R.COMPUTE_ARRAY, R.COMPUTE_TASKS_DONE, R.COMPUTE_TASKS_TOTAL] <;> omega) | refine setReg_timed ?_ _ _ (by simp only [timedReg, F.COMPUTE_ARRAY_ABORTED, F.COMPUTE_ARRAY_BARGE_INDEX, F.COMPUTE_ARRAY_BUSY, F.COMPUTE_ARRAY_CONTEXT, R.COMPUTE_ARRAY, R.COMPUTE_TASKS_DONE, R.COMPUTE_TASKS_TOTAL] <;> omega) | apply showEngines_timed | apply tryFinish_timed | apply dealOut_timed | apply timedFold | split | intro _ | refine timed_mk _ _ ?_

theorem showVector_timed {r s : State} (h : Timed r s) (b : Barge) (stage : Nat) :
    Timed r (State.showVector s b stage) := by
  unfold State.showVector
  try dsimp only
  repeat' with_reducible first | assumption | refine put_timed ?_ _ _ (by simp only [timedReg, F.VECTOR_STATUS_BARGE_INDEX, F.VECTOR_STATUS_BUSY, F.VECTOR_STATUS_CONTEXT, F.VECTOR_STATUS_STAGE, R.VECTOR_STATUS] <;> omega) | refine status_on_timed ?_ _ rfl (by decide) rfl | refine event_bit_timed ?_ _ rfl rfl | refine on_timed ?_ _ (by simp only [timedReg, F.VECTOR_STATUS_BARGE_INDEX, F.VECTOR_STATUS_BUSY, F.VECTOR_STATUS_CONTEXT, F.VECTOR_STATUS_STAGE, R.VECTOR_STATUS] <;> omega)

theorem startVector_timed {r s : State} (h : Timed r s) (i : Nat) (b : Barge) (regions : List (Nat × Nat)) (stage : Nat) :
    Timed r (State.startVector s i b regions stage) := by
  unfold State.startVector
  try dsimp only
  repeat' with_reducible first | assumption | apply reading_timed | apply startArray_timed | apply showVector_timed | apply timedFold | split | intro _

theorem sendControl_timed {r s : State} (h : Timed r s) (p : Nat) (kind : Nat) (content : List Byte) :
    Timed r (State.sendControl s p kind content) := by
  unfold State.sendControl
  try dsimp only
  repeat' with_reducible first | assumption | apply sendFlit_timed

theorem setHold_timed {r s : State} (h : Timed r s) (c : Nat) (q : Nat) (h1 : Nat) :
    Timed r (State.setHold s c q h1) := by
  unfold State.setHold
  try dsimp only
  repeat' with_reducible first | assumption | apply updCtx_timed

theorem setLvl_timed {r s : State} (h : Timed r s) (c : Nat) (q : Nat) (l : Nat) :
    Timed r (State.setLvl s c q l) := by
  unfold State.setLvl
  try dsimp only
  repeat' with_reducible first | assumption | apply updCtx_timed

theorem narrow_timed {r s : State} (h : Timed r s) (c : Nat) (q : Nat) :
    Timed r (State.narrow s c q) := by
  unfold State.narrow
  try dsimp only
  repeat' with_reducible first | assumption | apply setHold_timed | refine count_timed ?_ _ _ (by simp only [timedReg, F.TRAIN_WIDEN_CTX_HOLD_STEPS, R.TRAIN_WIDEN_CTX, R.TRAIN_WIDEN_NARROWED] <;> omega) | apply setLvl_timed | apply event_timed | apply timedFold | split

theorem grantSlots_timed {r s : State} (h : Timed r s) (c : Nat) (qs : List Nat) : Timed r (s.grantSlots c qs) := by
  induction qs generalizing s with
  | nil => exact h
  | cons q qs ih =>
    unfold State.grantSlots
    dsimp only
    repeat' with_reducible first
      | assumption | apply ih | apply event_timed | refine count_timed ?_ _ _ (by simp only [timedReg, R.TRAIN_WIDEN_EXHAUSTED, R.TRAIN_WIDEN_UNFIT, R.TRAIN_WIDEN_GRANTS] <;> omega) | apply setHold_timed | apply setLvl_timed | split

theorem grant_timed {r s : State} (h : Timed r s) (c : Nat) :
    Timed r (State.grant s c) := by
  unfold State.grant
  try dsimp only
  repeat' with_reducible first | assumption | apply narrow_timed | apply grantSlots_timed | apply timedFold | split | intro _

theorem widenAt_timed {r s : State} (h : Timed r s) (c : Nat) :
    Timed r (State.widenAt s c) := by
  unfold State.widenAt
  try dsimp only
  repeat' with_reducible first | assumption | apply updCtx_timed | apply showWiden_timed | apply grant_timed | apply timedFold | split

theorem clearStep_timed {r s : State} (h : Timed r s) (c : Nat) :
    Timed r (State.clearStep s c) := by
  unfold State.clearStep
  try dsimp only
  repeat' with_reducible first | assumption | apply updCtx_timed | refine status_off_timed ?_ _ rfl (by decide) rfl | refine off_timed ?_ _ (by simp only [timedReg, F.TRAIN_CTX_STATUS_NONFINITE, F.TRAIN_CTX_STATUS_STASH_FAULT, F.TRAIN_CTX_STATUS_UPD_FAULT, F.TRAIN_CTX_STATUS_UPD_NONFINITE, R.TRAIN_CTX_STATUS] <;> omega)

theorem clearSuspect_timed {r s : State} (h : Timed r s) (c : Nat) :
    Timed r (State.clearSuspect s c) := by
  unfold State.clearSuspect
  try dsimp only
  repeat' with_reducible first | assumption | apply nameSuspect_timed | refine setBit_timed ?_ _ _ _ (by simp only [timedReg, F.LK_REPLAY_ACTIVE, F.LK_REPLAY_CLEARED, F.LK_REPLAY_CONTEXT, F.LK_REPLAY_PENDING, R.LK_REPLAY] <;> omega) | apply timedFold | split

theorem boundary_timed {r s : State} (h : Timed r s) (c : Nat) (n : Nat) :
    Timed r (State.boundary s c n) := by
  unfold State.boundary
  try dsimp only
  repeat' with_reducible first | assumption | apply widenAt_timed | refine setReg64_timed ?_ _ _ (by simp only [timedReg, F.LK_SNAP_GAP_G, F.LOCK_PERIOD_PERIOD_US, F.TRAIN_CTX_STATUS_IN_STEP, R.LK_SNAP_GAP, R.LOCK_PERIOD, R.TRAIN_CTX_STATUS, R.TRAIN_STEP] <;> omega) (by simp only [timedReg, F.LK_SNAP_GAP_G, F.LOCK_PERIOD_PERIOD_US, F.TRAIN_CTX_STATUS_IN_STEP, R.LK_SNAP_GAP, R.LOCK_PERIOD, R.TRAIN_CTX_STATUS, R.TRAIN_STEP] <;> omega) | apply updCtx_timed | apply setPhase_timed | refine status_off_timed ?_ _ rfl (by decide) rfl | refine off_timed ?_ _ (by simp only [timedReg, F.LK_SNAP_GAP_G, F.LOCK_PERIOD_PERIOD_US, F.TRAIN_CTX_STATUS_IN_STEP, R.LK_SNAP_GAP, R.LOCK_PERIOD, R.TRAIN_CTX_STATUS, R.TRAIN_STEP] <;> omega) | apply clearStep_timed | apply clearSuspect_timed

theorem unfeed_timed {r s : State} (h : Timed r s) (c : Nat) :
    Timed r (State.unfeed s c) := by
  unfold State.unfeed
  try dsimp only
  repeat' with_reducible first | assumption | apply timedFold | split | intro _ | refine timed_mk _ _ ?_

theorem discardFeed_timed {r s : State} (h : Timed r s) (c : Nat) :
    Timed r (State.discardFeed s c) := by
  unfold State.discardFeed
  try dsimp only
  repeat' with_reducible first | assumption | refine count_timed ?_ _ _ (by simp only [timedReg, R.SCALE_CSTAT_DISCARD] <;> omega) | apply unfeed_timed

theorem clearAmax_timed {r s : State} (h : Timed r s) (c : Nat) :
    Timed r (State.clearAmax s c) := by
  unfold State.clearAmax
  try dsimp only
  repeat' with_reducible first | assumption | apply setScale_timed | apply timedFold | split | intro _

theorem showVerdicts_timed {r s : State} (h : Timed r s) :
    Timed r (State.showVerdicts s) := by
  unfold State.showVerdicts
  try dsimp only
  repeat' with_reducible first | assumption | refine setReg_timed ?_ _ _ (by simp only [timedReg, F.TRAIN_VERDICT_SEL_CONTEXT, R.TRAIN_CVERDICT, R.TRAIN_VERDICT, R.TRAIN_VERDICT_SEL] <;> omega) | apply timedFold | split | intro _

theorem clearDrops_timed {r s : State} (h : Timed r s) (c : Nat) :
    Timed r (State.clearDrops s c) := by
  unfold State.clearDrops
  try dsimp only
  repeat' with_reducible first | assumption | apply event_timed | apply updCtx_timed | apply timedFold | split

theorem closePass_timed {r s : State} (h : Timed r s) (b : Barge) (n : Nat) :
    Timed r (State.closePass s b n) := by
  unfold State.closePass
  try dsimp only
  repeat' with_reducible first | assumption | apply writeAt_timed | refine count_timed ?_ _ _ (by simp only [timedReg, R.VECTOR_CMP_DROP] <;> omega) | apply event_timed | apply timedFold | split | intro _ | refine timed_mk _ _ ?_

theorem defer_timed {r s : State} (h : Timed r s) (kind : Nat) (unit : Nat) (src : BitVec 16) :
    Timed r (State.defer s kind unit src) := by
  unfold State.defer
  try dsimp only
  repeat' with_reducible first | assumption | apply event_timed | refine status_on_timed ?_ _ rfl (by decide) rfl | refine event_bit_timed ?_ _ rfl rfl

theorem eqTask_timed {r s : State} (h : Timed r s) :
    Timed r (State.eqTask s) := by
  unfold State.eqTask
  try dsimp only
  repeat' with_reducible first | assumption | apply defer_timed | apply updPort_timed | apply draw_timed | refine draw_timed_pair ?_ ‹_› | apply sendControl_timed | apply timedFold | split | intro _ | refine timed_mk _ _ ?_

theorem scrubSector_timed {r s : State} (h : Timed r s) (n : Nat) :
    Timed r (State.scrubSector s n).1 := by
  unfold State.scrubSector
  try dsimp only
  repeat' with_reducible first | assumption | apply readSector_timed | refine readSector_timed_pair ?_ ‹_› | refine count_timed ?_ _ _ (by simp only [timedReg, R.HEALTH_SCRUB_FIXED, R.MEM_RMW] <;> omega) | apply setSector_timed | apply uncorrectable_timed | apply timedFold | split

theorem scrubSector_timed_pair {r s : State} (h : Timed r s) (n : Nat) {x y} (e : State.scrubSector s n = (x, y)) : Timed r x := by
  have k := scrubSector_timed h n
  rwa [e] at k

theorem scrubBurst_timed {r s : State} (h : Timed r s) :
    Timed r (State.scrubBurst s) := by
  unfold State.scrubBurst
  try dsimp only
  repeat' with_reducible first | assumption | apply scrubSector_timed | refine scrubSector_timed_pair ?_ ‹_› | refine count_timed ?_ _ _ (by simp only [timedReg, F.HEALTH_SCRUB_ROW_ROW, F.MEM_STATUS_ENABLED, R.HEALTH_SCRUB_PASSES, R.HEALTH_SCRUB_ROW, R.MEM_STATUS] <;> omega) | refine put_timed ?_ _ _ (by simp only [timedReg, F.HEALTH_SCRUB_ROW_ROW, F.MEM_STATUS_ENABLED, R.HEALTH_SCRUB_PASSES, R.HEALTH_SCRUB_ROW, R.MEM_STATUS] <;> omega) | apply timedFold | split | intro _

theorem scrubTask_timed {r s : State} (h : Timed r s) :
    Timed r (State.scrubTask s) := by
  unfold State.scrubTask
  try dsimp only
  repeat' with_reducible first | assumption | apply scrubBurst_timed | apply defer_timed | apply timedFold | split

theorem retrainTask_timed {r s : State} (h : Timed r s) :
    Timed r (State.retrainTask s) := by
  unfold State.retrainTask
  try dsimp only
  repeat' with_reducible first | assumption | apply scrubTask_timed | refine put_timed ?_ _ _ (by simp only [timedReg, F.MEM_RETRAIN_ACTIVE, F.MEM_RETRAIN_CHANNEL, F.MEM_RETRAIN_PHASE, R.MEM_RETRAIN] <;> omega) | refine status_on_timed ?_ _ rfl (by decide) rfl | refine event_bit_timed ?_ _ rfl rfl | refine on_timed ?_ _ (by simp only [timedReg, F.MEM_RETRAIN_ACTIVE, F.MEM_RETRAIN_CHANNEL, F.MEM_RETRAIN_PHASE, R.MEM_RETRAIN] <;> omega) | apply defer_timed | apply timedFold | split | intro _ | refine timed_mk _ _ ?_

theorem closeWindow_timed {r s : State} (h : Timed r s) :
    Timed r (State.closeWindow s) := by
  unfold State.closeWindow
  try dsimp only
  repeat' with_reducible first | assumption | apply at'_timed | apply overrun_timed | apply eqTask_timed | apply retrainTask_timed | apply timedFold | split | intro _ | refine timed_mk _ _ ?_

theorem coSendAll_timed {r s : State} (h : Timed r s) (b : Barge) :
    Timed r (State.coSendAll s b) := by
  unfold State.coSendAll
  try dsimp only
  repeat' with_reducible first | assumption | apply sendTo_timed | apply timedFold | split | intro _

theorem placeStaged_timed {r s : State} (h : Timed r s) (b : Barge) :
    Timed r (State.placeStaged s b) := by
  unfold State.placeStaged
  try dsimp only
  repeat' with_reducible first | assumption | apply ackPut_timed | apply timedFold | split | intro _ | refine timed_mk _ _ ?_

theorem collective_timed {r s : State} (h : Timed r s) (i : Nat) (op : Nat) :
    ∀ t, State.collective s i op = .next t → Timed r t := by
  unfold State.collective
  intro t ht
  refine begin_timed h _ _ _ (fun b u hu => ?_) t ht
  try dsimp only
  repeat' with_reducible first | assumption | apply reading_timed | apply progress_timed | apply coSendAll_timed | apply placeStaged_timed | apply timedFold | split | intro _

theorem compareVerify_timed {r s : State} (h : Timed r s) (c : Nat) (p : BitVec 512) :
    Timed r (State.compareVerify s c p) := by
  unfold State.compareVerify
  try dsimp only
  repeat' with_reducible first | assumption | apply event_timed | refine status_on_timed ?_ _ rfl (by decide) rfl | refine event_bit_timed ?_ _ rfl rfl | refine on_timed ?_ _ (by simp only [timedReg, F.LK_SNAP_VERIFY_ARMED, F.LK_SNAP_VERIFY_MISMATCH, F.LK_SNAP_VERIFY_VERIFIED, R.LK_SNAP_VERIFY] <;> omega) | refine status_off_timed ?_ _ rfl (by decide) rfl | refine off_timed ?_ _ (by simp only [timedReg, F.LK_SNAP_VERIFY_ARMED, F.LK_SNAP_VERIFY_MISMATCH, F.LK_SNAP_VERIFY_VERIFIED, R.LK_SNAP_VERIFY] <;> omega) | apply abortSteps_timed | apply timedFold | split

theorem copyRows_timed {r s : State} (h : Timed r s) (d : BitVec 1024) (rows : Nat) :
    Timed r (State.copyRows s d rows) := by
  unfold State.copyRows
  try dsimp only
  repeat' with_reducible first | assumption | apply writeAt_timed | apply timedFold | split | intro _

theorem countPass_timed {r s : State} (h : Timed r s) (d : BitVec 1024) (t1 : Nat) :
    Timed r (State.countPass s d t1) := by
  unfold State.countPass
  try dsimp only
  repeat' with_reducible first | assumption | apply timedFold | split | intro _ | refine timed_mk _ _ ?_

theorem declineGroup_timed {r s : State} (h : Timed r s) (c : Nat) (g : Nat) :
    Timed r (State.declineGroup s c g) := by
  unfold State.declineGroup
  try dsimp only
  repeat' with_reducible first | assumption | apply updCtx_timed | apply complete_timed | apply event_timed | apply timedFold | split

theorem delayRun_timed {r s : State} (h : Timed r s) (c : Nat) (r1 : Run) (n : Nat) :
    Timed r (State.delayRun s c r1 n) := by
  unfold State.delayRun
  try dsimp only
  repeat' with_reducible first | assumption | apply updCtx_timed

theorem drainArray_timed {r s : State} (h : Timed r s) (f : State → List Byte × State)
    (hf : ∀ t, Timed r t → Timed r (f t).2) : Timed r (s.drainArray f).2 := by
  unfold State.drainArray
  split
  · exact hf s h
  · exact updBarge_timed (dropArray_timed (hf _ (forceDrains_timed h _)) _) _ _

theorem noteTask_timed {r s : State} (h : Timed r s) (f : Frame) (j : AttJob) (e : Nat) (t1 : Nat) (work : List (List TileResult)) :
    Timed r (State.noteTask s f j e t1 work) := by
  unfold State.noteTask
  try dsimp only
  repeat' with_reducible first | assumption | refine count_timed ?_ _ _ (by simp only [timedReg, R.ATTN_P_ZERO, R.ATTN_TILES_DONE, R.ATTN_TILES_SKIPPED, R.COMPUTE_STICKY_GROUPS] <;> omega) | apply raiseNonfinite_timed | apply timedFold | split

theorem writeOutputs_timed {r s : State} (h : Timed r s) (f : Frame) (b : BitVec 1024) (c : Nat) (rot : Bool) (ls : Lines) (get : Ix → OutPos) :
    Timed r (State.writeOutputs s f b c rot ls get) := by
  unfold State.writeOutputs
  try dsimp only
  repeat' with_reducible first | assumption | apply writeTensor_timed | apply timedFold | split

theorem writeRows_timed {r s : State} (h : Timed r s) (f : Frame) (j : AttJob) (h1 : Nat) (tq : Nat) (get : Ix → BitVec 32) :
    Timed r (State.writeRows s f j h1 tq get) := by
  unfold State.writeRows
  try dsimp only
  repeat' with_reducible first | assumption | apply writeOutputs_timed | apply raiseNonfinite_timed | apply timedFold | split

theorem writePlain_timed {r s : State} (h : Timed r s) (t1 : Target) (ls : Lines) (get : Ix → OutPos) :
    Timed r (State.writePlain s t1 ls get) := by
  unfold State.writePlain
  try dsimp only
  repeat' with_reducible first | assumption | apply write_timed

theorem writeLse_timed {r s : State} (h : Timed r s) (f : Frame) (j : AttJob) (h1 : Nat) (tq : Nat) (lse : Nat → BitVec 32) :
    Timed r (State.writeLse s f j h1 tq lse) := by
  unfold State.writeLse
  try dsimp only
  repeat' with_reducible first | assumption | apply writePlain_timed

theorem writeStates_timed {r s : State} (h : Timed r s) (f : Frame) (j : AttJob) (h1 : Nat) (tq : Nat) (sts : List RowState) :
    Timed r (State.writeStates s f j h1 tq sts) := by
  unfold State.writeStates
  try dsimp only
  repeat' with_reducible first | assumption | apply writeRows_timed | apply writeLse_timed | refine count_timed ?_ _ _ (by simp only [timedReg, R.ATTN_INF_ROWS, R.ATTN_MASKED_ROWS, R.ATTN_NAN_ROWS] <;> omega) | apply timedFold | split | intro _ | refine timed_mk _ _ ?_

theorem freeTile_timed {r s : State} (h : Timed r s) (b : Barge) (t1 : Nat) :
    Timed r (State.freeTile s b t1) := by
  unfold State.freeTile
  try dsimp only
  repeat' with_reducible first | assumption | apply timedFold | split | intro _ | refine timed_mk _ _ ?_

theorem drainForward_timed {r s : State} (h : Timed r s) (b : Barge) (e : Nat) (t1 : Nat) :
    Timed r (State.drainForward s b e t1) := by
  unfold State.drainForward
  try dsimp only
  repeat' with_reducible first | assumption | apply noteTask_timed | apply writeStates_timed | apply freeTile_timed | apply timedFold | split | intro _ | refine timed_mk _ _ ?_

theorem drainPartial_timed {r s : State} (h : Timed r s) (b : Barge) (e : Nat) (t1 : Nat) :
    Timed r (State.drainPartial s b e t1) := by
  unfold State.drainPartial
  try dsimp only
  repeat' with_reducible first | assumption | apply writeAt_timed | apply noteTask_timed | apply timedFold | split | intro _

theorem drainJoin_timed {r s : State} (h : Timed r s) (b : Barge) (t1 : Nat) :
    Timed r (State.drainJoin s b t1) := by
  unfold State.drainJoin
  try dsimp only
  repeat' with_reducible first | assumption | apply writeStates_timed

theorem drainBackward_timed {r s : State} (h : Timed r s) (b : Barge) (e : Nat) (t1 : Nat) :
    Timed r (State.drainBackward s b e t1) := by
  unfold State.drainBackward
  try dsimp only
  repeat' with_reducible first | assumption | refine count_timed ?_ _ _ (by simp only [timedReg, F.COMPUTE_TASKS_TOTAL_COUNT, R.ATTN_TILES_DONE, R.ATTN_TILES_SKIPPED, R.COMPUTE_TASKS_TOTAL] <;> omega) | apply backward_timed | apply timedFold | split

theorem drainRope_timed {r s : State} (h : Timed r s) (b : Barge) (t1 : Nat) :
    Timed r (State.drainRope s b t1) := by
  unfold State.drainRope
  try dsimp only
  repeat' with_reducible first | assumption | apply writeRows_timed

theorem drainAttention_timed {r s : State} (h : Timed r s) (b : Barge) (e : Nat) (t1 : Nat) :
    Timed r (State.drainAttention s b e t1) := by
  unfold State.drainAttention
  try dsimp only
  repeat' with_reducible first | assumption | apply drainForward_timed | apply drainPartial_timed | apply drainJoin_timed | apply drainBackward_timed | apply drainRope_timed | apply timedFold | split

theorem drainTile_timed {r s : State} (h : Timed r s) (f : Frame) (d : BitVec 1024) (p : Product) (t1 : Tile) :
    Timed r (State.drainTile s f d p t1) := by
  unfold State.drainTile
  try dsimp only
  repeat' with_reducible first | assumption | apply writeOutputs_timed | refine count_timed ?_ _ _ (by simp only [timedReg, R.FORMAT_NONFINITE_OUT] <;> omega) | apply raiseNonfinite_timed | apply timedFold | split

theorem drainProduct_timed {r s : State} (h : Timed r s) (b : Barge) (key : Nat) (t1 : Nat) :
    Timed r (State.drainProduct s b key t1) := by
  unfold State.drainProduct
  try dsimp only
  repeat' with_reducible first | assumption | apply promoteTo_timed | apply drainTile_timed | apply freeTile_timed | apply timedFold | split | intro _ | refine timed_mk _ _ ?_

theorem mapTask_timed {r s : State} (h : Timed r s) (f : Frame) (d : BitVec 1024) (kid : Nat) (t1 : Nat) :
    Timed r (State.mapTask s f d kid t1) := by
  unfold State.mapTask
  try dsimp only
  repeat' with_reducible first | assumption | apply writeOutputs_timed | apply raiseNonfinite_timed | apply timedFold | split

theorem noteReduction_timed {r s : State} (h : Timed r s) (f : Frame) (empty : Nat) (bad : Nat) :
    Timed r (State.noteReduction s f empty bad) := by
  unfold State.noteReduction
  try dsimp only
  repeat' with_reducible first | assumption | refine count_timed ?_ _ _ (by simp only [timedReg, R.VECTOR_EMPTY_ROWS, R.VECTOR_NONFINITE_RES] <;> omega) | apply raiseNonfinite_timed | apply timedFold | split

theorem noteRows_timed {r s : State} (h : Timed r s) (f : Frame) (rs : List RedResult) :
    Timed r (State.noteRows s f rs) := by
  unfold State.noteRows
  try dsimp only
  repeat' with_reducible first | assumption | apply noteReduction_timed

theorem rowStage_timed {r s : State} (h : Timed r s) (f : Frame) (d : BitVec 1024) (kid : Nat) (code : Nat) (final : Bool) (rs : List Nat) :
    Timed r (State.rowStage s f d kid code final rs) := by
  unfold State.rowStage
  try dsimp only
  repeat' with_reducible first | assumption | apply noteRows_timed | apply writeAt_timed | apply timedFold | split | intro _ | refine timed_mk _ _ ?_

theorem reduceRows_timed {r s : State} (h : Timed r s) (f : Frame) (d : BitVec 1024) (rs : List Nat) :
    Timed r (State.reduceRows s f d rs) := by
  unfold State.reduceRows
  try dsimp only
  repeat' with_reducible first | assumption | apply noteReduction_timed | apply writeAt_timed | apply noteRows_timed | apply timedFold | split | intro _

theorem listPass_timed {r s : State} (h : Timed r s) (d : BitVec 1024) (t1 : Nat) :
    Timed r (State.listPass s d t1) := by
  unfold State.listPass
  try dsimp only
  repeat' with_reducible first | assumption | apply writeAt_timed | apply timedFold | split | intro _

theorem expandTask_timed {r s : State} (h : Timed r s) (b : Barge) (t1 : Nat) :
    Timed r (State.expandTask s b t1) := by
  unfold State.expandTask
  try dsimp only
  repeat' with_reducible first | assumption | apply writeAt_timed | apply event_timed | refine count_timed ?_ _ _ (by simp only [timedReg, R.VECTOR_EXPAND_OOR] <;> omega) | apply timedFold | split

theorem rotateTask_timed {r s : State} (h : Timed r s) (f : Frame) (d : BitVec 1024) (inverse : Bool) (t1 : Nat) :
    Timed r (State.rotateTask s f d inverse t1) := by
  unfold State.rotateTask
  try dsimp only
  repeat' with_reducible first | assumption | apply writeOutputs_timed

theorem drainVector_timed {r s : State} (h : Timed r s) (b : Barge) (t1 : Nat) :
    Timed r (State.drainVector s b t1) := by
  unfold State.drainVector
  try dsimp only
  repeat' with_reducible first | assumption | apply mapTask_timed | apply rowStage_timed | apply reduceRows_timed | apply countPass_timed | apply listPass_timed | apply expandTask_timed | apply rotateTask_timed | apply timedFold | split

theorem drainTask_timed {r s : State} (h : Timed r s) (b : Barge) (key : Nat) (t1 : Nat) :
    Timed r (State.drainTask s b key t1) := by
  unfold State.drainTask
  try dsimp only
  repeat' with_reducible first | assumption | apply drainProduct_timed | apply drainAttention_timed | apply drainVector_timed | apply timedFold | split

theorem draws_timed {r s : State} (h : Timed r s) (n : Nat) : Timed r (s.draws n).2 := by
  induction n generalizing s with
  | zero => exact h
  | succ n ih =>
    unfold State.draws
    exact ih (draw_timed h)

theorem draws_timed_pair {r s : State} (h : Timed r s) (n : Nat) {x y} (e : State.draws s n = (x, y)) : Timed r y := by
  have k := draws_timed h n
  rwa [e] at k

theorem emptyDrain_timed {r s : State} (h : Timed r s) (e slot n : Nat) : Timed r (s.emptyDrain e slot n).2 :=
  draws_timed h _

theorem noteLimit_timed {r s : State} (h : Timed r s) (c : Nat) (idx : Nat) (fmt : Nat) (x : ℤ) :
    Timed r (State.noteLimit s c idx fmt x) := by
  unfold State.noteLimit
  try dsimp only
  repeat' with_reducible first | assumption | apply event_timed | refine count_timed ?_ _ _ (by simp only [timedReg, R.SCALE_CLAMP_COUNT] <;> omega) | apply timedFold | split

theorem rescale_timed {r s : State} (h : Timed r s) (c : Nat) (idx : Nat) :
    Timed r (State.rescale s c idx) := by
  unfold State.rescale
  try dsimp only
  repeat' with_reducible first | assumption | apply setScale_timed | apply noteLimit_timed | apply timedFold | split

theorem writeHistory_timed {r s : State} (h : Timed r s) (c : Nat) (st : Nat) (idx : Nat) :
    Timed r (State.writeHistory s c st idx) := by
  unfold State.writeHistory
  try dsimp only
  repeat' with_reducible first | assumption | apply rescale_timed | apply setScale_timed | apply timedFold | split

theorem scaleWork_timed {r s : State} (h : Timed r s) (c : Nat) (st : Nat) :
    Timed r (State.scaleWork s c st) := by
  unfold State.scaleWork
  try dsimp only
  repeat' with_reducible first | assumption | apply writeHistory_timed | apply showHistory_timed | refine setReg64_timed ?_ _ _ (by simp only [timedReg, R.SCALE_LAST_STEP] <;> omega) (by simp only [timedReg, R.SCALE_LAST_STEP] <;> omega) | apply timedFold | split | intro _

theorem stopCtx_timed {r s : State} (h : Timed r s) (c : Nat) :
    Timed r (State.stopCtx s c) := by
  unfold State.stopCtx
  try dsimp only
  repeat' with_reducible first | assumption | apply updCtx_timed | apply setCtxState_timed | apply setPhase_timed | refine status_on_timed ?_ _ rfl (by decide) rfl | refine event_bit_timed ?_ _ rfl rfl | refine on_timed ?_ _ (by simp only [timedReg, F.TRAIN_CTX_STATUS_STOPPED, R.TRAIN_CTX_STATUS] <;> omega)

theorem nextRun_timed {r s : State} (h : Timed r s) (c : Nat) (n : Nat) :
    Timed r (State.nextRun s c n) := by
  unfold State.nextRun
  try dsimp only
  repeat' with_reducible first | assumption | apply updCtx_timed | apply stopCtx_timed | apply timedFold | split

theorem flip_timed {r s : State} (h : Timed r s) (c : Nat) (n : Nat) :
    Timed r (State.flip s c n) := by
  unfold State.flip
  try dsimp only
  repeat' with_reducible first | assumption | refine status_off_timed ?_ _ rfl (by decide) rfl | refine off_timed ?_ _ (by simp only [timedReg, F.TRAIN_ARENA_IN_FORCE, F.TRAIN_ARENA_PENDING, F.TRAIN_CTX_STATUS_SKIP_RUN, R.TRAIN_ARENA, R.TRAIN_COMMITS, R.TRAIN_CTX_STATUS] <;> omega) | refine put_timed ?_ _ _ (by simp only [timedReg, F.TRAIN_ARENA_IN_FORCE, F.TRAIN_ARENA_PENDING, F.TRAIN_CTX_STATUS_SKIP_RUN, R.TRAIN_ARENA, R.TRAIN_COMMITS, R.TRAIN_CTX_STATUS] <;> omega) | refine count_timed ?_ _ _ (by simp only [timedReg, F.TRAIN_ARENA_IN_FORCE, F.TRAIN_ARENA_PENDING, F.TRAIN_CTX_STATUS_SKIP_RUN, R.TRAIN_ARENA, R.TRAIN_COMMITS, R.TRAIN_CTX_STATUS] <;> omega) | apply updCtx_timed | apply boundary_timed | apply scaleWork_timed | apply setPhase_timed | apply nextRun_timed | apply timedFold | split

theorem evalEnd_timed {r s : State} (h : Timed r s) (c : Nat) (n : Nat) :
    Timed r (State.evalEnd s c n) := by
  unfold State.evalEnd
  try dsimp only
  repeat' with_reducible first | assumption | refine status_off_timed ?_ _ rfl (by decide) rfl | refine off_timed ?_ _ (by simp only [timedReg, F.TRAIN_CTX_STATUS_EVAL, R.TRAIN_CTX_STATUS] <;> omega) | apply clearSuspect_timed | apply updCtx_timed | apply stopCtx_timed | apply setCtxState_timed | apply timedFold | split

theorem startCapture_timed {r s : State} (h : Timed r s) (c : Nat) :
    Timed r (State.startCapture s c) := by
  unfold State.startCapture
  try dsimp only
  repeat' with_reducible first | assumption | apply updCtx_timed | apply event_timed | apply dropExport_timed | apply setSlot_timed | apply writeAt_timed | apply setCtx_timed | apply timedFold | split

theorem skipEnd_timed {r s : State} (h : Timed r s) (c : Nat) (n : Nat) :
    Timed r (State.skipEnd s c n) := by
  unfold State.skipEnd
  try dsimp only
  repeat' with_reducible first | assumption | refine countField_timed ?_ _ (by simp only [timedReg, F.TRAIN_CTX_CFG_SKIP_LIMIT, F.TRAIN_CTX_STATUS_SKIP_RUN, R.TRAIN_CTX_CFG, R.TRAIN_CTX_STATUS, R.TRAIN_SKIPPED] <;> omega) | refine count_timed ?_ _ _ (by simp only [timedReg, F.TRAIN_CTX_CFG_SKIP_LIMIT, F.TRAIN_CTX_STATUS_SKIP_RUN, R.TRAIN_CTX_CFG, R.TRAIN_CTX_STATUS, R.TRAIN_SKIPPED] <;> omega) | apply event_timed | apply boundary_timed | apply clearAmax_timed | apply discardFeed_timed | apply startCapture_timed | apply stopCtx_timed | apply complete_timed | apply nextRun_timed | apply timedFold | split

theorem endRun_timed {r s : State} (h : Timed r s) (c : Nat) (n : Nat) :
    Timed r (State.endRun s c n) := by
  unfold State.endRun
  try dsimp only
  repeat' with_reducible first | assumption | apply flip_timed | apply evalEnd_timed | apply skipEnd_timed | apply timedFold | split

theorem expireCapture_timed {r s : State} (h : Timed r s) (c : Nat) (n : Nat) :
    Timed r (State.expireCapture s c n) := by
  unfold State.expireCapture
  try dsimp only
  repeat' with_reducible first | assumption | apply abandonCapture_timed | apply timedFold | split

theorem failCommit_timed {r s : State} (h : Timed r s) (c : Nat) (v : BitVec 256) (skip : Bool) :
    Timed r (State.failCommit s c v skip) := by
  unfold State.failCommit
  try dsimp only
  repeat' with_reducible first | assumption | apply event_timed | refine count_timed ?_ _ _ (by simp only [timedReg, R.TRAIN_COMMIT_FAIL] <;> omega) | apply timedFold | split

theorem passCommit_timed {r s : State} (h : Timed r s) (c : Nat) :
    Timed r (State.passCommit s c) := by
  unfold State.passCommit
  try dsimp only
  repeat' with_reducible first | assumption | refine status_on_timed ?_ _ rfl (by decide) rfl | refine event_bit_timed ?_ _ rfl rfl | refine on_timed ?_ _ (by simp only [timedReg, F.TRAIN_ARENA_PENDING, R.TRAIN_ARENA, R.TRAIN_COMMIT, R.TRAIN_STEP] <;> omega) | refine setReg64_timed ?_ _ _ (by simp only [timedReg, F.TRAIN_ARENA_PENDING, R.TRAIN_ARENA, R.TRAIN_COMMIT, R.TRAIN_STEP] <;> omega) (by simp only [timedReg, F.TRAIN_ARENA_PENDING, R.TRAIN_ARENA, R.TRAIN_COMMIT, R.TRAIN_STEP] <;> omega) | apply updCtx_timed | apply setPhase_timed | apply timedFold | split

theorem lateCommit_timed {r s : State} (h : Timed r s) (c : Nat) (v : BitVec 256) :
    Timed r (State.lateCommit s c v) := by
  unfold State.lateCommit
  try dsimp only
  repeat' with_reducible first | assumption | apply passCommit_timed | apply showVerdicts_timed | apply updCtx_timed | apply timedFold | split

theorem pulse_timed {r s : State} (h : Timed r s) :
    Timed r (State.pulse s) := by
  unfold State.pulse
  try dsimp only
  repeat' with_reducible first | assumption | apply emit_timed | apply timedFold | split | intro _ | refine timed_mk _ _ ?_

theorem tickDie_timed {r s : State} (h : Timed r s) (n : Nat) (d : Nat) :
    Timed r (State.tickDie s n d) := by
  unfold State.tickDie
  try dsimp only
  repeat' with_reducible first | assumption | refine put_timed ?_ _ _ (by simp only [timedReg, F.COMPUTE_DIE_STATUS_AVAILABLE, F.COMPUTE_DIE_STATUS_BELOW_GUARANTEE, F.COMPUTE_WITHHELD_ENGINE, F.COMPUTE_WITHHELD_VALID, R.COMPUTE_DIE_STATUS, R.COMPUTE_WITHHELD] <;> omega) | refine status_on_timed ?_ _ rfl (by decide) rfl | refine event_bit_timed ?_ _ rfl rfl | refine on_timed ?_ _ (by simp only [timedReg, F.COMPUTE_DIE_STATUS_AVAILABLE, F.COMPUTE_DIE_STATUS_BELOW_GUARANTEE, F.COMPUTE_WITHHELD_ENGINE, F.COMPUTE_WITHHELD_VALID, R.COMPUTE_DIE_STATUS, R.COMPUTE_WITHHELD] <;> omega) | apply showEngine_timed | apply timedFold | split | intro _ | refine timed_mk _ _ ?_

theorem tickEngines_timed {r s : State} (h : Timed r s) (n : Nat) :
    Timed r (State.tickEngines s n) := by
  unfold State.tickEngines
  try dsimp only
  repeat' with_reducible first | assumption | apply tickDie_timed | refine countField_timed ?_ _ (by simp only [timedReg, F.HEALTH_BIST_DIE_SWEEPS, F.LOCK_CTL_TEST_EN, R.HEALTH_BIST_DIE, R.LOCK_CTL] <;> omega) | apply timedFold | split | intro _ | refine timed_mk _ _ ?_

theorem stage_timed {r s : State} (h : Timed r s) (c : Nat) (k : PlanKind) (m : Manifest) :
    Timed r (State.stage s c k m) := by
  unfold State.stage
  try dsimp only
  repeat' with_reducible first | assumption | refine tick_timed ?_ _ (by simp only [timedReg, R.LK_PROGRESS] <;> omega) | apply timedFold | split | intro _ | refine timed_mk _ _ ?_

theorem stageAt_timed {r s : State} (h : Timed r s) (c : Nat) (n : Nat) (r1 : Run) :
    Timed r (State.stageAt s c n r1) := by
  unfold State.stageAt
  try dsimp only
  repeat' with_reducible first | assumption | apply stage_timed | apply updCtx_timed | apply timedFold | split

theorem startEval_timed {r s : State} (h : Timed r s) (c : Nat) :
    Timed r (State.startEval s c) := by
  unfold State.startEval
  try dsimp only
  repeat' with_reducible first | assumption | refine status_on_timed ?_ _ rfl (by decide) rfl | refine event_bit_timed ?_ _ rfl rfl | refine on_timed ?_ _ (by simp only [timedReg, F.TRAIN_CTX_STATUS_EVAL, R.TRAIN_CTX_STATUS, R.TRAIN_SEED] <;> omega) | apply updCtx_timed

theorem noteBootstrap_timed {r s : State} (h : Timed r s) (c : Nat) (k : PlanKind) :
    Timed r (State.noteBootstrap s c k) := by
  unfold State.noteBootstrap
  try dsimp only
  repeat' with_reducible first | assumption | apply event_timed | refine count_timed ?_ _ _ (by simp only [timedReg, R.SCALE_BOOTSTRAP_COUNT] <;> omega) | apply timedFold | split

theorem startStep_timed {r s : State} (h : Timed r s) (c : Nat) (k : PlanKind) :
    Timed r (State.startStep s c k) := by
  unfold State.startStep
  try dsimp only
  repeat' with_reducible first | assumption | apply updCtx_timed | apply clearAmax_timed | apply clearStep_timed | refine status_off_timed ?_ _ rfl (by decide) rfl | refine off_timed ?_ _ (by simp only [timedReg, F.LK_SNAP_VERIFY_RESTORED, F.SCALE_CSTAT_STATUS_AGREED, F.TRAIN_CTX_STATUS_IN_STEP, R.LK_SNAP_VERIFY, R.SCALE_CSTAT_STATUS, R.TRAIN_CTX_STATUS, R.TRAIN_SEED] <;> omega) | apply setPhase_timed | refine status_on_timed ?_ _ rfl (by decide) rfl | refine event_bit_timed ?_ _ rfl rfl | refine on_timed ?_ _ (by simp only [timedReg, F.LK_SNAP_VERIFY_RESTORED, F.SCALE_CSTAT_STATUS_AGREED, F.TRAIN_CTX_STATUS_IN_STEP, R.LK_SNAP_VERIFY, R.SCALE_CSTAT_STATUS, R.TRAIN_CTX_STATUS, R.TRAIN_SEED] <;> omega) | apply noteBootstrap_timed

theorem stageCtx_timed {r s : State} (h : Timed r s) (c : Nat) (n : Nat) :
    Timed r (State.stageCtx s c n) := by
  unfold State.stageCtx
  try dsimp only
  repeat' with_reducible first | assumption | apply delayRun_timed | apply stageAt_timed | apply startEval_timed | apply declineGroup_timed | apply startStep_timed | apply timedFold | split | intro _

theorem otherDrain_timed {r s : State} (h : Timed r s) (e slot task n : Nat) : Timed r (s.otherDrain e slot task n).2 :=
  draws_timed h _

theorem readDocs_timed {r s : State} (h : Timed r s) (f : Frame) (d : BitVec 1024) :
    Timed r (State.readDocs s f d).1 := by
  unfold State.readDocs
  try dsimp only
  repeat' with_reducible first | assumption | refine put_timed ?_ _ _ (by simp only [timedReg, F.ATTN_SLOT_CFG_LENGTH_T, F.ATTN_SLOT_DOCS_BAD, F.ATTN_SLOT_DOCS_DOCS, R.ATTN_BOUNDARY_BASE, R.ATTN_SLOT_CFG, R.ATTN_SLOT_DOCS, R.ATTN_TABLE_BAD] <;> omega) | apply event_timed | refine count_timed ?_ _ _ (by simp only [timedReg, F.ATTN_SLOT_CFG_LENGTH_T, F.ATTN_SLOT_DOCS_BAD, F.ATTN_SLOT_DOCS_DOCS, R.ATTN_BOUNDARY_BASE, R.ATTN_SLOT_CFG, R.ATTN_SLOT_DOCS, R.ATTN_TABLE_BAD] <;> omega) | apply raiseNonfinite_timed | apply timedFold | split

theorem readDocs_timed_pair {r s : State} (h : Timed r s) (f : Frame) (d : BitVec 1024) {x y} (e : State.readDocs s f d = (x, y)) : Timed r x := by
  have k := readDocs_timed h f d
  rwa [e] at k

theorem retire_timed {r s : State} (h : Timed r s) (e : Nat) (k : Nat) (t1 : Nat) :
    Timed r (State.retire s e k t1) := by
  unfold State.retire
  try dsimp only
  repeat' with_reducible first | assumption | refine count_timed ?_ _ _ (by simp only [timedReg, R.COMPUTE_TASKS_DONE] <;> omega) | apply showEngine_timed | apply timedFold | split | intro _ | refine timed_mk _ _ ?_

theorem writeMasters_timed {r s : State} (h : Timed r s) (f : Frame) (d : BitVec 1024) (xs : List (Nat × Byte)) :
    Timed r (State.writeMasters s f d xs) := by
  unfold State.writeMasters
  try dsimp only
  repeat' with_reducible first | assumption | apply writePlain_timed | apply write_timed | apply writeAt_timed

theorem writeMoment_timed {r s : State} (h : Timed r s) (f : Frame) (off : Nat) (vs : List (BitVec 32)) :
    Timed r (State.writeMoment s f off vs).1 := by
  unfold State.writeMoment
  try dsimp only
  repeat' with_reducible first | assumption | apply writeAt_timed

theorem writeMoment_timed_pair {r s : State} (h : Timed r s) (f : Frame) (off : Nat) (vs : List (BitVec 32)) {x y} (e : State.writeMoment s f off vs = (x, y)) : Timed r x := by
  have k := writeMoment_timed h f off vs
  rwa [e] at k

theorem updateAll_timed {r s : State} (h : Timed r s) (f : Frame) (d : BitVec 1024) (h1 : Hyper) :
    Timed r (State.updateAll s f d h1) := by
  unfold State.updateAll
  try dsimp only
  repeat' with_reducible first | assumption | apply writeMasters_timed | apply writeMoment_timed | refine writeMoment_timed_pair ?_ ‹_› | refine status_on_timed ?_ _ rfl (by decide) rfl | refine event_bit_timed ?_ _ rfl rfl | refine on_timed ?_ _ (by simp only [timedReg, F.TRAIN_CTX_STATUS_UPD_NONFINITE, R.TRAIN_CTX_STATUS] <;> omega) | apply timedFold | split

theorem runUpdate_timed {r s : State} (h : Timed r s) (f : Frame) (d : BitVec 1024) :
    Timed r (State.runUpdate s f d) := by
  unfold State.runUpdate
  try dsimp only
  repeat' with_reducible first | assumption | apply badHyper_timed | apply updateAll_timed | apply timedFold | split

theorem sendSched_timed {r s : State} (h : Timed r s) (payload : List Byte) :
    Timed r (State.sendSched s payload) := by
  unfold State.sendSched
  try dsimp only
  repeat' with_reducible first | assumption | apply queuePacket_timed | apply timedFold | split | intro _

theorem search_timed {r s : State} (h : Timed r s) (b : Barge) (e : Nat) (k : Nat) :
    Timed r (State.search s b e k) := by
  unfold State.search
  try dsimp only
  repeat' with_reducible first | assumption | apply stealFrom_timed | apply timedFold | split

theorem secondPass_timed {r s : State} (h : Timed r s) (b : Barge) :
    Timed r (State.secondPass s b) := by
  unfold State.secondPass
  try dsimp only
  repeat' with_reducible first | assumption | apply closePass_timed | refine put_timed ?_ _ _ (by simp only [timedReg, F.VECTOR_STATUS_STAGE, R.VECTOR_STATUS] <;> omega) | apply dealOut_timed | apply timedFold | split | intro _ | refine timed_mk _ _ ?_

theorem sendVerdict_timed {r s : State} (h : Timed r s) (b : Barge) (bs : List Byte) :
    Timed r (State.sendVerdict s b bs) := by
  unfold State.sendVerdict
  try dsimp only
  repeat' with_reducible first | assumption | apply sendTo_timed | apply timedFold | split | intro _

theorem sendVote_timed {r s : State} (h : Timed r s) (b : Barge) (rec : List Byte) :
    Timed r (State.sendVote s b rec) := by
  unfold State.sendVote
  try dsimp only
  repeat' with_reducible first | assumption | apply sendTo_timed

theorem showAttention_timed {r s : State} (h : Timed r s) (b : Barge) :
    Timed r (State.showAttention s b) := by
  unfold State.showAttention
  try dsimp only
  repeat' with_reducible first | assumption | refine put_timed ?_ _ _ (by simp only [timedReg, F.ATTN_STATUS_BARGE_INDEX, F.ATTN_STATUS_BUSY, F.ATTN_STATUS_CONTEXT, F.ATTN_STATUS_OP, R.ATTN_STATUS] <;> omega) | refine status_on_timed ?_ _ rfl (by decide) rfl | refine event_bit_timed ?_ _ rfl rfl | refine on_timed ?_ _ (by simp only [timedReg, F.ATTN_STATUS_BARGE_INDEX, F.ATTN_STATUS_BUSY, F.ATTN_STATUS_CONTEXT, F.ATTN_STATUS_OP, R.ATTN_STATUS] <;> omega)

theorem slotDrain_timed {r s : State} (h : Timed r s) (e slot : Nat) : Timed r (s.slotDrain e slot).2 := by
  unfold State.slotDrain
  dsimp only
  generalize noTotals = z
  split
  · split
    · exact h
    · split
      · exact otherDrain_timed h _ _ _ _
      · exact emptyDrain_timed h _ _ _
  · exact emptyDrain_timed h _ _ _

theorem slotDrain_timed_pair {r s : State} (h : Timed r s) (e slot : Nat) {x y} (k : State.slotDrain s e slot = (x, y)) :
    Timed r y := by
  have k' := slotDrain_timed h e slot
  rwa [k] at k'

theorem startAttention_timed {r s : State} (h : Timed r s) (i : Nat) (b : Barge) (regions : List (Nat × Nat)) :
    Timed r (State.startAttention s i b regions) := by
  unfold State.startAttention
  try dsimp only
  repeat' with_reducible first | assumption | apply reading_timed | apply readDocs_timed | refine readDocs_timed_pair ?_ ‹_› | apply startArray_timed | apply showAttention_timed | apply timedFold | split | intro _

theorem startMatrix_timed {r s : State} (h : Timed r s) (i : Nat) (b : Barge) :
    Timed r (State.startMatrix s i b) := by
  unfold State.startMatrix
  try dsimp only
  repeat' with_reducible first | assumption | apply reading_timed | apply startArray_timed | apply timedFold | split | intro _

theorem startUpdate_timed {r s : State} (h : Timed r s) (i : Nat) (b : Barge) {g : Frame → BitVec 1024 → State → State} (hg : ∀ a0 a1 t, Timed r t → Timed r (g a0 a1 t)) :
    Timed r (State.startUpdate s i b g) := by
  unfold State.startUpdate
  try dsimp only
  repeat' with_reducible first | assumption | apply hg | apply tryFinish_timed | apply touch_timed | refine touch_timed_pair ?_ ‹_› | refine status_on_timed ?_ _ rfl (by decide) rfl | refine event_bit_timed ?_ _ rfl rfl | refine on_timed ?_ _ (by simp only [timedReg, F.TRAIN_CTX_STATUS_UPD_FAULT, F.TRAIN_CTX_STATUS_VERDICT_SKIP, R.TRAIN_CTX_STATUS] <;> omega) | apply undefine_timed | apply timedFold | split

theorem startVote_timed {r s : State} (h : Timed r s) (b : Barge) :
    Timed r (State.startVote s b) := by
  unfold State.startVote
  try dsimp only
  repeat' with_reducible first | assumption | apply reading_timed | apply setPhase_timed | apply updCtx_timed | apply sendVote_timed | apply timedFold | split | intro _

theorem stashLoad_timed {r s : State} (h : Timed r s) (b : Barge) :
    Timed r (State.stashLoad s b) := by
  unfold State.stashLoad
  try dsimp only
  repeat' with_reducible first | assumption | apply writeAt_timed | apply touch_timed | refine touch_timed_pair ?_ ‹_› | apply event_timed | refine count_timed ?_ _ _ (by simp only [timedReg, F.TRAIN_CTX_STATUS_STASH_FAULT, R.TRAIN_CTX_STATUS, R.TRAIN_STASH_BAD] <;> omega) | refine status_on_timed ?_ _ rfl (by decide) rfl | refine event_bit_timed ?_ _ rfl rfl | refine on_timed ?_ _ (by simp only [timedReg, F.TRAIN_CTX_STATUS_STASH_FAULT, R.TRAIN_CTX_STATUS, R.TRAIN_STASH_BAD] <;> omega) | apply timedFold | split | intro _

theorem stashSave_timed {r s : State} (h : Timed r s) (b : Barge) :
    Timed r (State.stashSave s b) := by
  unfold State.stashSave
  try dsimp only
  repeat' with_reducible first | assumption | apply writeAt_timed | refine count_timed ?_ _ _ (by simp only [timedReg, R.TRAIN_STASH_IN, R.TRAIN_STASH_OUT] <;> omega)

theorem steal_timed {r s : State} (h : Timed r s) (e : Nat) :
    Timed r (State.steal s e) := by
  unfold State.steal
  try dsimp only
  repeat' with_reducible first | assumption | apply search_timed | apply timedFold | split

theorem storeVerdict_timed {r s : State} (h : Timed r s) (b : Barge) (bs : List Byte) :
    Timed r (State.storeVerdict s b bs) := by
  unfold State.storeVerdict
  try dsimp only
  repeat' with_reducible first | assumption | apply writeAt_timed | apply timedFold | split

theorem takeCommit_timed {r s : State} (h : Timed r s) (i : Nat) (b : Barge) (v : BitVec 256) :
    Timed r (State.takeCommit s i b v) := by
  unfold State.takeCommit
  try dsimp only
  repeat' with_reducible first | assumption | apply showVerdicts_timed | apply updCtx_timed | apply sendVerdict_timed | apply storeVerdict_timed | apply passCommit_timed | apply failCommit_timed | apply tryFinish_timed | apply timedFold | split

theorem writeVerify_timed {r s : State} (h : Timed r s) (c : Nat) (j : Nat) (p : BitVec 512) :
    Timed r (State.writeVerify s c j p) := by
  unfold State.writeVerify
  try dsimp only
  repeat' with_reducible first | assumption | apply writeAt_timed | apply timedFold | split

theorem takeVerdict_timed {r s : State} (h : Timed r s) (i : Nat) (b : Barge) (v : BitVec 2048) :
    Timed r (State.takeVerdict s i b v) := by
  unfold State.takeVerdict
  try dsimp only
  repeat' with_reducible first | assumption | apply showVerdicts_timed | apply updCtx_timed | apply sendVerdict_timed | apply storeVerdict_timed | apply setPhase_timed | refine put_timed ?_ _ _ (by simp only [timedReg, F.TRAIN_CTX_STATUS_VERDICT_SKIP, R.TRAIN_CTX_STATUS] <;> omega) | apply tryFinish_timed | apply event_timed | apply abortSteps_timed | apply compareVerify_timed | apply writeVerify_timed | apply timedFold | split

theorem testDrain_timed {r s : State} (h : Timed r s) (b : Barge) : Timed r (s.testDrain b) := by
  unfold State.testDrain
  dsimp only
  refine writeAt_timed (drainArray_timed h _ (fun t k => ?_)) _ _
  exact slotDrain_timed (slotDrain_timed k _ 0) _ 1

theorem testEngine_timed {r s : State} (h : Timed r s) (b : Barge) (sigs : List (BitVec 64)) :
    Timed r (State.testEngine s b sigs) := by
  unfold State.testEngine
  try dsimp only
  repeat' with_reducible first | assumption | apply draws_timed | refine draws_timed_pair ?_ ‹_› | apply writeAt_timed | apply event_timed

theorem testScrub_timed {r s : State} (h : Timed r s) (b : Barge) : Timed r (s.testScrub b) := by
  unfold State.testScrub
  refine writeAt_timed ?_ _ _
  generalize s.hbmSectors _ = l
  have key : ∀ (l : List Nat) (s : State) (i j : Nat), Timed r s → Timed r (l.foldl (fun (s, fixed, bad) n =>
      match s.scrubSector n with
      | (s, .corrected) => (s, fixed + 1, bad)
      | (s, .uncorrectable) => (s, fixed, bad + 1)
      | (s, .good) => (s, fixed, bad)) (s, i, j)).1 := by
    intro l
    induction l with
    | nil => exact fun _ _ _ h => h
    | cons n l ih =>
      intro s i j h
      rw [List.foldl_cons]
      have k := scrubSector_timed h n
      dsimp only
      generalize s.scrubSector n = q at k
      obtain ⟨t, o⟩ := q
      cases o <;> exact ih _ _ _ k
  exact key l s 0 0 h

theorem updateCopy_timed {r s : State} (h : Timed r s) (f : Frame) (d : BitVec 1024) :
    Timed r (State.updateCopy s f d) := by
  unfold State.updateCopy
  try dsimp only
  repeat' with_reducible first | assumption | apply writeAt_timed | apply writeMasters_timed | apply timedFold | split

end Sys2Proof.Machine
end

