-- ==== Sys2Proof/Laws/Wired.lean ====
section
/-! SUPPORT. What sending flits and packets by a known port leaves alone: everything but the link dies and what leaves the
device. -/

namespace Sys2Proof.Machine

/-- `s` is `r` but for the link dies and what has left the device. -/
def Wired (r s : State) : Prop := { s with link := {}, out := [] } = { r with link := {}, out := [] }

theorem Wired.refl (s : State) : Wired s s := rfl

theorem Wired.trans {r s t : State} (h : Wired r s) (k : Wired s t) : Wired r t := Eq.trans k h

theorem setPort_wired {r s : State} (h : Wired r s) (p : Nat) (x : Port) : Wired r (s.setPort p x) := h

theorem updPort_wired {r s : State} (h : Wired r s) (p : Nat) (f : Port → Port) : Wired r (s.updPort p f) := h

theorem emit_wired {r s : State} (h : Wired r s) (o : Output) : Wired r (s.emit o) := h

theorem sendFlit_wired {r s : State} (h : Wired r s) (p ty vl : Nat) (a b : Bool) (n : Nat) (bs : List Byte) :
    Wired r (s.sendFlit p ty vl a b n bs) := by
  unfold State.sendFlit
  exact emit_wired (setPort_wired h _ _) _

theorem sendControl_wired {r s : State} (h : Wired r s) (p k : Nat) (bs : List Byte) : Wired r (s.sendControl p k bs) :=
  sendFlit_wired h _ _ _ _ _ _ _

theorem sendData_wired {r s : State} (h : Wired r s) (p seq n : Nat) (f : BitVec 2048) : Wired r (s.sendData p seq n f) :=
  sendFlit_wired (updPort_wired h _ _) _ _ _ _ _ _ _

theorem pump_wired {r s : State} (h : Wired r s) (p n : Nat) : Wired r (s.pump p n) := by
  induction n generalizing s with
  | zero => exact h
  | succ n ih =>
    unfold State.pump
    dsimp only
    split
    · exact h
    · split
      · exact h
      · split
        · exact h
        · exact ih (sendData_wired (setPort_wired h _ _) _ _ _ _)

/-- A packet queued on a port. -/
theorem queuePacket_wired {r s : State} (h : Wired r s) (p vl : Nat) (pk : Packet) : Wired r (s.queuePacket p vl pk) := by
  unfold State.queuePacket
  exact pump_wired (updPort_wired h _ _) _ _

theorem foldl_wired {α : Type} {f : State → α → State} {l : List α} {r s : State} (h : Wired r s)
    (hf : ∀ t a, Wired r t → Wired r (f t a)) : Wired r (l.foldl f s) := by
  induction l generalizing s with
  | nil => exact h
  | cons a l ih => exact ih (hf s a h)

theorem sendSched_wired_fold {r s : State} (h : Wired r s) (ps : List Nat) (pk : Packet) :
    Wired r (ps.foldl (fun s p => if s.isUp p then s.queuePacket p 2 pk else s) s) :=
  foldl_wired h (fun t p k => by split; exacts [queuePacket_wired k _ _ _, k])

theorem Wired.regs {r s : State} (h : Wired r s) : s.regs = r.regs := by unfold Wired at h; injection h
theorem Wired.lock {r s : State} (h : Wired r s) : s.lock = r.lock := by unfold Wired at h; injection h
theorem Wired.ctxs {r s : State} (h : Wired r s) : s.ctxs = r.ctxs := by unfold Wired at h; injection h
theorem Wired.mem {r s : State} (h : Wired r s) : s.mem = r.mem := by unfold Wired at h; injection h
theorem Wired.lk {r s : State} (h : Wired r s) : s.lk = r.lk := by unfold Wired at h; injection h
theorem Wired.health {r s : State} (h : Wired r s) : s.health = r.health := by unfold Wired at h; injection h
theorem Wired.module {r s : State} (h : Wired r s) : s.module = r.module := by unfold Wired at h; injection h
theorem Wired.array {r s : State} (h : Wired r s) : s.array = r.array := by unfold Wired at h; injection h
theorem Wired.reg {r s : State} (h : Wired r s) (a : Nat) : s.reg a = r.reg a := by unfold State.reg; rw [h.regs]
theorem Wired.byte {r s : State} (h : Wired r s) (a : Nat) : s.byte a = r.byte a := by unfold State.byte; rw [h.mem]

end Sys2Proof.Machine
end

