-- ==== Sys2Proof/Laws/Works.lean ====
section
/-! SUPPORT. What work inside an interval leaves alone: the interval that is open, and the barges of the active manifest
with their descriptors. One lemma per operation stands in the files WorksA and so on. -/

namespace Sys2Proof.Machine

/-- The interval of `r` is still open in `s`: its tick and window are the same, and every barge of `r` stands at its
place, as started as it was. -/
structure Works (r s : State) : Prop where
  tick : s.lock.tick = r.lock.tick
  fired : s.lock.fired = r.lock.fired
  windowOpen : s.lock.windowOpen = r.lock.windowOpen
  closed : s.lock.closed = r.lock.closed
  barges : ∀ i b, r.barge i = some b → ∃ b', s.barge i = some b' ∧ b'.desc = b.desc ∧ b'.ownIndex = b.ownIndex ∧
    (b.state ≠ .waiting → b'.state ≠ .waiting) ∧ (b.over = true → b'.over = true)

theorem Works.refl (s : State) : Works s s := ⟨rfl, rfl, rfl, rfl, fun _ b h => ⟨b, h, rfl, rfl, id, id⟩⟩

theorem Works.trans {r s t : State} (h : Works r s) (k : Works s t) : Works r t := by
  refine ⟨k.tick.trans h.tick, k.fired.trans h.fired, k.windowOpen.trans h.windowOpen, k.closed.trans h.closed, ?_⟩
  intro i b e
  obtain ⟨b', e', d', o', w', v'⟩ := h.barges i b e
  obtain ⟨b2, e2, d2, o2, w2, v2⟩ := k.barges i b' e'
  exact ⟨b2, e2, d2.trans d', o2.trans o', fun x => w2 (w' x), fun x => v2 (v' x)⟩

/-- Work that leaves the LOCK state alone. -/
theorem works_of_lock {r s t : State} (h : Works r s) (k : t.lock = s.lock) : Works r t :=
  h.trans ⟨by rw [k], by rw [k], by rw [k], by rw [k], fun i b e => ⟨b, by unfold State.barge at *; rw [k]; exact e, rfl, rfl, id, id⟩⟩

theorem works_mk (r s : State) {p f rg la hl lo cx ar ke ln sc cs wi li he lk mo ou} (h : Works r s) :
    Works r (State.mk p f rg la hl s.lock cx ar ke ln sc cs wi lo li he lk mo ou) := works_of_lock h rfl

theorem works_mk_lock (r s : State) {p f rg la hl me cx ar ke ln sc cs wi li he lk mo ou hd pt sa st gr ln2 ab en le nh td rh co fl un ix}
    (h : Works r s) :
    Works r (State.mk p f rg la hl ⟨s.lock.active, hd, s.lock.tick, pt, s.lock.windowOpen, sa, st, gr, ln2, ab, en, s.lock.closed, le,
      nh, td, s.lock.fired, rh, co, fl, un, ix⟩ cx ar ke ln sc cs wi me li he lk mo ou) :=
  h.trans ⟨rfl, rfl, rfl, rfl, fun _ b e => ⟨b, e, rfl, rfl, id, id⟩⟩

/-- Every barge of the active manifest changed in place. -/
theorem works_mk_map (r s : State) {p fr rg la hl me cx ar ke ln sc cs wi li he lk mo ou hd pt sa st gr ln2 ab en le nh td rh co fl un ix}
    {f : Barge → Barge} (h : Works r s)
    (hf : ∀ b, (f b).desc = b.desc ∧ (f b).ownIndex = b.ownIndex ∧ (b.state ≠ .waiting → (f b).state ≠ .waiting) ∧ (b.over = true → (f b).over = true)) :
    Works r (State.mk p fr rg la hl ⟨s.lock.active.map f, hd, s.lock.tick, pt, s.lock.windowOpen, sa, st, gr, ln2, ab, en, s.lock.closed,
      le, nh, td, s.lock.fired, rh, co, fl, un, ix⟩ cx ar ke ln sc cs wi me li he lk mo ou) := by
  refine h.trans ⟨rfl, rfl, rfl, rfl, fun i b e => ⟨f b, ?_, (hf b).1, (hf b).2.1, (hf b).2.2.1, (hf b).2.2.2⟩⟩
  unfold State.barge at *
  dsimp only
  rw [List.getElem?_map, e]
  rfl

theorem setReg_works {r s : State} (h : Works r s) (a : Nat) (w : BitVec 32) : Works r (s.setReg a w) := works_of_lock h rfl

theorem setByte_works {r s : State} (h : Works r s) (a : Nat) (b : Byte) : Works r (s.setByte a b) := works_of_lock h rfl

theorem updBarge_works {r s : State} (h : Works r s) (i : Nat) (f : Barge → Barge)
    (hf : ∀ b, (f b).desc = b.desc ∧ (f b).ownIndex = b.ownIndex ∧ (b.state ≠ .waiting → (f b).state ≠ .waiting) ∧ (b.over = true → (f b).over = true)) :
    Works r (s.updBarge i f) := by
  refine h.trans ⟨rfl, rfl, rfl, rfl, fun j b e => ?_⟩
  unfold State.barge State.updBarge at *
  by_cases k : j = i
  · subst k
    exact ⟨f b, by simp [e], (hf b).1, (hf b).2.1, (hf b).2.2.1, (hf b).2.2.2⟩
  · refine ⟨b, ?_, rfl, rfl, id, id⟩
    have k' : ¬ i = j := fun x => k x.symm
    rw [List.getElem?_modify]
    simp [e, k']

theorem stage_works {r s : State} (h : Works r s) (c : Nat) (k : PlanKind) (m : Manifest) : Works r (s.stage c k m) := by
  have key : ∀ t : State, t.lock = s.lock → ∀ act h, (∃ l, act = s.lock.active ++ l) →
      Works r { t with lock := { t.lock with active := act, header := h } } := by
    intro t e act hd ⟨l, el⟩
    refine h.trans ⟨by simp [e], by simp [e], by simp [e], by simp [e], fun i b x => ⟨b, ?_, rfl, rfl, id, id⟩⟩
    unfold State.barge at *
    dsimp only
    rw [el, List.getElem?_append_left]
    · exact x
    · exact (List.getElem?_eq_some_iff.1 x).1
  unfold State.stage
  dsimp only
  refine setReg_works ?_ _ _
  refine key _ ?_ _ _ ⟨_, rfl⟩
  split <;> rfl

theorem worksFold {α : Type} {f : State → α → State} {l : List α} {r s : State} (h : Works r s)
    (hf : ∀ t a, Works r t → Works r (f t a)) : Works r (l.foldl f s) := by
  induction l generalizing s with
  | nil => exact h
  | cons a l ih => exact ih (hf s a h)

end Sys2Proof.Machine
end

