-- ==== Sys2Proof/Laws/WorksA.lean ====
section
/-! SUPPORT. Work inside an interval (see Works), part A: one lemma per operation, each from those of the
operations it calls. -/

namespace Sys2Proof.Machine

theorem forEach_works {r s : State} (h : Works r s) (cs : List Nat) {f : Nat → State → State}
    (hf : ∀ c t, Works r t → Works r (f c t)) : Works r (s.forEach cs f) := by
  unfold State.forEach
  exact worksFold h (fun t c k => hf c t k)

theorem setPort_works {r s : State} (h : Works r s) (p : Nat) (x : Port) :
    Works r (State.setPort s p x) := by
  unfold State.setPort
  try dsimp only
  repeat' with_reducible first | assumption | apply worksFold | split | intro _ | refine works_mk _ _ ?_

theorem updPort_works {r s : State} (h : Works r s) (p : Nat) (f : Port → Port) :
    Works r (State.updPort s p f) := by
  unfold State.updPort
  try dsimp only
  repeat' with_reducible first | assumption | apply setPort_works

theorem emit_works {r s : State} (h : Works r s) (o : Output) :
    Works r (State.emit s o) := by
  unfold State.emit
  try dsimp only
  repeat' with_reducible first | assumption | apply worksFold | split | intro _ | refine works_mk _ _ ?_

theorem sendFlit_works {r s : State} (h : Works r s) (p : Nat) (ty : Nat) (vl : Nat) (sop : Bool) (eop : Bool) (seq : Nat) (payload : List Byte) :
    Works r (State.sendFlit s p ty vl sop eop seq payload) := by
  unfold State.sendFlit
  try dsimp only
  repeat' with_reducible first | assumption | apply emit_works | apply setPort_works

theorem sendData_works {r s : State} (h : Works r s) (p : Nat) (seq : Nat) (times : Nat) (f : BitVec 2048) :
    Works r (State.sendData s p seq times f) := by
  unfold State.sendData
  try dsimp only
  repeat' with_reducible first | assumption | apply sendFlit_works | apply updPort_works

theorem pump_works {r s : State} (h : Works r s) (p n : Nat) : Works r (s.pump p n) := by
  induction n generalizing s with
  | zero => exact h
  | succ n ih =>
    unfold State.pump
    dsimp only
    split
    · exact h
    · split
      · exact h
      · split
        · exact h
        · exact ih (sendData_works (setPort_works h _ _) _ _ _ _)

theorem queuePacket_works {r s : State} (h : Works r s) (p : Nat) (vl : Nat) (pk : Packet) :
    Works r (State.queuePacket s p vl pk) := by
  unfold State.queuePacket
  try dsimp only
  repeat' with_reducible first | assumption | apply updPort_works | apply pump_works

theorem sendAbort_works {r s : State} (h : Works r s) (c : Nat) :
    Works r (State.sendAbort s c) := by
  unfold State.sendAbort
  try dsimp only
  repeat' with_reducible first | assumption | apply queuePacket_works | apply worksFold | split | intro _

theorem tick_works {r s : State} (h : Works r s) (a : Nat) :
    Works r (State.tick s a) := by
  unfold State.tick
  try dsimp only
  repeat' with_reducible first | assumption | apply setReg_works

theorem setReg64_works {r s : State} (h : Works r s) (a : Nat) (v : BitVec 64) :
    Works r (State.setReg64 s a v) := by
  unfold State.setReg64
  try dsimp only
  repeat' with_reducible first | assumption | apply setReg_works

theorem count_works {r s : State} (h : Works r s) (a : Nat) (n : Nat) :
    Works r (State.count s a n) := by
  unfold State.count
  try dsimp only
  repeat' with_reducible first | assumption | apply setReg_works

theorem put_works {r s : State} (h : Works r s) (f : Fld) (v : Nat) :
    Works r (State.put s f v) := by
  unfold State.put
  try dsimp only
  repeat' with_reducible first | assumption | apply setReg_works

theorem countField_works {r s : State} (h : Works r s) (f : Fld) :
    Works r (State.countField s f) := by
  unfold State.countField
  try dsimp only
  repeat' with_reducible first | assumption | apply put_works

theorem storeRec_works {r s : State} (h : Works r s) (e : Event) :
    Works r (State.storeRec s e) := by
  unfold State.storeRec
  try dsimp only
  repeat' with_reducible first | assumption | apply countField_works | apply tick_works | apply worksFold | split | intro _ | refine works_mk _ _ ?_

theorem raise_works {r s : State} (h : Works r s) (v : Nat) :
    Works r (State.raise s v) := by
  unfold State.raise
  try dsimp only
  repeat' with_reducible first | assumption | apply setReg64_works | apply worksFold | split | intro _ | refine works_mk _ _ ?_

theorem on_works {r s : State} (h : Works r s) (f : Fld) :
    Works r (State.on s f) := by
  unfold State.on
  try dsimp only
  repeat' with_reducible first | assumption | apply put_works

theorem recordEvent_works {r s : State} (h : Works r s) (e : Event) :
    Works r (State.recordEvent s e) := by
  unfold State.recordEvent
  try dsimp only
  repeat' with_reducible first | assumption | apply tick_works | apply setReg64_works | apply count_works | apply storeRec_works | apply raise_works | apply on_works | apply worksFold | split | intro _ | refine works_mk _ _ ?_

theorem event_works {r s : State} (h : Works r s) (code : BitVec 16) (src : BitVec 16) (fields : List (Nat × Nat)) :
    Works r (State.event s code src fields) := by
  unfold State.event
  try dsimp only
  repeat' with_reducible first | assumption | apply recordEvent_works | apply worksFold | split | intro _ | refine works_mk _ _ ?_

theorem forgetPuts_works {r s : State} (h : Works r s) (b : Barge) :
    Works r (State.forgetPuts s b) := by
  unfold State.forgetPuts
  try dsimp only
  repeat' with_reducible first | assumption | apply worksFold | split | intro _ | refine works_mk _ _ ?_

theorem endCollective_works {r s : State} (h : Works r s) (b : Barge) :
    Works r (State.endCollective s b) := by
  unfold State.endCollective
  try dsimp only
  repeat' with_reducible first | assumption | apply event_works | apply forgetPuts_works

theorem off_works {r s : State} (h : Works r s) (f : Fld) :
    Works r (State.off s f) := by
  unfold State.off
  try dsimp only
  repeat' with_reducible first | assumption | apply put_works

theorem showKernels_works {r s : State} (h : Works r s) :
    Works r (State.showKernels s) := by
  unfold State.showKernels
  try dsimp only
  repeat' with_reducible first | assumption | apply put_works | apply on_works | apply setReg_works | apply worksFold | split

theorem layStore_works {r s : State} (h : Works r s) :
    Works r (State.layStore s) := by
  unfold State.layStore
  try dsimp only
  repeat' with_reducible first | assumption | apply showKernels_works | apply worksFold | split | intro _ | refine works_mk _ _ ?_

theorem layDue_works {r s : State} (h : Works r s) :
    Works r (State.layDue s) := by
  unfold State.layDue
  try dsimp only
  repeat' with_reducible first | assumption | apply layStore_works | apply worksFold | split

theorem showEngine_works {r s : State} (h : Works r s) (d : Nat) :
    Works r (State.showEngine s d) := by
  unfold State.showEngine
  try dsimp only
  repeat' with_reducible first | assumption | apply put_works

theorem showEngines_works {r s : State} (h : Works r s) :
    Works r (State.showEngines s) := by
  unfold State.showEngines
  try dsimp only
  repeat' with_reducible first | assumption | apply showEngine_works | apply worksFold | split | intro _

theorem freeArray_works {r s : State} (h : Works r s) :
    Works r (State.freeArray s) := by
  unfold State.freeArray
  try dsimp only
  repeat' with_reducible first | assumption | apply off_works | apply layDue_works | apply showEngines_works | apply put_works | apply worksFold | split | intro _ | refine works_mk _ _ ?_

theorem reportRows_works {r s : State} (h : Works r s) (b : Barge) :
    Works r (State.reportRows s b) := by
  unfold State.reportRows
  try dsimp only
  repeat' with_reducible first | assumption | apply event_works | apply worksFold | split

theorem draw_works {r s : State} (h : Works r s) :
    Works r (State.draw s).2 := by
  unfold State.draw
  try dsimp only
  repeat' with_reducible first | assumption | apply worksFold | split | intro _ | refine works_mk _ _ ?_

theorem draw_works_pair {r s : State} (h : Works r s) {x y} (e : State.draw s = (x, y)) : Works r y := by
  have k := draw_works h 
  rwa [e] at k

theorem undefine_works {r s : State} (h : Works r s) (regions : List (Nat × Nat)) :
    Works r (State.undefine s regions) := by
  unfold State.undefine
  try dsimp only
  repeat' with_reducible first | assumption | apply draw_works | refine draw_works_pair ?_ ‹_› | apply setByte_works | apply worksFold | split | intro _

theorem dropArray_works {r s : State} (h : Works r s) (b : Barge) :
    Works r (State.dropArray s b) := by
  unfold State.dropArray
  try dsimp only
  repeat' with_reducible first | assumption | apply on_works | apply freeArray_works | apply reportRows_works | apply undefine_works | apply event_works | apply worksFold | split

theorem promoteTo_works {r s : State} (h : Works r s) (b : Barge) (key : Nat) (n : Nat) :
    Works r (State.promoteTo s b key n) := by
  unfold State.promoteTo
  try dsimp only
  repeat' with_reducible first | assumption | apply count_works | apply worksFold | split | intro _ | refine works_mk _ _ ?_

theorem runOn_works {r s : State} (h : Works r s) (b : Barge) (key : Nat) (lo : Nat) :
    Works r (State.runOn s b key lo) := by
  unfold State.runOn
  try dsimp only
  repeat' with_reducible first | assumption | apply draw_works | refine draw_works_pair ?_ ‹_› | apply promoteTo_works | apply worksFold | split

theorem forceSlot_works {r s : State} (h : Works r s) (b : Barge) (key : Nat) :
    Works r (State.forceSlot s b key) := by
  unfold State.forceSlot
  try dsimp only
  repeat' with_reducible first | assumption | apply count_works | apply runOn_works | apply draw_works | refine draw_works_pair ?_ ‹_› | apply worksFold | split

theorem forceDrains_works {r s : State} (h : Works r s) (b : Barge) :
    Works r (State.forceDrains s b) := by
  unfold State.forceDrains
  try dsimp only
  repeat' with_reducible first | assumption | apply forceSlot_works | apply worksFold | split | intro _

theorem endArray_works {r s : State} (h : Works r s) :
    Works r (State.endArray s) := by
  unfold State.endArray
  try dsimp only
  repeat' with_reducible first | assumption | apply dropArray_works | apply forceDrains_works | apply worksFold | split

theorem setCtx_works {r s : State} (h : Works r s) (c : Nat) (x : Ctx) :
    Works r (State.setCtx s c x) := by
  unfold State.setCtx
  try dsimp only
  repeat' with_reducible first | assumption | apply worksFold | split | intro _ | refine works_mk _ _ ?_

theorem updCtx_works {r s : State} (h : Works r s) (c : Nat) (f : Ctx → Ctx) :
    Works r (State.updCtx s c f) := by
  unfold State.updCtx
  try dsimp only
  repeat' with_reducible first | assumption | apply setCtx_works

theorem setPhase_works {r s : State} (h : Works r s) (c : Nat) (p : Nat) :
    Works r (State.setPhase s c p) := by
  unfold State.setPhase
  try dsimp only
  repeat' with_reducible first | assumption | apply put_works

theorem abortCtx_works {r s : State} (h : Works r s) (c : Nat) :
    Works r (State.abortCtx s c) := by
  unfold State.abortCtx
  try dsimp only
  repeat' with_reducible first | assumption | apply updCtx_works | apply setPhase_works | apply off_works | apply worksFold | split

theorem Barge.abort_keeps (b : Barge) : b.abort.desc = b.desc ∧ b.abort.ownIndex = b.ownIndex ∧
    (b.state ≠ .waiting → b.abort.state ≠ .waiting) ∧ (b.over = true → b.abort.over = true) := by
  unfold Barge.abort
  split
  · exact ⟨rfl, rfl, fun _ h => (by cases h), fun _ => rfl⟩
  · exact ⟨rfl, rfl, id, id⟩

theorem abortSteps_works {r s : State} (h : Works r s) (cs : List Nat) : Works r (s.abortSteps cs) := by
  unfold State.abortSteps
  refine forEach_works ?_ cs (fun c t k => abortCtx_works k c)
  refine on_works (on_works (works_mk_map _ _ ?_ ?_) _) _
  · repeat' with_reducible first | assumption | apply endArray_works | apply endCollective_works | apply worksFold | split | intro _
  · intro b
    split
    · exact Barge.abort_keeps b
    · exact ⟨rfl, rfl, id, id⟩

theorem abandon_works {r s : State} (h : Works r s) (cs : List Nat) :
    Works r (State.abandon s cs) := by
  unfold State.abandon
  try dsimp only
  repeat' with_reducible first | assumption | apply forEach_works | apply sendAbort_works | apply abortSteps_works | apply on_works | apply worksFold | split | intro _

theorem setSlot_works {r s : State} (h : Works r s) (c : Nat) (j : Nat) (state : Nat) (step : Nat) :
    Works r (State.setSlot s c j state step) := by
  unfold State.setSlot
  try dsimp only
  repeat' with_reducible first | assumption | apply put_works

theorem setSector_works {r s : State} (h : Works r s) (n : Nat) (x : Sector) :
    Works r (State.setSector s n x) := by
  unfold State.setSector
  try dsimp only
  repeat' with_reducible first | assumption | apply worksFold | split | intro _ | refine works_mk _ _ ?_

theorem store_works {r s : State} (h : Works r s) (ws : List (Nat × Byte)) :
    Works r (State.store s ws) := by
  unfold State.store
  try dsimp only
  repeat' with_reducible first | assumption | apply setByte_works | apply worksFold | split | intro _

theorem settle_works {r s : State} (h : Works r s) (n : Nat) :
    Works r (State.settle s n) := by
  unfold State.settle
  try dsimp only
  repeat' with_reducible first | assumption | apply store_works | apply setSector_works | apply worksFold | split

theorem markLane_works {r s : State} (h : Works r s) (channel : Nat) (pc : Nat) (lane : Nat) (cause : Nat) :
    Works r (State.markLane s channel pc lane cause) := by
  unfold State.markLane
  try dsimp only
  repeat' with_reducible first | assumption | apply put_works | apply on_works | apply event_works | apply settle_works | apply worksFold | split | intro _

theorem countRun_works {r s : State} (h : Works r s) (p : Place) (lane : Option Nat) :
    Works r (State.countRun s p lane) := by
  unfold State.countRun
  try dsimp only
  repeat' with_reducible first | assumption | apply markLane_works | apply worksFold | split | intro _ | refine works_mk _ _ ?_

theorem measure_works {r s : State} (h : Works r s) (i : Nat) (n : Nat) :
    Works r (State.measure s i n) := by
  unfold State.measure
  try dsimp only
  repeat' with_reducible first | assumption | apply worksFold | split | intro _ | refine works_mk _ _ ?_

theorem readSector_works {r s : State} (h : Works r s) (n : Nat) :
    Works r (State.readSector s n).1 := by
  unfold State.readSector
  try dsimp only
  repeat' with_reducible first | assumption | apply count_works | apply countRun_works | apply measure_works | apply worksFold | split

theorem readSector_works_pair {r s : State} (h : Works r s) (n : Nat) {x y} (e : State.readSector s n = (x, y)) : Works r x := by
  have k := readSector_works h n
  rwa [e] at k

theorem uncorrectable_works {r s : State} (h : Works r s) (reader : Nat) (n : Nat) :
    Works r (State.uncorrectable s reader n) := by
  unfold State.uncorrectable
  try dsimp only
  repeat' with_reducible first | assumption | apply setReg64_works | apply count_works | apply event_works | apply worksFold | split | intro _ | refine works_mk _ _ ?_

theorem readSectors_works {r s : State} (h : Works r s) (reader : Nat) (ns : List Nat) :
    Works r (s.readSectors reader ns).1 := by
  unfold State.readSectors
  have key : ∀ (l : List Nat) (s : State) (bad : List Nat), Works r s → Works r (l.foldl (fun (s, bad) n =>
      if s.isNotable n then
        let (s, r) := s.readSector n
        if r = .uncorrectable then (s.uncorrectable reader n, bad ++ [n]) else (s, bad)
      else (s, bad)) (s, bad)).1 := by
    intro l
    induction l with
    | nil => exact fun _ _ h => h
    | cons n l ih =>
      intro s bad h
      rw [List.foldl_cons]
      dsimp only
      split
      · split
        · exact ih _ _ (uncorrectable_works (readSector_works h n) reader n)
        · exact ih _ _ (readSector_works h n)
      · exact ih _ _ h
  exact key ns s [] h

theorem readSectors_works_pair {r s : State} (h : Works r s) (reader : Nat) (ns : List Nat) {x y}
    (e : State.readSectors s reader ns = (x, y)) : Works r x := by
  have k := readSectors_works h reader ns
  rwa [e] at k

theorem writeSector_works {r s : State} (h : Works r s) (n : Nat) (covered : Nat) :
    Works r (State.writeSector s n covered) := by
  unfold State.writeSector
  try dsimp only
  repeat' with_reducible first | assumption | apply setSector_works | apply count_works | apply readSectors_works | refine readSectors_works_pair ?_ ‹_› | apply worksFold | split

theorem writeAt_works {r s : State} (h : Works r s) (a : Nat) (bs : List Byte) :
    Works r (State.writeAt s a bs) := by
  unfold State.writeAt
  try dsimp only
  repeat' with_reducible first | assumption | apply writeSector_works | apply store_works | apply worksFold | split | intro _

theorem abandonCapture_works {r s : State} (h : Works r s) (c : Nat) :
    Works r (State.abandonCapture s c) := by
  unfold State.abandonCapture
  try dsimp only
  repeat' with_reducible first | assumption | apply setSlot_works | apply writeAt_works | apply event_works | apply updCtx_works | apply worksFold | split

theorem setScale_works {r s : State} (h : Works r s) (i : Nat) (e : ScaleEntry) :
    Works r (State.setScale s i e) := by
  unfold State.setScale
  try dsimp only
  repeat' with_reducible first | assumption | apply worksFold | split | intro _ | refine works_mk _ _ ?_

theorem showHistory_works {r s : State} (h : Works r s) (c : Nat) :
    Works r (State.showHistory s c) := by
  unfold State.showHistory
  try dsimp only
  repeat' with_reducible first | assumption | apply put_works

theorem setCtxState_works {r s : State} (h : Works r s) (c : Nat) (v : Nat) :
    Works r (State.setCtxState s c v) := by
  unfold State.setCtxState
  try dsimp only
  repeat' with_reducible first | assumption | apply put_works

theorem touch_works {r s : State} (h : Works r s) (reader : Nat) (regions : List (Nat × Nat)) :
    Works r (State.touch s reader regions).1 := by
  unfold State.touch
  try dsimp only
  repeat' with_reducible first | assumption | apply readSectors_works

theorem touch_works_pair {r s : State} (h : Works r s) (reader : Nat) (regions : List (Nat × Nat)) {x y} (e : State.touch s reader regions = (x, y)) : Works r x := by
  have k := touch_works h reader regions
  rwa [e] at k

theorem cqWrite_works {r s : State} (h : Works r s) (c : Nat) (r1 : BitVec 256) :
    Works r (State.cqWrite s c r1) := by
  unfold State.cqWrite
  try dsimp only
  repeat' with_reducible first | assumption | apply emit_works | apply put_works | apply updCtx_works | apply raise_works | apply worksFold | split

theorem complete_works {r s : State} (h : Works r s) (c : Nat) (tag : Nat) (kind : Nat) (status : Nat) (detail : Nat) :
    Works r (State.complete s c tag kind status detail) := by
  unfold State.complete
  try dsimp only
  repeat' with_reducible first | assumption | apply cqWrite_works | apply setCtx_works | apply count_works | apply event_works | apply worksFold | split

theorem showWiden_works {r s : State} (h : Works r s) :
    Works r (State.showWiden s) := by
  unfold State.showWiden
  try dsimp only
  repeat' with_reducible first | assumption | apply put_works

theorem applyGrant_works {r s : State} (h : Works r s) (g : Nat) :
    Works r (State.applyGrant s g) := by
  unfold State.applyGrant
  try dsimp only
  repeat' with_reducible first | assumption | apply count_works | apply on_works | apply put_works | apply event_works | apply worksFold | split | intro _ | refine works_mk _ _ ?_ | refine works_mk_lock _ _ ?_

theorem routePacket_works {r s : State} (h : Works r s) (d : Nat) (vl : Nat) (pk : Packet) :
    Works r (State.routePacket s d vl pk) := by
  unfold State.routePacket
  try dsimp only
  repeat' with_reducible first | assumption | apply queuePacket_works | apply count_works | apply event_works | apply worksFold | split | intro _ | refine works_mk _ _ ?_

theorem setCollective_works {r s : State} (h : Works r s) (i : Nat) (n : Nat) :
    Works r (State.setCollective s i n) := by
  unfold State.setCollective
  try dsimp only
  repeat' with_reducible first | assumption | apply worksFold | split | intro _ | refine works_mk _ _ ?_ | refine works_mk_lock _ _ ?_

theorem sendPacket_works {r s : State} (h : Works r s) (vl : Nat) (a : PacketArgs) :
    Works r (State.sendPacket s vl a) := by
  unfold State.sendPacket
  try dsimp only
  repeat' with_reducible first | assumption | apply routePacket_works | apply worksFold | split

theorem sendStream_works {r s : State} (h : Works r s) (vl : Nat) (a : PacketArgs) (bs : List Byte) :
    Works r (State.sendStream s vl a bs) := by
  unfold State.sendStream
  try dsimp only
  repeat' with_reducible first | assumption | apply sendPacket_works | apply worksFold | split | intro _ | refine works_mk _ _ ?_

theorem sendTo_works {r s : State} (h : Works r s) (b : Barge) (phase : Nat) (j : Nat) (bs : List Byte) :
    Works r (State.sendTo s b phase j bs) := by
  unfold State.sendTo
  try dsimp only
  repeat' with_reducible first | assumption | apply sendStream_works | apply worksFold | split

theorem coPass_works {r s : State} (h : Works r s) (b : Barge) :
    Works r (State.coPass s b) := by
  unfold State.coPass
  try dsimp only
  repeat' with_reducible first | assumption | apply sendTo_works | apply worksFold | split | intro _

theorem write_works {r s : State} (h : Works r s) (ws : List (Nat × Byte)) :
    Works r (State.write s ws) := by
  unfold State.write
  try dsimp only
  repeat' with_reducible first | assumption | apply writeSector_works | apply store_works | apply worksFold | split | intro _

theorem coWrite_works {r s : State} (h : Works r s) (b : Barge) (rs : List (List Byte)) :
    Works r (State.coWrite s b rs) := by
  unfold State.coWrite
  try dsimp only
  repeat' with_reducible first | assumption | apply write_works

theorem setCstat_works {r s : State} (h : Works r s) (bank : Bool) (i : Nat) (e : CStat) :
    Works r (State.setCstat s bank i e) := by
  unfold State.setCstat
  try dsimp only
  repeat' with_reducible first | assumption | apply worksFold | split | intro _ | refine works_mk _ _ ?_

theorem coAgree_works {r s : State} (h : Works r s) (b : Barge) (rs : List (List Byte)) :
    Works r (State.coAgree s b rs) := by
  unfold State.coAgree
  try dsimp only
  repeat' with_reducible first | assumption | apply setScale_works | apply setCstat_works | apply worksFold | split | intro _

theorem coOutput_works {r s : State} (h : Works r s) (b : Barge) :
    Works r (State.coOutput s b) := by
  unfold State.coOutput
  try dsimp only
  repeat' with_reducible first | assumption | apply coWrite_works | apply coAgree_works | apply writeAt_works | apply worksFold | split

theorem showCounts_works {r s : State} (h : Works r s) (b : Barge) :
    Works r (State.showCounts s b) := by
  unfold State.showCounts
  try dsimp only
  repeat' with_reducible first | assumption | apply put_works | apply on_works | apply worksFold | split | intro _

theorem finishBarge_works {r s : State} (h : Works r s) (i : Nat) (start : Nat) (b : Barge) :
    Works r (State.finishBarge s i start b) := by
  unfold State.finishBarge
  try dsimp only
  repeat' with_reducible first | assumption | apply updBarge_works | apply event_works | apply on_works | apply count_works | apply showCounts_works | apply freeArray_works | apply reportRows_works | apply complete_works | apply worksFold | split | exact fun _ => ⟨rfl, rfl, fun _ h => (by cases h), fun _ => rfl⟩ | intro _ | refine works_mk _ _ ?_ | refine works_mk_lock _ _ ?_

theorem tryFinish_works {r s : State} (h : Works r s) (i : Nat) :
    Works r (State.tryFinish s i) := by
  unfold State.tryFinish
  try dsimp only
  repeat' with_reducible first | assumption | apply finishBarge_works | apply worksFold | split

theorem progress_works {r s : State} (h : Works r s) (i : Nat) :
    Works r (State.progress s i) := by
  unfold State.progress
  try dsimp only
  repeat' with_reducible first | assumption | apply setCollective_works | apply coPass_works | apply coOutput_works | apply tryFinish_works | apply worksFold | split

theorem ackPut_works {r s : State} (h : Works r s) (k : StreamKey) (n : Nat) :
    Works r (State.ackPut s k n) := by
  unfold State.ackPut
  try dsimp only
  repeat' with_reducible first | assumption | apply sendPacket_works

theorem dropExport_works {r s : State} (h : Works r s) (c : Nat) (cause : Nat) :
    Works r (State.dropExport s c cause) := by
  unfold State.dropExport
  try dsimp only
  repeat' with_reducible first | assumption | apply put_works | apply updCtx_works | apply event_works | apply worksFold | split

theorem nameSuspect_works {r s : State} (h : Works r s) :
    Works r (State.nameSuspect s) := by
  unfold State.nameSuspect
  try dsimp only
  repeat' with_reducible first | assumption | apply event_works | apply put_works | apply off_works | apply worksFold | split

theorem countBlocks_works {r s : State} (h : Works r s) (f : Frame) (i : Nat) (b : BlockCount) :
    Works r (State.countBlocks s f i b) := by
  unfold State.countBlocks
  try dsimp only
  repeat' with_reducible first | assumption | apply count_works | apply updCtx_works

theorem feedStats_works {r s : State} (h : Works r s) (c : Nat) (fs : List StatFeed) :
    Works r (State.feedStats s c fs) := by
  unfold State.feedStats
  try dsimp only
  repeat' with_reducible first | assumption | apply setCstat_works | apply worksFold | split | intro _

theorem feedAmax_works {r s : State} (h : Works r s) (f : Frame) (i : Nat) (as : List (BitVec 32)) :
    Works r (State.feedAmax s f i as) := by
  unfold State.feedAmax
  try dsimp only
  repeat' with_reducible first | assumption | apply setScale_works | apply worksFold | split

theorem flagTensor_works {r s : State} (h : Works r s) (f : Frame) (i : Nat) :
    Works r (State.flagTensor s f i) := by
  unfold State.flagTensor
  try dsimp only
  repeat' with_reducible first | assumption | apply event_works | apply updCtx_works | apply worksFold | split

theorem nonfinite_works {r s : State} (h : Works r s) (c : Nat) (eval : Bool) :
    Works r (State.nonfinite s c eval) := by
  unfold State.nonfinite
  try dsimp only
  repeat' with_reducible first | assumption | apply count_works | apply updCtx_works | apply on_works | apply worksFold | split

theorem raiseNonfinite_works {r s : State} (h : Works r s) (f : Frame) :
    Works r (State.raiseNonfinite s f) := by
  unfold State.raiseNonfinite
  try dsimp only
  repeat' with_reducible first | assumption | apply nonfinite_works

theorem apply_works {r s : State} (h : Works r s) (f : Frame) (i : Nat) (r1 : OutResult) :
    Works r (State.apply s f i r1) := by
  unfold State.apply
  try dsimp only
  repeat' with_reducible first | assumption | apply write_works | apply count_works | apply countBlocks_works | apply feedStats_works | apply feedAmax_works | apply flagTensor_works | apply raiseNonfinite_works | apply worksFold | split

theorem writeTensor_works {r s : State} (h : Works r s) (f : Frame) (td : Nat) (rot : Bool) (sluice : Nat) (stats : Option Nat) (ls : Lines) (get : Ix → OutPos) :
    Works r (State.writeTensor s f td rot sluice stats ls get) := by
  unfold State.writeTensor
  try dsimp only
  repeat' with_reducible first | assumption | apply apply_works

theorem writeGrad_works {r s : State} (h : Works r s) (f : Frame) (td : Nat) (factor : Fv) (ok : Ix → Bool) (total : Ix → Total) :
    Works r (State.writeGrad s f td factor ok total) := by
  unfold State.writeGrad
  try dsimp only
  repeat' with_reducible first | assumption | apply writeTensor_works | apply count_works | apply raiseNonfinite_works | apply worksFold | split

theorem backward_works {r s : State} (h : Works r s) (f : Frame) (g : Grad) (e : Nat) :
    Works r (State.backward s f g e) := by
  unfold State.backward
  try dsimp only
  repeat' with_reducible first | assumption | apply count_works | apply raiseNonfinite_works | apply writeGrad_works | apply worksFold | split

theorem badHyper_works {r s : State} (h : Works r s) (f : Frame) (d : BitVec 1024) (off : Nat) :
    Works r (State.badHyper s f d off) := by
  unfold State.badHyper
  try dsimp only
  repeat' with_reducible first | assumption | apply event_works | apply on_works

theorem loseWord_works {r s : State} (h : Works r s) (w : SramWord) :
    Works r (State.loseWord s w) := by
  unfold State.loseWord
  try dsimp only
  repeat' with_reducible first | assumption | apply worksFold | split | intro _ | refine works_mk _ _ ?_

theorem readWord_works {r s : State} (h : Works r s) (w : SramWord) :
    Works r (State.readWord s w) := by
  unfold State.readWord
  try dsimp only
  repeat' with_reducible first | assumption | apply count_works | apply event_works | apply measure_works | apply worksFold | split | intro _ | refine works_mk _ _ ?_

theorem readWords_works {r s : State} (h : Works r s) (which : SramWord → Bool) :
    Works r (State.readWords s which).1 := by
  unfold State.readWords
  try dsimp only
  repeat' with_reducible first | assumption | apply loseWord_works | apply readWord_works | apply worksFold | split | intro _

theorem readWords_works_pair {r s : State} (h : Works r s) (which : SramWord → Bool) {x y} (e : State.readWords s which = (x, y)) : Works r x := by
  have k := readWords_works h which
  rwa [e] at k

theorem endEvalAt_works {r s : State} (h : Works r s) (b : Barge) : Works r (s.endEvalAt b) := by
  unfold State.endEvalAt
  refine complete_works (updCtx_works (works_mk_map _ _ (worksFold ?_ (fun t x k => forgetPuts_works k _)) ?_) _ _) _ _ _ _ _
  · split
    · exact freeArray_works h
    · exact h
  · intro x
    split
    · exact ⟨rfl, rfl, fun _ k => (by cases k), fun _ => rfl⟩
    · exact ⟨rfl, rfl, id, id⟩

theorem endAtRead_works {r s : State} (h : Works r s) (b : Barge) :
    Works r (State.endAtRead s b) := by
  unfold State.endAtRead
  try dsimp only
  repeat' with_reducible first | assumption | apply endEvalAt_works | apply undefine_works | apply abandon_works | apply worksFold | split

theorem readingWords_works {r s : State} (h : Works r s) (b : Barge) (which : SramWord → Bool) {f : State → State} (hf : ∀ t, Works r t → Works r (f t)) :
    Works r (State.readingWords s b which f) := by
  unfold State.readingWords
  try dsimp only
  repeat' with_reducible first | assumption | apply hf | apply readWords_works | refine readWords_works_pair ?_ ‹_› | apply endAtRead_works | apply worksFold | split

theorem reading_works {r s : State} (h : Works r s) (b : Barge) (regions : List (Nat × Nat)) {f : State → State} (hf : ∀ t, Works r t → Works r (f t)) :
    Works r (State.reading s b regions f) := by
  unfold State.reading
  try dsimp only
  repeat' with_reducible first | assumption | apply hf | apply touch_works | refine touch_works_pair ?_ ‹_› | apply readingWords_works | apply endAtRead_works | apply worksFold | split

theorem setQueue_works {r s : State} (h : Works r s) (g : Nat) (ts : List Nat) :
    Works r (State.setQueue s g ts) := by
  unfold State.setQueue
  try dsimp only
  repeat' with_reducible first | assumption | apply worksFold | split | intro _ | refine works_mk _ _ ?_

theorem deal_works {r s : State} (h : Works r s) (ts : List Nat) :
    Works r (State.deal s ts) := by
  unfold State.deal
  try dsimp only
  repeat' with_reducible first | assumption | apply setQueue_works | apply worksFold | split | intro _

theorem fetchTiles_works {r s : State} (h : Works r s) (g : Nat) (regions : List (Nat × Nat)) :
    Works r (State.fetchTiles s g regions) := by
  unfold State.fetchTiles
  try dsimp only
  repeat' with_reducible first | assumption | apply worksFold | split | intro _ | refine works_mk _ _ ?_

theorem loadLanes_works {r s : State} (h : Works r s) (b : Barge) (e : Nat) (t1 : Nat) :
    Works r (State.loadLanes s b e t1) := by
  unfold State.loadLanes
  try dsimp only
  repeat' with_reducible first | assumption | apply worksFold | split | intro _ | refine works_mk _ _ ?_

theorem fetchTask_works {r s : State} (h : Works r s) (b : Barge) (e : Nat) (t1 : Nat) :
    Works r (State.fetchTask s b e t1) := by
  unfold State.fetchTask
  try dsimp only
  repeat' with_reducible first | assumption | apply fetchTiles_works | apply loadLanes_works | apply worksFold | split

theorem nearEnd_works {r s : State} (h : Works r s) (b : Barge) (key : Nat) :
    Works r (State.nearEnd s b key) := by
  unfold State.nearEnd
  try dsimp only
  repeat' with_reducible first | assumption | apply runOn_works | apply worksFold | split

theorem take_works {r s : State} (h : Works r s) (b : Barge) (e : Nat) (k : Nat) (t1 : Nat) :
    Works r (State.take s b e k t1) := by
  unfold State.take
  try dsimp only
  repeat' with_reducible first | assumption | apply fetchTask_works | apply nearEnd_works | apply showEngine_works | apply worksFold | split | intro _ | refine works_mk _ _ ?_

theorem stealFrom_works {r s : State} (h : Works r s) (b : Barge) (e : Nat) (k : Nat) (v : Nat) :
    Works r (State.stealFrom s b e k v) := by
  unfold State.stealFrom
  try dsimp only
  repeat' with_reducible first | assumption | apply take_works | apply setQueue_works | apply count_works | apply worksFold | split

theorem waitSplit_works {r s : State} (h : Works r s) (e : Nat) :
    Works r (State.waitSplit s e) := by
  unfold State.waitSplit
  try dsimp only
  repeat' with_reducible first | assumption | apply count_works | apply showEngine_works | apply worksFold | split | intro _ | refine works_mk _ _ ?_

theorem claim_works {r s : State} (h : Works r s) (e : Nat) :
    Works r (State.claim s e) := by
  unfold State.claim
  try dsimp only
  repeat' with_reducible first | assumption | apply take_works | apply setQueue_works | apply stealFrom_works | apply waitSplit_works | apply worksFold | split

theorem dealOut_works {r s : State} (h : Works r s) (tasks : List Nat) :
    Works r (State.dealOut s tasks) := by
  unfold State.dealOut
  try dsimp only
  repeat' with_reducible first | assumption | apply deal_works | apply claim_works | apply worksFold | split | intro _

theorem startArray_works {r s : State} (h : Works r s) (i : Nat) (b : Barge) (tasks : List Nat) (total : Nat) (stage : Nat) (counts : List Nat) (docs : List Nat) :
    Works r (State.startArray s i b tasks total stage counts docs) := by
  unfold State.startArray
  try dsimp only
  repeat' with_reducible first | assumption | apply put_works | apply off_works | apply on_works | apply setReg_works | apply showEngines_works | apply tryFinish_works | apply dealOut_works | apply worksFold | split | intro _ | refine works_mk _ _ ?_

theorem showVector_works {r s : State} (h : Works r s) (b : Barge) (stage : Nat) :
    Works r (State.showVector s b stage) := by
  unfold State.showVector
  try dsimp only
  repeat' with_reducible first | assumption | apply put_works | apply on_works

theorem startVector_works {r s : State} (h : Works r s) (i : Nat) (b : Barge) (regions : List (Nat × Nat)) (stage : Nat) :
    Works r (State.startVector s i b regions stage) := by
  unfold State.startVector
  try dsimp only
  repeat' with_reducible first | assumption | apply reading_works | apply startArray_works | apply showVector_works | apply worksFold | split | intro _

theorem setBit_works {r s : State} (h : Works r s) (f : Fld) (c : Nat) (x : Bool) :
    Works r (State.setBit s f c x) := by
  unfold State.setBit
  try dsimp only
  repeat' with_reducible first | assumption | apply put_works

theorem setHold_works {r s : State} (h : Works r s) (c : Nat) (q : Nat) (h1 : Nat) :
    Works r (State.setHold s c q h1) := by
  unfold State.setHold
  try dsimp only
  repeat' with_reducible first | assumption | apply updCtx_works

theorem setLvl_works {r s : State} (h : Works r s) (c : Nat) (q : Nat) (l : Nat) :
    Works r (State.setLvl s c q l) := by
  unfold State.setLvl
  try dsimp only
  repeat' with_reducible first | assumption | apply updCtx_works

theorem narrow_works {r s : State} (h : Works r s) (c : Nat) (q : Nat) :
    Works r (State.narrow s c q) := by
  unfold State.narrow
  try dsimp only
  repeat' with_reducible first | assumption | apply setHold_works | apply count_works | apply setLvl_works | apply event_works | apply worksFold | split

theorem grantSlots_works {r s : State} (h : Works r s) (c : Nat) (qs : List Nat) : Works r (s.grantSlots c qs) := by
  induction qs generalizing s with
  | nil => exact h
  | cons q qs ih =>
    unfold State.grantSlots
    dsimp only
    repeat' with_reducible first
      | assumption | apply ih | apply event_works | apply count_works | apply setHold_works | apply setLvl_works | split

theorem grant_works {r s : State} (h : Works r s) (c : Nat) :
    Works r (State.grant s c) := by
  unfold State.grant
  try dsimp only
  repeat' with_reducible first | assumption | apply narrow_works | apply grantSlots_works | apply worksFold | split | intro _

theorem widenAt_works {r s : State} (h : Works r s) (c : Nat) :
    Works r (State.widenAt s c) := by
  unfold State.widenAt
  try dsimp only
  repeat' with_reducible first | assumption | apply updCtx_works | apply showWiden_works | apply grant_works | apply worksFold | split

theorem clearStep_works {r s : State} (h : Works r s) (c : Nat) :
    Works r (State.clearStep s c) := by
  unfold State.clearStep
  try dsimp only
  repeat' with_reducible first | assumption | apply updCtx_works | apply off_works

theorem clearSuspect_works {r s : State} (h : Works r s) (c : Nat) :
    Works r (State.clearSuspect s c) := by
  unfold State.clearSuspect
  try dsimp only
  repeat' with_reducible first | assumption | apply nameSuspect_works | apply setBit_works | apply worksFold | split

theorem boundary_works {r s : State} (h : Works r s) (c : Nat) (n : Nat) :
    Works r (State.boundary s c n) := by
  unfold State.boundary
  try dsimp only
  repeat' with_reducible first | assumption | apply widenAt_works | apply setReg64_works | apply updCtx_works | apply setPhase_works | apply off_works | apply clearStep_works | apply clearSuspect_works

theorem unfeed_works {r s : State} (h : Works r s) (c : Nat) :
    Works r (State.unfeed s c) := by
  unfold State.unfeed
  try dsimp only
  repeat' with_reducible first | assumption | apply worksFold | split | intro _ | refine works_mk _ _ ?_

theorem discardFeed_works {r s : State} (h : Works r s) (c : Nat) :
    Works r (State.discardFeed s c) := by
  unfold State.discardFeed
  try dsimp only
  repeat' with_reducible first | assumption | apply count_works | apply unfeed_works

theorem clearAmax_works {r s : State} (h : Works r s) (c : Nat) :
    Works r (State.clearAmax s c) := by
  unfold State.clearAmax
  try dsimp only
  repeat' with_reducible first | assumption | apply setScale_works | apply worksFold | split | intro _

theorem showVerdicts_works {r s : State} (h : Works r s) :
    Works r (State.showVerdicts s) := by
  unfold State.showVerdicts
  try dsimp only
  repeat' with_reducible first | assumption | apply setReg_works | apply worksFold | split | intro _

theorem clearDrops_works {r s : State} (h : Works r s) (c : Nat) :
    Works r (State.clearDrops s c) := by
  unfold State.clearDrops
  try dsimp only
  repeat' with_reducible first | assumption | apply event_works | apply updCtx_works | apply worksFold | split

theorem closePass_works {r s : State} (h : Works r s) (b : Barge) (n : Nat) :
    Works r (State.closePass s b n) := by
  unfold State.closePass
  try dsimp only
  repeat' with_reducible first | assumption | apply writeAt_works | apply count_works | apply event_works | apply worksFold | split | intro _ | refine works_mk _ _ ?_

theorem scrubSector_works {r s : State} (h : Works r s) (n : Nat) :
    Works r (State.scrubSector s n).1 := by
  unfold State.scrubSector
  try dsimp only
  repeat' with_reducible first | assumption | apply readSector_works | refine readSector_works_pair ?_ ‹_› | apply count_works | apply setSector_works | apply uncorrectable_works | apply worksFold | split

theorem scrubSector_works_pair {r s : State} (h : Works r s) (n : Nat) {x y} (e : State.scrubSector s n = (x, y)) : Works r x := by
  have k := scrubSector_works h n
  rwa [e] at k

theorem coSendAll_works {r s : State} (h : Works r s) (b : Barge) :
    Works r (State.coSendAll s b) := by
  unfold State.coSendAll
  try dsimp only
  repeat' with_reducible first | assumption | apply sendTo_works | apply worksFold | split | intro _

theorem placeStaged_works {r s : State} (h : Works r s) (b : Barge) :
    Works r (State.placeStaged s b) := by
  unfold State.placeStaged
  try dsimp only
  repeat' with_reducible first | assumption | apply ackPut_works | apply worksFold | split | intro _ | refine works_mk _ _ ?_

theorem compareVerify_works {r s : State} (h : Works r s) (c : Nat) (p : BitVec 512) :
    Works r (State.compareVerify s c p) := by
  unfold State.compareVerify
  try dsimp only
  repeat' with_reducible first | assumption | apply event_works | apply on_works | apply off_works | apply abortSteps_works | apply worksFold | split

theorem copyRows_works {r s : State} (h : Works r s) (d : BitVec 1024) (rows : Nat) :
    Works r (State.copyRows s d rows) := by
  unfold State.copyRows
  try dsimp only
  repeat' with_reducible first | assumption | apply writeAt_works | apply worksFold | split | intro _

theorem countPass_works {r s : State} (h : Works r s) (d : BitVec 1024) (t1 : Nat) :
    Works r (State.countPass s d t1) := by
  unfold State.countPass
  try dsimp only
  repeat' with_reducible first | assumption | apply worksFold | split | intro _ | refine works_mk _ _ ?_

theorem declineGroup_works {r s : State} (h : Works r s) (c : Nat) (g : Nat) :
    Works r (State.declineGroup s c g) := by
  unfold State.declineGroup
  try dsimp only
  repeat' with_reducible first | assumption | apply updCtx_works | apply complete_works | apply event_works | apply worksFold | split

theorem delayRun_works {r s : State} (h : Works r s) (c : Nat) (r1 : Run) (n : Nat) :
    Works r (State.delayRun s c r1 n) := by
  unfold State.delayRun
  try dsimp only
  repeat' with_reducible first | assumption | apply updCtx_works

theorem drainArray_works {r s : State} (h : Works r s) (f : State → List Byte × State)
    (hf : ∀ t, Works r t → Works r (f t).2) : Works r (s.drainArray f).2 := by
  unfold State.drainArray
  split
  · exact hf s h
  · exact updBarge_works (dropArray_works (hf _ (forceDrains_works h _)) _) _ _
      (fun b => ⟨rfl, rfl, fun _ k => (by cases k), fun _ => rfl⟩)

theorem noteTask_works {r s : State} (h : Works r s) (f : Frame) (j : AttJob) (e : Nat) (t1 : Nat) (work : List (List TileResult)) :
    Works r (State.noteTask s f j e t1 work) := by
  unfold State.noteTask
  try dsimp only
  repeat' with_reducible first | assumption | apply count_works | apply raiseNonfinite_works | apply worksFold | split

theorem writeOutputs_works {r s : State} (h : Works r s) (f : Frame) (b : BitVec 1024) (c : Nat) (rot : Bool) (ls : Lines) (get : Ix → OutPos) :
    Works r (State.writeOutputs s f b c rot ls get) := by
  unfold State.writeOutputs
  try dsimp only
  repeat' with_reducible first | assumption | apply writeTensor_works | apply worksFold | split

theorem writeRows_works {r s : State} (h : Works r s) (f : Frame) (j : AttJob) (h1 : Nat) (tq : Nat) (get : Ix → BitVec 32) :
    Works r (State.writeRows s f j h1 tq get) := by
  unfold State.writeRows
  try dsimp only
  repeat' with_reducible first | assumption | apply writeOutputs_works | apply raiseNonfinite_works | apply worksFold | split

theorem writePlain_works {r s : State} (h : Works r s) (t1 : Target) (ls : Lines) (get : Ix → OutPos) :
    Works r (State.writePlain s t1 ls get) := by
  unfold State.writePlain
  try dsimp only
  repeat' with_reducible first | assumption | apply write_works

theorem writeLse_works {r s : State} (h : Works r s) (f : Frame) (j : AttJob) (h1 : Nat) (tq : Nat) (lse : Nat → BitVec 32) :
    Works r (State.writeLse s f j h1 tq lse) := by
  unfold State.writeLse
  try dsimp only
  repeat' with_reducible first | assumption | apply writePlain_works

theorem writeStates_works {r s : State} (h : Works r s) (f : Frame) (j : AttJob) (h1 : Nat) (tq : Nat) (sts : List RowState) :
    Works r (State.writeStates s f j h1 tq sts) := by
  unfold State.writeStates
  try dsimp only
  repeat' with_reducible first | assumption | apply writeRows_works | apply writeLse_works | apply count_works | apply worksFold | split | intro _ | refine works_mk _ _ ?_

theorem freeTile_works {r s : State} (h : Works r s) (b : Barge) (t1 : Nat) :
    Works r (State.freeTile s b t1) := by
  unfold State.freeTile
  try dsimp only
  repeat' with_reducible first | assumption | apply worksFold | split | intro _ | refine works_mk _ _ ?_

theorem drainForward_works {r s : State} (h : Works r s) (b : Barge) (e : Nat) (t1 : Nat) :
    Works r (State.drainForward s b e t1) := by
  unfold State.drainForward
  try dsimp only
  repeat' with_reducible first | assumption | apply noteTask_works | apply writeStates_works | apply freeTile_works | apply worksFold | split | intro _ | refine works_mk _ _ ?_

theorem drainPartial_works {r s : State} (h : Works r s) (b : Barge) (e : Nat) (t1 : Nat) :
    Works r (State.drainPartial s b e t1) := by
  unfold State.drainPartial
  try dsimp only
  repeat' with_reducible first | assumption | apply writeAt_works | apply noteTask_works | apply worksFold | split | intro _

theorem drainJoin_works {r s : State} (h : Works r s) (b : Barge) (t1 : Nat) :
    Works r (State.drainJoin s b t1) := by
  unfold State.drainJoin
  try dsimp only
  repeat' with_reducible first | assumption | apply writeStates_works

theorem drainBackward_works {r s : State} (h : Works r s) (b : Barge) (e : Nat) (t1 : Nat) :
    Works r (State.drainBackward s b e t1) := by
  unfold State.drainBackward
  try dsimp only
  repeat' with_reducible first | assumption | apply count_works | apply backward_works | apply worksFold | split

theorem drainRope_works {r s : State} (h : Works r s) (b : Barge) (t1 : Nat) :
    Works r (State.drainRope s b t1) := by
  unfold State.drainRope
  try dsimp only
  repeat' with_reducible first | assumption | apply writeRows_works

theorem drainAttention_works {r s : State} (h : Works r s) (b : Barge) (e : Nat) (t1 : Nat) :
    Works r (State.drainAttention s b e t1) := by
  unfold State.drainAttention
  try dsimp only
  repeat' with_reducible first | assumption | apply drainForward_works | apply drainPartial_works | apply drainJoin_works | apply drainBackward_works | apply drainRope_works | apply worksFold | split

theorem drainTile_works {r s : State} (h : Works r s) (f : Frame) (d : BitVec 1024) (p : Product) (t1 : Tile) :
    Works r (State.drainTile s f d p t1) := by
  unfold State.drainTile
  try dsimp only
  repeat' with_reducible first | assumption | apply writeOutputs_works | apply count_works | apply raiseNonfinite_works | apply worksFold | split

theorem drainProduct_works {r s : State} (h : Works r s) (b : Barge) (key : Nat) (t1 : Nat) :
    Works r (State.drainProduct s b key t1) := by
  unfold State.drainProduct
  try dsimp only
  repeat' with_reducible first | assumption | apply promoteTo_works | apply drainTile_works | apply freeTile_works | apply worksFold | split | intro _ | refine works_mk _ _ ?_

theorem mapTask_works {r s : State} (h : Works r s) (f : Frame) (d : BitVec 1024) (kid : Nat) (t1 : Nat) :
    Works r (State.mapTask s f d kid t1) := by
  unfold State.mapTask
  try dsimp only
  repeat' with_reducible first | assumption | apply writeOutputs_works | apply raiseNonfinite_works | apply worksFold | split

theorem noteReduction_works {r s : State} (h : Works r s) (f : Frame) (empty : Nat) (bad : Nat) :
    Works r (State.noteReduction s f empty bad) := by
  unfold State.noteReduction
  try dsimp only
  repeat' with_reducible first | assumption | apply count_works | apply raiseNonfinite_works | apply worksFold | split

theorem noteRows_works {r s : State} (h : Works r s) (f : Frame) (rs : List RedResult) :
    Works r (State.noteRows s f rs) := by
  unfold State.noteRows
  try dsimp only
  repeat' with_reducible first | assumption | apply noteReduction_works

theorem rowStage_works {r s : State} (h : Works r s) (f : Frame) (d : BitVec 1024) (kid : Nat) (code : Nat) (final : Bool) (rs : List Nat) :
    Works r (State.rowStage s f d kid code final rs) := by
  unfold State.rowStage
  try dsimp only
  repeat' with_reducible first | assumption | apply noteRows_works | apply writeAt_works | apply worksFold | split | intro _ | refine works_mk _ _ ?_

theorem reduceRows_works {r s : State} (h : Works r s) (f : Frame) (d : BitVec 1024) (rs : List Nat) :
    Works r (State.reduceRows s f d rs) := by
  unfold State.reduceRows
  try dsimp only
  repeat' with_reducible first | assumption | apply noteReduction_works | apply writeAt_works | apply noteRows_works | apply worksFold | split | intro _

theorem listPass_works {r s : State} (h : Works r s) (d : BitVec 1024) (t1 : Nat) :
    Works r (State.listPass s d t1) := by
  unfold State.listPass
  try dsimp only
  repeat' with_reducible first | assumption | apply writeAt_works | apply worksFold | split | intro _

theorem expandTask_works {r s : State} (h : Works r s) (b : Barge) (t1 : Nat) :
    Works r (State.expandTask s b t1) := by
  unfold State.expandTask
  try dsimp only
  repeat' with_reducible first | assumption | apply writeAt_works | apply event_works | apply count_works | apply worksFold | split

theorem rotateTask_works {r s : State} (h : Works r s) (f : Frame) (d : BitVec 1024) (inverse : Bool) (t1 : Nat) :
    Works r (State.rotateTask s f d inverse t1) := by
  unfold State.rotateTask
  try dsimp only
  repeat' with_reducible first | assumption | apply writeOutputs_works

theorem drainVector_works {r s : State} (h : Works r s) (b : Barge) (t1 : Nat) :
    Works r (State.drainVector s b t1) := by
  unfold State.drainVector
  try dsimp only
  repeat' with_reducible first | assumption | apply mapTask_works | apply rowStage_works | apply reduceRows_works | apply countPass_works | apply listPass_works | apply expandTask_works | apply rotateTask_works | apply worksFold | split

theorem drainTask_works {r s : State} (h : Works r s) (b : Barge) (key : Nat) (t1 : Nat) :
    Works r (State.drainTask s b key t1) := by
  unfold State.drainTask
  try dsimp only
  repeat' with_reducible first | assumption | apply drainProduct_works | apply drainAttention_works | apply drainVector_works | apply worksFold | split

theorem draws_works {r s : State} (h : Works r s) (n : Nat) : Works r (s.draws n).2 := by
  induction n generalizing s with
  | zero => exact h
  | succ n ih =>
    unfold State.draws
    exact ih (draw_works h)

theorem draws_works_pair {r s : State} (h : Works r s) (n : Nat) {x y} (e : State.draws s n = (x, y)) : Works r y := by
  have k := draws_works h n
  rwa [e] at k

theorem emptyDrain_works {r s : State} (h : Works r s) (e slot n : Nat) : Works r (s.emptyDrain e slot n).2 :=
  draws_works h _

theorem noteLimit_works {r s : State} (h : Works r s) (c : Nat) (idx : Nat) (fmt : Nat) (x : ℤ) :
    Works r (State.noteLimit s c idx fmt x) := by
  unfold State.noteLimit
  try dsimp only
  repeat' with_reducible first | assumption | apply event_works | apply count_works | apply worksFold | split

theorem rescale_works {r s : State} (h : Works r s) (c : Nat) (idx : Nat) :
    Works r (State.rescale s c idx) := by
  unfold State.rescale
  try dsimp only
  repeat' with_reducible first | assumption | apply setScale_works | apply noteLimit_works | apply worksFold | split

theorem writeHistory_works {r s : State} (h : Works r s) (c : Nat) (st : Nat) (idx : Nat) :
    Works r (State.writeHistory s c st idx) := by
  unfold State.writeHistory
  try dsimp only
  repeat' with_reducible first | assumption | apply rescale_works | apply setScale_works | apply worksFold | split

theorem scaleWork_works {r s : State} (h : Works r s) (c : Nat) (st : Nat) :
    Works r (State.scaleWork s c st) := by
  unfold State.scaleWork
  try dsimp only
  repeat' with_reducible first | assumption | apply writeHistory_works | apply showHistory_works | apply setReg64_works | apply worksFold | split | intro _

theorem stopCtx_works {r s : State} (h : Works r s) (c : Nat) :
    Works r (State.stopCtx s c) := by
  unfold State.stopCtx
  try dsimp only
  repeat' with_reducible first | assumption | apply updCtx_works | apply setCtxState_works | apply setPhase_works | apply on_works

theorem nextRun_works {r s : State} (h : Works r s) (c : Nat) (n : Nat) :
    Works r (State.nextRun s c n) := by
  unfold State.nextRun
  try dsimp only
  repeat' with_reducible first | assumption | apply updCtx_works | apply stopCtx_works | apply worksFold | split

theorem flip_works {r s : State} (h : Works r s) (c : Nat) (n : Nat) :
    Works r (State.flip s c n) := by
  unfold State.flip
  try dsimp only
  repeat' with_reducible first | assumption | apply off_works | apply put_works | apply count_works | apply updCtx_works | apply boundary_works | apply scaleWork_works | apply setPhase_works | apply nextRun_works | apply worksFold | split

theorem evalEnd_works {r s : State} (h : Works r s) (c : Nat) (n : Nat) :
    Works r (State.evalEnd s c n) := by
  unfold State.evalEnd
  try dsimp only
  repeat' with_reducible first | assumption | apply off_works | apply clearSuspect_works | apply updCtx_works | apply stopCtx_works | apply setCtxState_works | apply worksFold | split

theorem startCapture_works {r s : State} (h : Works r s) (c : Nat) :
    Works r (State.startCapture s c) := by
  unfold State.startCapture
  try dsimp only
  repeat' with_reducible first | assumption | apply updCtx_works | apply event_works | apply dropExport_works | apply setSlot_works | apply writeAt_works | apply setCtx_works | apply worksFold | split

theorem skipEnd_works {r s : State} (h : Works r s) (c : Nat) (n : Nat) :
    Works r (State.skipEnd s c n) := by
  unfold State.skipEnd
  try dsimp only
  repeat' with_reducible first | assumption | apply countField_works | apply count_works | apply event_works | apply boundary_works | apply clearAmax_works | apply discardFeed_works | apply startCapture_works | apply stopCtx_works | apply complete_works | apply nextRun_works | apply worksFold | split

theorem endRun_works {r s : State} (h : Works r s) (c : Nat) (n : Nat) :
    Works r (State.endRun s c n) := by
  unfold State.endRun
  try dsimp only
  repeat' with_reducible first | assumption | apply flip_works | apply evalEnd_works | apply skipEnd_works | apply worksFold | split

theorem expireCapture_works {r s : State} (h : Works r s) (c : Nat) (n : Nat) :
    Works r (State.expireCapture s c n) := by
  unfold State.expireCapture
  try dsimp only
  repeat' with_reducible first | assumption | apply abandonCapture_works | apply worksFold | split

theorem failCommit_works {r s : State} (h : Works r s) (c : Nat) (v : BitVec 256) (skip : Bool) :
    Works r (State.failCommit s c v skip) := by
  unfold State.failCommit
  try dsimp only
  repeat' with_reducible first | assumption | apply event_works | apply count_works | apply worksFold | split

theorem passCommit_works {r s : State} (h : Works r s) (c : Nat) :
    Works r (State.passCommit s c) := by
  unfold State.passCommit
  try dsimp only
  repeat' with_reducible first | assumption | apply on_works | apply setReg64_works | apply updCtx_works | apply setPhase_works | apply worksFold | split

theorem lateCommit_works {r s : State} (h : Works r s) (c : Nat) (v : BitVec 256) :
    Works r (State.lateCommit s c v) := by
  unfold State.lateCommit
  try dsimp only
  repeat' with_reducible first | assumption | apply passCommit_works | apply showVerdicts_works | apply updCtx_works | apply worksFold | split

theorem pulse_works {r s : State} (h : Works r s) :
    Works r (State.pulse s) := by
  unfold State.pulse
  try dsimp only
  repeat' with_reducible first | assumption | apply emit_works | apply worksFold | split | intro _ | refine works_mk _ _ ?_

theorem tickDie_works {r s : State} (h : Works r s) (n : Nat) (d : Nat) :
    Works r (State.tickDie s n d) := by
  unfold State.tickDie
  try dsimp only
  repeat' with_reducible first | assumption | apply put_works | apply on_works | apply showEngine_works | apply worksFold | split | intro _ | refine works_mk _ _ ?_

theorem tickEngines_works {r s : State} (h : Works r s) (n : Nat) :
    Works r (State.tickEngines s n) := by
  unfold State.tickEngines
  try dsimp only
  repeat' with_reducible first | assumption | apply tickDie_works | apply countField_works | apply worksFold | split | intro _ | refine works_mk _ _ ?_

theorem stageAt_works {r s : State} (h : Works r s) (c : Nat) (n : Nat) (r1 : Run) :
    Works r (State.stageAt s c n r1) := by
  unfold State.stageAt
  try dsimp only
  repeat' with_reducible first | assumption | apply stage_works | apply updCtx_works | apply worksFold | split

theorem startEval_works {r s : State} (h : Works r s) (c : Nat) :
    Works r (State.startEval s c) := by
  unfold State.startEval
  try dsimp only
  repeat' with_reducible first | assumption | apply on_works | apply updCtx_works

theorem noteBootstrap_works {r s : State} (h : Works r s) (c : Nat) (k : PlanKind) :
    Works r (State.noteBootstrap s c k) := by
  unfold State.noteBootstrap
  try dsimp only
  repeat' with_reducible first | assumption | apply event_works | apply count_works | apply worksFold | split

theorem startStep_works {r s : State} (h : Works r s) (c : Nat) (k : PlanKind) :
    Works r (State.startStep s c k) := by
  unfold State.startStep
  try dsimp only
  repeat' with_reducible first | assumption | apply updCtx_works | apply clearAmax_works | apply clearStep_works | apply off_works | apply setPhase_works | apply on_works | apply noteBootstrap_works

theorem stageCtx_works {r s : State} (h : Works r s) (c : Nat) (n : Nat) :
    Works r (State.stageCtx s c n) := by
  unfold State.stageCtx
  try dsimp only
  repeat' with_reducible first | assumption | apply delayRun_works | apply stageAt_works | apply startEval_works | apply declineGroup_works | apply startStep_works | apply worksFold | split | intro _

theorem otherDrain_works {r s : State} (h : Works r s) (e slot task n : Nat) : Works r (s.otherDrain e slot task n).2 :=
  draws_works h _

theorem readDocs_works {r s : State} (h : Works r s) (f : Frame) (d : BitVec 1024) :
    Works r (State.readDocs s f d).1 := by
  unfold State.readDocs
  try dsimp only
  repeat' with_reducible first | assumption | apply put_works | apply event_works | apply count_works | apply raiseNonfinite_works | apply worksFold | split

theorem readDocs_works_pair {r s : State} (h : Works r s) (f : Frame) (d : BitVec 1024) {x y} (e : State.readDocs s f d = (x, y)) : Works r x := by
  have k := readDocs_works h f d
  rwa [e] at k

theorem retire_works {r s : State} (h : Works r s) (e : Nat) (k : Nat) (t1 : Nat) :
    Works r (State.retire s e k t1) := by
  unfold State.retire
  try dsimp only
  repeat' with_reducible first | assumption | apply count_works | apply showEngine_works | apply worksFold | split | intro _ | refine works_mk _ _ ?_

theorem writeMasters_works {r s : State} (h : Works r s) (f : Frame) (d : BitVec 1024) (xs : List (Nat × Byte)) :
    Works r (State.writeMasters s f d xs) := by
  unfold State.writeMasters
  try dsimp only
  repeat' with_reducible first | assumption | apply writePlain_works | apply write_works | apply writeAt_works

theorem writeMoment_works {r s : State} (h : Works r s) (f : Frame) (off : Nat) (vs : List (BitVec 32)) :
    Works r (State.writeMoment s f off vs).1 := by
  unfold State.writeMoment
  try dsimp only
  repeat' with_reducible first | assumption | apply writeAt_works

theorem writeMoment_works_pair {r s : State} (h : Works r s) (f : Frame) (off : Nat) (vs : List (BitVec 32)) {x y} (e : State.writeMoment s f off vs = (x, y)) : Works r x := by
  have k := writeMoment_works h f off vs
  rwa [e] at k

theorem updateAll_works {r s : State} (h : Works r s) (f : Frame) (d : BitVec 1024) (h1 : Hyper) :
    Works r (State.updateAll s f d h1) := by
  unfold State.updateAll
  try dsimp only
  repeat' with_reducible first | assumption | apply writeMasters_works | apply writeMoment_works | refine writeMoment_works_pair ?_ ‹_› | apply on_works | apply worksFold | split

theorem runUpdate_works {r s : State} (h : Works r s) (f : Frame) (d : BitVec 1024) :
    Works r (State.runUpdate s f d) := by
  unfold State.runUpdate
  try dsimp only
  repeat' with_reducible first | assumption | apply badHyper_works | apply updateAll_works | apply worksFold | split

theorem sendSched_works {r s : State} (h : Works r s) (payload : List Byte) :
    Works r (State.sendSched s payload) := by
  unfold State.sendSched
  try dsimp only
  repeat' with_reducible first | assumption | apply queuePacket_works | apply worksFold | split | intro _

theorem search_works {r s : State} (h : Works r s) (b : Barge) (e : Nat) (k : Nat) :
    Works r (State.search s b e k) := by
  unfold State.search
  try dsimp only
  repeat' with_reducible first | assumption | apply stealFrom_works | apply worksFold | split

theorem secondPass_works {r s : State} (h : Works r s) (b : Barge) :
    Works r (State.secondPass s b) := by
  unfold State.secondPass
  try dsimp only
  repeat' with_reducible first | assumption | apply closePass_works | apply put_works | apply dealOut_works | apply worksFold | split | intro _ | refine works_mk _ _ ?_

theorem sendVerdict_works {r s : State} (h : Works r s) (b : Barge) (bs : List Byte) :
    Works r (State.sendVerdict s b bs) := by
  unfold State.sendVerdict
  try dsimp only
  repeat' with_reducible first | assumption | apply sendTo_works | apply worksFold | split | intro _

theorem sendVote_works {r s : State} (h : Works r s) (b : Barge) (rec : List Byte) :
    Works r (State.sendVote s b rec) := by
  unfold State.sendVote
  try dsimp only
  repeat' with_reducible first | assumption | apply sendTo_works

theorem showAttention_works {r s : State} (h : Works r s) (b : Barge) :
    Works r (State.showAttention s b) := by
  unfold State.showAttention
  try dsimp only
  repeat' with_reducible first | assumption | apply put_works | apply on_works

theorem slotDrain_works {r s : State} (h : Works r s) (e slot : Nat) : Works r (s.slotDrain e slot).2 := by
  unfold State.slotDrain
  dsimp only
  generalize noTotals = z
  split
  · split
    · exact h
    · split
      · exact otherDrain_works h _ _ _ _
      · exact emptyDrain_works h _ _ _
  · exact emptyDrain_works h _ _ _

theorem slotDrain_works_pair {r s : State} (h : Works r s) (e slot : Nat) {x y} (k : State.slotDrain s e slot = (x, y)) :
    Works r y := by
  have k' := slotDrain_works h e slot
  rwa [k] at k'

theorem startAttention_works {r s : State} (h : Works r s) (i : Nat) (b : Barge) (regions : List (Nat × Nat)) :
    Works r (State.startAttention s i b regions) := by
  unfold State.startAttention
  try dsimp only
  repeat' with_reducible first | assumption | apply reading_works | apply readDocs_works | refine readDocs_works_pair ?_ ‹_› | apply startArray_works | apply showAttention_works | apply worksFold | split | intro _

theorem startMatrix_works {r s : State} (h : Works r s) (i : Nat) (b : Barge) :
    Works r (State.startMatrix s i b) := by
  unfold State.startMatrix
  try dsimp only
  repeat' with_reducible first | assumption | apply reading_works | apply startArray_works | apply worksFold | split | intro _

theorem startUpdate_works {r s : State} (h : Works r s) (i : Nat) (b : Barge) {g : Frame → BitVec 1024 → State → State} (hg : ∀ a0 a1 t, Works r t → Works r (g a0 a1 t)) :
    Works r (State.startUpdate s i b g) := by
  unfold State.startUpdate
  try dsimp only
  repeat' with_reducible first | assumption | apply hg | apply tryFinish_works | apply touch_works | refine touch_works_pair ?_ ‹_› | apply on_works | apply undefine_works | apply worksFold | split

theorem startVote_works {r s : State} (h : Works r s) (b : Barge) :
    Works r (State.startVote s b) := by
  unfold State.startVote
  try dsimp only
  repeat' with_reducible first | assumption | apply reading_works | apply setPhase_works | apply updCtx_works | apply sendVote_works | apply worksFold | split | intro _

theorem stashLoad_works {r s : State} (h : Works r s) (b : Barge) :
    Works r (State.stashLoad s b) := by
  unfold State.stashLoad
  try dsimp only
  repeat' with_reducible first | assumption | apply writeAt_works | apply touch_works | refine touch_works_pair ?_ ‹_› | apply event_works | apply count_works | apply on_works | apply worksFold | split | intro _

theorem stashSave_works {r s : State} (h : Works r s) (b : Barge) :
    Works r (State.stashSave s b) := by
  unfold State.stashSave
  try dsimp only
  repeat' with_reducible first | assumption | apply writeAt_works | apply count_works

theorem steal_works {r s : State} (h : Works r s) (e : Nat) :
    Works r (State.steal s e) := by
  unfold State.steal
  try dsimp only
  repeat' with_reducible first | assumption | apply search_works | apply worksFold | split

theorem storeVerdict_works {r s : State} (h : Works r s) (b : Barge) (bs : List Byte) :
    Works r (State.storeVerdict s b bs) := by
  unfold State.storeVerdict
  try dsimp only
  repeat' with_reducible first | assumption | apply writeAt_works | apply worksFold | split

theorem takeCommit_works {r s : State} (h : Works r s) (i : Nat) (b : Barge) (v : BitVec 256) :
    Works r (State.takeCommit s i b v) := by
  unfold State.takeCommit
  try dsimp only
  repeat' with_reducible first | assumption | apply showVerdicts_works | apply updCtx_works | apply sendVerdict_works | apply storeVerdict_works | apply passCommit_works | apply failCommit_works | apply tryFinish_works | apply worksFold | split

theorem writeVerify_works {r s : State} (h : Works r s) (c : Nat) (j : Nat) (p : BitVec 512) :
    Works r (State.writeVerify s c j p) := by
  unfold State.writeVerify
  try dsimp only
  repeat' with_reducible first | assumption | apply writeAt_works | apply worksFold | split

theorem takeVerdict_works {r s : State} (h : Works r s) (i : Nat) (b : Barge) (v : BitVec 2048) :
    Works r (State.takeVerdict s i b v) := by
  unfold State.takeVerdict
  try dsimp only
  repeat' with_reducible first | assumption | apply showVerdicts_works | apply updCtx_works | apply sendVerdict_works | apply storeVerdict_works | apply setPhase_works | apply put_works | apply tryFinish_works | apply event_works | apply abortSteps_works | apply compareVerify_works | apply writeVerify_works | apply worksFold | split

theorem testDrain_works {r s : State} (h : Works r s) (b : Barge) : Works r (s.testDrain b) := by
  unfold State.testDrain
  dsimp only
  refine writeAt_works (drainArray_works h _ (fun t k => ?_)) _ _
  exact slotDrain_works (slotDrain_works k _ 0) _ 1

theorem testEngine_works {r s : State} (h : Works r s) (b : Barge) (sigs : List (BitVec 64)) :
    Works r (State.testEngine s b sigs) := by
  unfold State.testEngine
  try dsimp only
  repeat' with_reducible first | assumption | apply draws_works | refine draws_works_pair ?_ ‹_› | apply writeAt_works | apply event_works

theorem testScrub_works {r s : State} (h : Works r s) (b : Barge) : Works r (s.testScrub b) := by
  unfold State.testScrub
  refine writeAt_works ?_ _ _
  generalize s.hbmSectors _ = l
  have key : ∀ (l : List Nat) (s : State) (i j : Nat), Works r s → Works r (l.foldl (fun (s, fixed, bad) n =>
      match s.scrubSector n with
      | (s, .corrected) => (s, fixed + 1, bad)
      | (s, .uncorrectable) => (s, fixed, bad + 1)
      | (s, .good) => (s, fixed, bad)) (s, i, j)).1 := by
    intro l
    induction l with
    | nil => exact fun _ _ _ h => h
    | cons n l ih =>
      intro s i j h
      rw [List.foldl_cons]
      have k := scrubSector_works h n
      dsimp only
      generalize s.scrubSector n = q at k
      obtain ⟨t, o⟩ := q
      cases o <;> exact ih _ _ _ k
  exact key l s 0 0 h

theorem updateCopy_works {r s : State} (h : Works r s) (f : Frame) (d : BitVec 1024) :
    Works r (State.updateCopy s f d) := by
  unfold State.updateCopy
  try dsimp only
  repeat' with_reducible first | assumption | apply writeAt_works | apply writeMasters_works | apply worksFold | split

end Sys2Proof.Machine
end

