-- ==== Sys2Proof/WellFormed.lean ====
section
/-! DEFINITION. Well-formed commands: the operands that a type does not bound already lie in the range the spec gives them.
The machine is total on every command, well-formed or not; this says which of them something outside can send. -/

namespace Sys2Proof

/-- Barges of a manifest (Table 01-2): a position is below this. -/
def maxBarges : Nat := 4096

/-- Bytes of BAR0 and of BAR2 (R457). -/
def bar0Bytes : Nat := 2 ^ 26
def bar2Bytes : Nat := 2 ^ 34

/-- R320: a packet's payload is at most 4,096 bytes long, and its header says how long. -/
def Packet.wf (p : Packet) : Bool := decide (p.payload.length ≤ 4096) && p.hdr.toNat / 2 ^ 96 % 2 ^ 13 == p.payload.length

/-- Whether something outside the device can send the command. -/
def Instr.wf : Instr → Bool
  | .bargeComplete i _ | .nop i | .notify i | .controlFence i | .product i | .batched i | .counted i | .map i
  | .row i | .rowStageStart i | .reduce i | .compress i | .expand i | .rotate i | .unrotate i | .forward i
  | .partialSegments i | .join i | .backward i | .rope i | .copy i | .copy2d i | .fill i | .stashSave i
  | .stashLoad i | .adam i | .momentum i | .updateCopy i | .voteStep i | .voteCommit i | .reduceScatter i
  | .allReduce i | .allGather i | .broadcast i | .shift i | .allToAll i | .amaxAgree i | .cstatAgree i
  | .testEngine i _ | .testDrain i | .testScrub i => decide (i < maxBarges)
  | .put _ pk | .putAck _ pk | .sched _ pk _ | .stretchReq _ pk _ | .abort _ pk | .agree _ pk
  | .mgmt _ pk _ => pk.wf
  | .packetForward _ x => x.packet.wf
  | .registerWrite a size _ | .reg64LowHalfRead ⟨a, size⟩ | .reg64HighHalfRead ⟨a, size⟩ =>
    decide (a + size ≤ bar0Bytes) && [1, 2, 4, 8].contains size
  | .reg64LowHalfWrite a _ | .reg64HighHalfWrite a _ => decide (a + 4 ≤ bar0Bytes) && a % 4 == 0
  | .i3cRegisterRead a | .i3cRegisterWrite a _ => decide (a + 4 ≤ bar0Bytes) && a % 4 == 0
  | .bar2Read x len => decide (1 ≤ len) && decide (x + len ≤ bar2Bytes)
  | .bar2Write x bytes => decide (1 ≤ bytes.length) && decide (x + bytes.length ≤ bar2Bytes)
  | .sqDoorbell _ _ entries => decide (entries.length < 65536)
  | .lockTick | .workWindowOpen | .projectEndEvaluation _ | .workWindowClose | .drainEnd _ | .tickInEdge _
  | .schedSend | .timeExchange _ | .ftcSyncTimeout _ | .codebookLoad _ | .codebookLoadEnd | .nonfiniteOutRead
  | .scaleRead _ | .scaleReadCopy | .scaleUpdateComplete _ | .sluiceRebuildDone _ | .planRetimeDone _ | .taskClaim _
  | .taskSteal _ | .stealRetry _ | .splitkSlotRetry _ | .tileDrain _ _ | .computeClockChange _ _ | .add _ _
  | .sub _ _ | .mul _ _ | .fma _ _ | .min _ _ | .max _ _ | .abs _ _ | .neg _ _ | .copysign _ _ | .mov _ _ | .div _ _
  | .sqrt _ _ | .rcp _ _ | .rsqrt _ _ | .exp2 _ _ | .log2 _ _ | .exp _ _ | .log _ _ | .tanh _ _ | .sigmoid _ _
  | .erf _ _ | .sinpi _ _ | .cospi _ _ | .cmpeq _ _ | .cmpne _ _ | .cmplt _ _ | .cmple _ _ | .cmpun _ _ | .sel _ _
  | .iadd _ _ | .isub _ _ | .imul _ _ | .and _ _ | .or _ _ | .xor _ _ | .shl _ _ | .shr _ _ | .icmplt _ _
  | .icmpeq _ _ | .cvtif _ _ | .cvtfi _ _ | .rndbf16 _ _ | .rndf16 _ _ | .rand _ _ | .stepVerdict _ _
  | .commitVerdict _ _ | .testSliceEnd _ _ | .resumeContext _ | .clearSkipRun _ | .cstatRead _ | .cstatReadCopy
  | .retrainPhaseEnd _ | .stackTemperatureRead _ _ | .refreshManagementRequest _ | .marginSweep _
  | .marginSweepEnd _ _ _ | .memXlate _ | .dataFlit _ _ | .idleFlit _ _ | .nak _ _ | .hello _ _
  | .time _ _ _ | .eq _ _ | .linkSilence _ | .linkTrainingFailed _ | .linkRetrain _ | .linkUp _ | .portAccept _
  | .equalisationStepEnd _ | .putResend _ | .agreementMax _ | .agreementMin _ | .agreementTimeout
  | .groupTableWrite _ _ | .ctxEpochWrite _ _ | .lockstepMismatch _ | .ucieLinkRecovery _ _ | .watchtowerEval
  | .watchtowerWindowAdvance | .graceExpiry | .recorderRead _ | .recorderReadCopy | .watchdogSample
  | .computeResetTimeout | .recoveryTimeout | .computeReset _ | .deviceRecovery _ | .contextTeardown _
  | .resetDrainEnd _ | .computeResetDone _ | .deviceRecoveryDone _ | .teardownDrainEnd _ _ | .quarantineFree _
  | .captureNext _ | .seal _ | .sealAck | .sealTimeout | .restore _ _ | .restoreSourceTimeout | .bindBuddy _ _
  | .buddyTimeout | .snapshotStart _ | .captureComplete _ | .captureGapExpiry _ | .snapshotExport _ | .exportAck _
  | .wardCopyReceived _ _ _ | .fwWrite _ | .fwCommit _ | .fwConfirm _ | .siteWrite _ | .enrol _ | .release _ _
  | .flashCommandDone | .enterStandby | .leaveStandby | .leaveStandbyDone _ | .enterOff | .doeDiscovery _
  | .getVersion _ | .getCapabilities _ | .negotiateAlgorithms _ | .getDigests _ | .getCertificate _ | .challenge _
  | .getMeasurements _ | .spdmUnsupportedRequest _ | .cqHeadDoorbell _ _ | .queueConfigWrite _ _ _ | .load _
  | .imageFetched _ _ | .loadHbm _ _ | .start _ | .eval _ | .pause _ | .sqFence _ | .heartbeat | .msixMessage _
  | .hotReset | .pmcsrWrite _ | .coldPowerOn | .pwrGoodFall | .undervoltageShutdown | .perstNAssert | .boot _
  | .powerSample _ _ | .dieThermalSample _ _ | .thermalTrip _ _ | .sensorSample _ _ | .leakNLow | .alarmClear _
  | .i3cDynamicAddress _ | .disec | .wake _ | .pwrLimitWrite _ | .sramScrub _ | .pwrGoodRise | .lossOf48vFeed => true

end Sys2Proof
end

