-- ==== Sys2Proof/Tests/Slice0.lean ====
section
/-! SUPPORT. Tests: ill-formed commands that the check refuses, states and operands that meet the hypotheses of each
statement, and values that the spec gives. -/

namespace Sys2Proof.Tests

open Sys2Proof.Machine

set_option Elab.async false

/-! ## Small states -/

/-- The module in service: the Lockkeeper and the dies are powered, and boot has finished. -/
def live : State :=
  { State.reset with
    regs := [(R.BOOT_STATUS, 0x60000000#32)]
    module := { State.reset.module with power := .on } }

/-- A barge of a CLASS and OP, its other fields as one number. -/
def bargeOf (cls op rest : Nat) : Barge := ⟨BitVec.ofNat 1024 (cls + 256 * op + rest), 0, 0, false, false, .waiting⟩

/-- The work window is open over an active manifest. -/
def window (bs : List Barge) : State :=
  { live with lock := { live.lock with fired := true, windowOpen := true, active := bs } }

/-- A barge that runs since FTC 0. -/
def running (b : Barge) : Barge := { b with state := .running 0 }

/-- The array works on the barge at position 0, with tasks in the queue of cluster 0. -/
def busyArray (b : Barge) (tasks : List Nat) : State :=
  { window [running b] with
    array := { barge := some 0, queues := [(0, tasks)] } }

/-- A context in live with some of its state replaced. -/
def withCtx (s : State) (c : Nat) (x : Ctx) : State := s.setCtx c x

/-- An image with nothing in it. -/
def someImage : Image := emptyImage

/-! ## Ill-formed commands -/

theorem test_wf_barge_position : (Instr.copy 4096).wf = false ∧ (Instr.copy 4095).wf = true := by decide
theorem test_wf_write_size : (Instr.registerWrite 0 3 0).wf = false ∧ (Instr.registerWrite 0 4 0).wf = true := by decide
theorem test_wf_write_offset : (Instr.registerWrite 0x4000000 4 0).wf = false := by decide
theorem test_wf_half_size : (Instr.reg64LowHalfRead ⟨0, 3⟩).wf = false ∧ (Instr.reg64LowHalfRead ⟨8, 4⟩).wf = true := by decide
theorem test_wf_i3c_offset : (Instr.i3cRegisterRead 1).wf = false ∧ (Instr.i3cRegisterRead 4).wf = true := by decide
theorem test_wf_bar2_read : (Instr.bar2Read 0x400000000 1).wf = false ∧ (Instr.bar2Read 0 0).wf = false := by decide
theorem test_wf_bar2_write : (Instr.bar2Write 0 []).wf = false ∧ (Instr.bar2Write 0 [1]).wf = true := by decide
theorem test_wf_packet_length : (Instr.put 0 ⟨0, [1]⟩).wf = false ∧ (Instr.put 0 ⟨0, []⟩).wf = true := by decide
theorem test_wf_entries (es : List (BitVec 512)) (h : es.length = 65536) : (Instr.sqDoorbell 0 0 es).wf = false := by
  simp [Instr.wf, h]

/-! ## What meets the common hypotheses -/

/-- Where no region lies in HBM and no word holds an error there is nothing to read that could fail. -/
theorem clean_of {s : State} (h : s.hbmEnd = 0) (hs : s.health.sram = []) (r : List (Nat × Nat)) : s.clean r :=
  ⟨by simp [State.hbmSectors, h], by simp [State.wordsFine, hs]⟩
theorem ready_of {s : State} {i cls op : Nat} {b : Barge} (hs : s.health.sram = [])
    (h : s.barge i = some b ∧ s.mayStart i = true ∧ b.cls = cls ∧ b.op = op) : s.ready i cls op b :=
  ⟨h.1, h.2.1, h.2.2.1, h.2.2.2, by simp [State.wordsFine, hs]⟩

/-! ## Witnesses: the block and its registers -/

theorem witness_stepRunsFront : ({ live with pending := [Instr.lockTick] } : State).pending = Instr.lockTick :: [] := rfl
theorem witness_emptyQueue : live.pending = [] := rfl
theorem witness_stepKeepsCanonicalForm : State.reset.wf = true ∧ ∃ t, step State.reset = .next t := ⟨by decide, _, rfl⟩
theorem witness_onlyKnownAlignedWords : regRow 0x100048 = none ∧ (2 : Nat) ≠ 4 ∧ 0x100002 % 4 ≠ 0 ∧ live.lkServes = true := by decide
theorem witness_wideRegisters :
    wideHalf R.GLOBAL_BAR2_WIN = some 0 ∧ wideHalf (R.GLOBAL_BAR2_WIN + 4) = some 1 ∧ live.served R.GLOBAL_BAR2_WIN = true ∧
    live.served (R.GLOBAL_BAR2_WIN + 4) = true ∧ live.heldLows.lookup R.GLOBAL_BAR2_WIN = none ∧
    ∃ r, regRow R.GLOBAL_BAR2_WIN = some (r, [], 0) ∧ regRow (R.GLOBAL_BAR2_WIN + 4) = some (r, [], 1) ∧ r.wide = true ∧
      R.GLOBAL_BAR2_WIN % 4 = 0 ∧ live.baseLocked r.base [] = false :=
  ⟨by decide, by decide, by decide, by decide, by decide, _, rfl, rfl, by decide, by decide, by decide⟩
theorem witness_plainRegisterWrite : ∃ r, regRow R.COMPUTE_STEAL = some (r, [], 0) ∧ r.wide = false ∧ R.COMPUTE_STEAL % 4 = 0 ∧
    live.served R.COMPUTE_STEAL = true ∧ writeEffects.lookup r.base = none ∧ live.baseLocked r.base [] = false :=
  ⟨_, rfl, by decide, by decide, by decide, by rfl, by decide⟩

/-! ## Witnesses: the lock tick -/

theorem witness_tickOpensInterval : live.lock.resetHold = false ∧ live.lock.fired = false ∧ (window []).lock.fired = true ∧
    (window []).lock.resetHold = false ∧ ({ (window []).lock with closed := true } : LockState).closed = true ∧
    (live.on F.LOCK_STATUS_TICKING).flag F.LOCK_STATUS_TICKING = true ∧ live.lock.indexNext = none ∧
    ({ live with lock := { live.lock with resetHold := true } } : State).lock.resetHold = true := by decide
theorem witness_workWindowOpens : ({ live with lock := { live.lock with fired := true } } : State).lock.fired = true ∧
    live.lock.closed = false ∧ live.lock.windowOpen = false ∧ live.lock.tick + 1000 < 2 ^ 64 ∧ (window []).lock.windowOpen = true := by decide
theorem witness_workWindowCloses : (window [bargeOf 9 0 0]).lock.windowOpen = true ∧ (window [bargeOf 9 0 0]).lock.closed = false ∧
    (window [bargeOf 9 0 0]).unfinished = true ∧ (window [bargeOf 9 0 0]).barge 0 = some (bargeOf 9 0 0) ∧
    (window []).lock.windowOpen = true ∧ (window []).unfinished = false ∧ live.lock.windowOpen = false := by decide +kernel
/-- A manifest of one array barge with a budget: at 188 µs, 11,000 clk before its window closes, 22,000 clk need about 10 µs and
44,000 clk more than the stretch limit of 25 µs. -/
def late (clk : Nat) : State := window [bargeOf 1 0 (clk * 2 ^ 96)]
theorem witness_projectEnd : ∀ clk ∈ [0, 22000, 44000],
    (late clk).lock.windowOpen = true ∧ (late clk).lock.aborted = false ∧
    (late clk).lock.tick + 1000 * ((late clk).get F.LOCK_PERIOD_PERIOD_US - (late clk).get F.LOCK_STRETCH_TIMING_LEAD_US) ≤ 188000 ∧
    188000 ≤ (late clk).lock.tick + 1000 * ((late clk).get F.LOCK_PERIOD_PERIOD_US - (late clk).get F.LOCK_STRETCH_TIMING_CUTOFF_US) ∧
    (clk = 0 → (late clk).needUs 188000 ((late clk).projectEnd 188000) ≤ (late clk).get F.LOCK_GRANT_REQUEST_US) ∧
    (clk = 22000 → (late clk).needUs 188000 ((late clk).projectEnd 188000) ≤ (late clk).stretchLimit ∧
      (late clk).get F.LOCK_GRANT_REQUEST_US < (late clk).needUs 188000 ((late clk).projectEnd 188000)) ∧
    (clk = 44000 → (late clk).stretchLimit < (late clk).needUs 188000 ((late clk).projectEnd 188000)) := by decide +kernel
/-- A tick master in an interval, with a need held. -/
def master : State :=
  { (window []).on F.LOCK_CTL_TICK_MASTER with lock := { (window []).lock with needHeld := 7 } }
theorem witness_tickMasterSchedules : master.flag F.LOCK_CTL_TICK_MASTER = true ∧ master.lock.fired = true ∧
    master.lock.schedArrived = false ∧ master.flag F.LOCK_CTL_TICK_IN_EN = false ∧ master.lock.aborted = false ∧
    0 < min master.lock.needHeld master.stretchLimit ∧ (master.on F.LOCK_CTL_TICK_IN_EN).flag F.LOCK_CTL_TICK_MASTER = true ∧
    (master.on F.LOCK_CTL_TICK_IN_EN).flag F.LOCK_CTL_TICK_IN_EN = true ∧
    (master.on F.LOCK_CTL_TICK_IN_EN).lock.fired = true ∧
    (master.on F.LOCK_CTL_TICK_IN_EN).lock.tick + 1000 * ((master.on F.LOCK_CTL_TICK_IN_EN).get F.LOCK_PERIOD_PERIOD_US +
      (master.on F.LOCK_CTL_TICK_IN_EN).lock.granted) ≤ (200000#64).toNat ∧
    live.flag F.LOCK_CTL_TICK_MASTER = false := by decide +kernel
/-- A module whose parent port is port 0, which is up. -/
def child : State := (live.on F.LINK_TICK_CFG_PARENT_VALID).setPort 0 { phase := portUp }
theorem witness_timeSynchronisation : master.flag F.LOCK_CTL_TICK_MASTER = true ∧ child.flag F.LOCK_CTL_TICK_MASTER = false ∧
    (child.at_ (5#64).toNat).parentPort = some 0 ∧ live.flag F.LOCK_CTL_TICK_MASTER = false ∧
    (live.at_ (5#64).toNat).parentPort = none ∧ (live.on F.LOCK_STATUS_FTC_LOCKED).flag F.LOCK_STATUS_FTC_LOCKED = true := by decide +kernel
theorem witness_drainEnds : (live.on F.LOCK_STATUS_DRAINING).flag F.LOCK_STATUS_DRAINING = true ∧
    (window [bargeOf 9 0 0]).barge 0 = some (bargeOf 9 0 0) ∧ ((window [bargeOf 9 0 0]).ctx (bargeOf 9 0 0).ctx).stepAborted = false ∧
    live.flag F.LOCK_STATUS_DRAINING = false ∧
    (((window [bargeOf 9 0 0]).setCtx 0 { stepAborted := true }).ctx (bargeOf 9 0 0).ctx).stepAborted = true := by decide +kernel
theorem witness_bargeCompletes : ((window [running (bargeOf 4 0 0)]).at_ (5#64).toNat).barge 0 = some (running (bargeOf 4 0 0)) ∧
    (running (bargeOf 4 0 0)).state = .running 0 ∧
    ((window [running (bargeOf 4 0 0)]).at_ (5#64).toNat).completable 0 (running (bargeOf 4 0 0)) = true ∧
    (window [running (bargeOf 4 0 0)]).ftc ≤ (5#64).toNat ∧
    bBudget (running (bargeOf 4 0 0)).desc < (11 * ((5#64).toNat - 0) + 9) / 10 := by decide +kernel
theorem witness_bargeCompletes_inTime :
    ((window [running (bargeOf 4 0 (6 * 2 ^ 96 + 2 ^ 16))]).at_ (5#64).toNat).completable 0 (running (bargeOf 4 0 (6 * 2 ^ 96 + 2 ^ 16))) =
      true ∧ (11 * ((5#64).toNat - 0) + 9) / 10 = bBudget (running (bargeOf 4 0 (6 * 2 ^ 96 + 2 ^ 16))).desc ∧
    bNotify (running (bargeOf 4 0 (6 * 2 ^ 96 + 2 ^ 16))).desc = true := by decide +kernel

/-! ## Witnesses: barges -/

/-- A barge that may start, alone in its window. -/
theorem window_ready (cls op rest : Nat) (h : (window [bargeOf cls op rest]).barge 0 = some (bargeOf cls op rest) ∧
    (window [bargeOf cls op rest]).mayStart 0 = true ∧ (bargeOf cls op rest).cls = cls ∧ (bargeOf cls op rest).op = op) :
    (window [bargeOf cls op rest]).ready 0 cls op (bargeOf cls op rest) := ready_of rfl h
theorem window_clean (bs : List Barge) (r : List (Nat × Nat)) : (window bs).clean r :=
  clean_of (show live.hbmEnd = 0 by decide +kernel) rfl r
theorem witness_controlBarges : (∀ op ∈ [0, 1, 2], (window [bargeOf 9 op 0]).ready 0 9 op (bargeOf 9 op 0)) ∧
    ((window [bargeOf 9 2 0]).ctx (bargeOf 9 2 0).ctx).stepAborted = false ∧
    (∀ e ∈ (window [bargeOf 9 2 0]).lock.active.take 0, e.ctx = (bargeOf 9 2 0).ctx → e.over = true) ∧
    (window [bargeOf 9 1 0]).cqFull 0 = true ∧ ((window [bargeOf 9 1 0]).ctx 0).cqHeld = [] ∧
    ((window [bargeOf 9 1 0]).put (F.LK_CQ_SIZE_ENTRIES 0) 2).cqFull 0 = false := by
  refine ⟨fun op h => window_ready 9 op 0 ?_, ?_⟩
  · revert op
    decide +kernel
  · decide +kernel
/-- A fence with an earlier barge of its context before it. -/
def fenced : State := window [{ bargeOf 4 0 0 with state := .running 0 }, bargeOf 9 2 0]
theorem witness_controlFence_waits : fenced.ready 1 9 2 (bargeOf 9 2 0) ∧
    ∃ e ∈ fenced.lock.active.take 1, e.ctx = (bargeOf 9 2 0).ctx ∧ e.over = false :=
  ⟨ready_of rfl (by decide +kernel), by decide +kernel⟩
/-- CLASS and OP of the array barges. -/
def arrayOps : List (Nat × Nat) :=
  [(1, 0), (1, 1), (1, 2), (2, 0), (2, 1), (2, 2), (2, 3), (2, 4), (3, 0), (3, 1), (3, 2), (3, 3), (3, 4), (3, 5), (3, 6)]
theorem witness_bargesStart_array : ∀ e ∈ arrayOps, (window [bargeOf e.1 e.2 0]).ready 0 e.1 e.2 (bargeOf e.1 e.2 0) ∧
    (window [bargeOf e.1 e.2 0]).clean ((window [bargeOf e.1 e.2 0]).arrayReads (bargeOf e.1 e.2 0)) := by
  intro e h
  refine ⟨window_ready e.1 e.2 0 ?_, window_clean _ _⟩
  revert e
  decide +kernel
/-- Group 0 has one member; a collective of eight bytes. -/
def alone (op : Nat) : State := (window [bargeOf 5 op (8 * 2 ^ 352)]).put (F.LINK_GRP_CFG_SIZE 0) 1
theorem witness_bargesStart_collective : ∀ op ∈ List.range 8, (alone op).ready 0 5 op (bargeOf 5 op (8 * 2 ^ 352)) ∧
    (alone op).clean ((alone op).coReads (bargeOf 5 op (8 * 2 ^ 352))) ∧ (alone op).coSize (bargeOf 5 op (8 * 2 ^ 352)) = 1 ∧
    (alone op).coRank (bargeOf 5 op (8 * 2 ^ 352)) = 0 ∧ coArg (bargeOf 5 op (8 * 2 ^ 352)).desc = 0 ∧
    ((alone op).ctx (bargeOf 5 op (8 * 2 ^ 352)).ctx).stepAborted = false ∧ (alone op).collectiveAt 0 = 0 ∧
    (alone op).allAcked (bargeOf 5 op (8 * 2 ^ 352)) = true ∧ coBytes (bargeOf 5 op (8 * 2 ^ 352)).desc = 8 := by
  intro op h
  refine ⟨ready_of rfl ?_, clean_of ?_ rfl _, ?_⟩ <;> revert op <;> decide +kernel
theorem witness_bargesStart_update : ∀ op ∈ [0, 1, 2], (window [bargeOf 7 op 0]).ready 0 7 op (bargeOf 7 op 0) ∧
    (window [bargeOf 7 op 0]).flag (F.TRAIN_CTX_STATUS_VERDICT_SKIP 0) = false ∧
    ((window [bargeOf 7 op 0]).on (F.TRAIN_CTX_STATUS_VERDICT_SKIP 0)).flag (F.TRAIN_CTX_STATUS_VERDICT_SKIP 0) = true ∧
    ((window [bargeOf 7 op 0]).ctx 0).stepAborted = false ∧
    (window [bargeOf 7 op 0]).clean ((window [bargeOf 7 op 0]).updateReads ((window [bargeOf 7 op 0]).frame (bargeOf 7 op 0)) (bargeOf 7 op 0).desc) ∧
    (hpCheck (op == 0) ((window [bargeOf 7 op 0]).bytes (upHp (bargeOf 7 op 0).desc) 64)).isSome = true := by
  intro op h
  refine ⟨window_ready 7 op 0 ?_, ?_, ?_, ?_, window_clean _ _, ?_⟩ <;> revert op <;> decide +kernel
/-- The second barge names the first in AFTER_A and has FENCE. -/
def after : Barge := bargeOf 9 0 (2 ^ 79 + 2 ^ 17 + 2 ^ 32)
theorem nopOnly : ∀ b, (window [bargeOf 9 1 0]).barge 0 = some b → b.cls ≠ 9 ∨ b.op ≠ 0 := by
  intro b h
  have e : (window [bargeOf 9 1 0]).barge 0 = some (bargeOf 9 1 0) := by decide +kernel
  obtain rfl := Option.some.inj (e.symm.trans h)
  right
  decide +kernel
theorem witness_nothingStartsEarly : startOf (.nop 0) = some (0, 9, 0) ∧ live.mayStart 0 = false ∧
    (∀ b, (window [bargeOf 9 1 0]).barge 0 = some b → b.cls ≠ 9 ∨ b.op ≠ 0) ∧
    (window [{ bargeOf 9 0 0 with state := .done }, after]).barge 1 = some after ∧
    (window [{ bargeOf 9 0 0 with state := .done }, after]).mayStart 1 = true ∧ bAfterA after.desc = some 0 ∧ bFence after.desc = true ∧
    (((window [bargeOf 9 0 0]).setCtx 0 { blocksHeld := true }).ctx 0).blocksHeld = true ∧
    ((window [bargeOf 9 0 0]).setCtx 0 { blocksHeld := true }).mayStart 0 = true :=
  ⟨rfl, by decide +kernel, nopOnly, by decide +kernel, by decide +kernel, by decide +kernel, by decide +kernel, by decide +kernel,
    by decide +kernel⟩
/-- A transfer of 8 bytes from 0x200 to 0x400, in two rows 16 bytes apart, or of a pattern. -/
def transfer (op : Nat) : Barge :=
  bargeOf 4 op (0x200 * 2 ^ 128 + 0x400 * 2 ^ 192 + 8 * 2 ^ 256 + 2 * 2 ^ 320 + 16 * 2 ^ 384 + 16 * 2 ^ 448)
theorem witness_transfersMoveBytes : (∀ op ∈ [0, 1, 2], (window [transfer op]).ready 0 4 op (transfer op)) ∧
    trBytes (transfer 0).desc = 8 ∧ trRows (transfer 1).desc = 2 ∧
    trDst (transfer 1).desc + 7 < trDst (transfer 1).desc + 1 * trDstPitch (transfer 1).desc ∧
    ∀ r, (window [transfer 1]).clean r := by
  refine ⟨fun op h => ready_of rfl ?_, by decide +kernel, by decide +kernel, by decide +kernel, window_clean _⟩
  revert op
  decide +kernel
/-- Sector 0 is poisoned, and the barge at position 0 copies it. -/
def badCopy : State :=
  { (window [bargeOf 4 0 (0x400 * 2 ^ 192 + 8 * 2 ^ 256)]).put F.MEM_STATUS_ENABLED 384 with
    mem := { sectors := [(0, { poisoned := true })] } }
theorem witness_uncorrectableReadEndsStep : badCopy.ready 0 4 0 (bargeOf 4 0 (0x400 * 2 ^ 192 + 8 * 2 ^ 256)) ∧
    (bargeOf 4 0 (0x400 * 2 ^ 192 + 8 * 2 ^ 256)).evalPlan = false ∧
    ∃ n ∈ badCopy.hbmSectors (copyReads (bargeOf 4 0 (0x400 * 2 ^ 192 + 8 * 2 ^ 256)).desc 1), (badCopy.sector n).poisoned = true :=
  ⟨ready_of rfl (by decide +kernel), by decide +kernel, 0, by decide +kernel, by decide +kernel⟩
/-- A SAVE of one unit from 0 to 0x10000, and the LOAD of it. -/
def saved : Barge := bargeOf 6 0 (0x10000 * 2 ^ 192 + 4096 * 2 ^ 256)
def loaded : BitVec 1024 := (bargeOf 6 1 (0x10000 * 2 ^ 128 + 4096 * 2 ^ 256)).desc
theorem witness_stashIsLossless : saBytes saved.desc % 4096 = 0 ∧ saBytes saved.desc < 2 ^ 44 ∧ saSrc loaded = saDst saved.desc ∧
    saBytes loaded = saBytes saved.desc ∧ ∀ n, decodeSector (live.sector n) (live.laneMark (live.placeOf n)) ≠ .uncorrectable := by
  refine ⟨by decide +kernel, by decide +kernel, by decide +kernel, by decide +kernel, fun n => ?_⟩
  have h : live.sector n = {} := rfl
  rw [h]
  cases h : live.laneMark (live.placeOf n) <;> simp [decodeSector]
theorem witness_stash_starts : (window [saved]).ready 0 6 0 saved ∧ (window [saved]).clean [(saSrc saved.desc, saBytes saved.desc)] ∧
    (window [⟨loaded, 0, 0, false, false, .waiting⟩]).ready 0 6 1 ⟨loaded, 0, 0, false, false, .waiting⟩ :=
  ⟨ready_of rfl (by decide +kernel), window_clean _ _, ready_of rfl (by decide +kernel)⟩

/-! ## Witnesses: engines -/

/-- Every engine is stopped. -/
def allStopped : State := { live with health := { live.health with stopped := List.range 1360 } }
theorem allStopped_available {g : Nat} (h : g < 80) : allStopped.availableIn g = [] := by
  rw [State.availableIn, List.filter_eq_nil_iff]
  intro e he
  simp only [clusterEngines, List.mem_map, List.mem_range] at he
  obtain ⟨i, hi, rfl⟩ := he
  have : allStopped.health.stopped.contains (g / 20 * 340 + g % 20 * 17 + i) = true := by
    simp only [allStopped, List.contains_iff_mem, List.mem_range]
    omega
  simp only [State.isAvailable, this]
  simp
theorem witness_dealGivesEveryTaskOnce : 0 < ((List.range 80).map (fun g => (live.availableIn g).length)).sum ∧
    ((List.range 80).map (fun g => (allStopped.availableIn g).length)).sum = 0 := by
  constructor
  · have h : 0 < (live.availableIn 0).length := by decide +kernel
    show 0 < ((List.range (79 + 1)).map (fun g => (live.availableIn g).length)).sum
    rw [List.range_succ_eq_map, List.map_cons, List.sum_cons]
    omega
  · rw [List.sum_eq_zero]
    intro x hx
    simp only [List.mem_map, List.mem_range] at hx
    obtain ⟨g, hg, rfl⟩ := hx
    rw [allStopped_available hg]
    rfl
theorem witness_claimsAndSteals : (busyArray (bargeOf 1 0 0) [3]).arrayBarge = some (running (bargeOf 1 0 0)) ∧
    (busyArray (bargeOf 1 0 0) [3]).mayClaim 0 = true ∧ (busyArray (bargeOf 1 0 0) [3]).freeSlot (running (bargeOf 1 0 0)) 0 = some 0 ∧
    (busyArray (bargeOf 1 0 0) [3]).queue (clusterOf 0) = [3] ∧ (busyArray (bargeOf 1 0 0) [3]).claimable (running (bargeOf 1 0 0)) 3 = true ∧
    (busyArray (bargeOf 1 0 0) []).queue (clusterOf 0) = [] ∧ (busyArray (bargeOf 1 0 0) []).victim (running (bargeOf 1 0 0)) 0 = none := by
  decide +kernel
/-- Two tasks wait in the queue next to that of engine 0. -/
def rich : State :=
  { (busyArray (bargeOf 1 0 0) []).put F.COMPUTE_STEAL_RADIUS 1 with array := { barge := some 0, queues := [(1, [4, 5])] } }
theorem witness_steals : rich.arrayBarge = some (running (bargeOf 1 0 0)) ∧ rich.mayClaim 0 = true ∧
    rich.freeSlot (running (bargeOf 1 0 0)) 0 = some 0 ∧ rich.queue (clusterOf 0) = [] ∧
    rich.victim (running (bargeOf 1 0 0)) 0 = some 1 ∧ (rich.queue 1).getLast? = some 5 := by decide +kernel
/-- A MATRIX barge of SPLIT_K 4 whose partials have taken all slots. -/
def splitBarge : Barge := bargeOf 1 0 (4 * 2 ^ 320)
def crowded : State :=
  { busyArray splitBarge [3] with array := { barge := some 0, queues := [(0, [3])], reserved := (List.range 700).map (· + 1) } }
theorem witness_splitkWaits : crowded.arrayBarge = some (running splitBarge) ∧ crowded.mayClaim 0 = true ∧
    crowded.freeSlot (running splitBarge) 0 = some 0 ∧ crowded.queue (clusterOf 0) = [3] ∧
    crowded.claimable (running splitBarge) 3 = false ∧ crowded.victim (running splitBarge) 0 = none := by decide +kernel
/-- A ROW barge whose first stage is through. -/
def rowDone : State := { window [running (bargeOf 3 1 0)] with array := { barge := some 0, stage := 0 } }
theorem witness_tasksAndStagesFinish :
    ({ busyArray (bargeOf 1 0 0) [] with array := { barge := some 0, slots := [(0, { task := 3 })] } } : State).array.slots.lookup
      (slotKey 0 0) = some { task := 3 } ∧
    rowDone.barge 0 = some (running (bargeOf 3 1 0)) ∧ rowDone.array.barge = some 0 ∧ (running (bargeOf 3 1 0)).cls = 3 ∧
    (running (bargeOf 3 1 0)).op = 1 ∧ rowDone.array.stage < 3 ∧ live.health.sram = [] ∧
    rowDone.array.finished.length = rowDone.stageTasks (running (bargeOf 3 1 0)) * rowDone.array.stage ∧
    rowDone.clean (rowDone.vecReads (rowDone.frame (running (bargeOf 3 1 0))) (running (bargeOf 3 1 0)).desc) :=
  ⟨by decide +kernel, by decide +kernel, by decide +kernel, by decide +kernel, by decide +kernel, by decide +kernel, rfl,
    by decide +kernel, clean_of (by decide +kernel) rfl _⟩
/-- The dies' clocks where a change shows: the lowest of the four. -/
def clocked (mhz : Nat) : State := (List.range 4).foldl (fun s d => s.put (F.COMPUTE_CLK_FREQ_MHZ d) mhz) live
theorem witness_clockChange : ∀ k ∈ [ClockStep.full, .reduced, .low], ∀ j < 4,
    (clocked (clockMhz k)).get (F.COMPUTE_CLK_FREQ_MHZ j) = clockMhz k := by decide +kernel

/-! ## Witnesses: vector instructions and numbers -/

/-- V1 and V2 into V0, in every lane. -/
def plainFields : VFields := ⟨0, 1, 2, 0, false, 0, 0, 0, 0⟩
theorem witness_vectorIssue : vecOf (.add 1359 plainFields) = some (1359, .add, plainFields) ∧ live.isEnabled 1359 = true ∧
    validFields .add plainFields = true ∧ (live.isEnabled 1359 && validFields .neg plainFields) = false := by decide +kernel
theorem witness_predication : ((⟨.add, 0, .reg 1, .reg 2, .reg 0, true, 7, 0⟩ : VIns).maskEn = true ∧
    ({ lm := 0x7F } : Lane).lm.getLsbD 7 = false) ∧ (⟨.sel, 0, .reg 1, .reg 2, .reg 0, false, 7, 0⟩ : VIns).op = .sel ∧
    ({ plainFields with maskEn := true } : VFields).maskEn = true := by decide
theorem witness_integersAndCompares : ∀ o ∈ [VOp.mov, .iadd, .isub, .imul, .and, .or, .xor, .shl, .shr, .icmplt, .icmpeq, .cmpun],
    (⟨o, 7, .reg 1, .reg 2, .reg 0, true, 0, 0⟩ : VIns).dst.val < 8 ∧ ({} : Lane).lm.getLsbD 0 = true ∧
    (isCompare o = true ∨ o ∈ [VOp.mov, .iadd, .isub, .imul, .and, .or, .xor, .shl, .shr]) := by decide
theorem witness_nansAndComparisons : isNan32 0x7F800001 = true ∧ isNan32 0xFFC00000 = true ∧ (fv32 0x7F7FFFFF).isFin = true ∧
    (fv32 0x80000001).isFin = true ∧ VOp.fma ∈ floatOps := by decide +kernel
/-- 1/3 rounds to a finite value, and (2^25 − 1) · 2^103 to the infinity. -/
theorem witness_roundsToNearestEven : roundMag fmt32 1 3 = 0x3EAAAAAB ∧ roundMag fmt32 ((2 ^ 25 - 1) * 2 ^ 103) 1 = 0x7F800000 := by
  decide +kernel
theorem witness_arithmeticIsExact : (fv32 0x3F800000).isFin = true ∧ (fv32 0).isFin = true ∧ (fv32 0xFF7FFFFF).isFin = true := by
  decide +kernel
theorem witness_ue5m3Decode : 8 * 31 + 6 ≠ 0xFF ∧ (31 : Nat) < 32 ∧ (6 : Nat) < 8 ∧ 8 * 0 + 1 ≠ 0 := by decide
theorem witness_ue5m3RoundUp : (Fv.fin false 114688 0).isFin = true ∧ (Fv.fin false 114688 0).rat = 114688 ∧
    (Fv.fin false 0 0).rat = 0 ∧ (Fv.fin false 114689 0).rat = 114689 ∧ Fv.nan.isFin = false := by
  refine ⟨rfl, ?_, ?_, ?_, rfl⟩ <;> norm_num [Fv.rat]

/-! ## Witnesses: copies of table entries, codebooks -/

theorem witness_entryReadsAreOrdered : goBit 0x80000000#32 = true ∧ live.diesServe = true ∧ live.lkServes = true ∧
    ∀ f ∈ [F.SCALE_RD_STATUS_BUSY, F.SCALE_CSTAT_RD_STATUS_BUSY, F.RECORDER_RD_STATUS_BUSY], live.flag f = false ∧
      (live.on f).flag f = true := by decide +kernel
/-- Context 0 holds an image that claims entries 2^21 − 4 to 2^21 − 1. -/
def claiming : State :=
  { (live.put (F.LK_CTX_STATE_STATE 0) ctxLoaded).setCtx 0 { image := some { emptyImage with cstatFirst := 2 ^ 21 - 4, cstatCount := 4 } } with
    lk := { live.lk with cstatRead := some (2 ^ 21 + (2 ^ 21 - 1)), scaleRead := some 5, recorderRead := some 0 } }
theorem witness_entryCopies : claiming.lk.scaleRead = some 5 ∧ claiming.lk.cstatRead = some (1 * 2 ^ 21 + (2 ^ 21 - 1)) ∧
    claiming.cstatOwner (2 ^ 21 - 1) = some 0 ∧ claiming.inAgreement (2 ^ 21 - 1) = false ∧ claiming.lk.recorderRead = some 0 ∧
    claiming.health.records.length ≤ 0 ∧ claiming.diesServe = true := by decide +kernel
/-- One record, and a word of it that holds two wrong bits, or none. -/
def recorded (sram : List SramWord) : State :=
  { claiming with health := { claiming.health with records := [⟨1, true, false⟩], sram := sram } }
def recordWord : SramWord := ⟨.lockkeeper, 0, true, false, some 0⟩
theorem witness_entryCopies_records : (recorded []).lk.recorderRead = some 0 ∧ 0 < (recorded []).health.records.length ∧
    (recorded []).health.records[(recorded []).health.records.length - 1 - 0]? = some ⟨1, true, false⟩ ∧
    (∀ w ∈ (recorded []).health.sram, w.memory ≠ .lockkeeper) ∧
    ∃ w ∈ (recorded [recordWord]).health.sram, w.memory = .lockkeeper ∧ w.double = true ∧ w.record.map Fin.val = some 0 := by
  decide +kernel
/-- Codebook 63 for context 7 is being loaded: no context 7 is loading (code 3). -/
def loadingCodebook : State := { live with lk := { live.lk with codebookLoad := some (7 * 64 + 63) } }
/-- Context 7 loads, and a codebook of 1 and +0 is staged. -/
def goodCodebook : State :=
  (List.range 8).foldl (fun s k => s.setReg (R.FORMAT_CB_STAGE_ENTRY k) (if k = 0 then 0x02000001#32 else 0x02000200#32))
    (loadingCodebook.put (F.LK_CTX_STATE_STATE 7) ctxLoading)
theorem witness_codebookLoads : live.flag F.FORMAT_CB_RESULT_BUSY = false ∧ loadingCodebook.lk.codebookLoad = some (7 * 64 + 63) ∧
    (loadingCodebook.cbCheck 7 63 loadingCodebook.stagedCodebook).1 = 3 ∧
    (goodCodebook.cbCheck 7 63 goodCodebook.stagedCodebook).1 = 0 := by decide +kernel

/-! ## Witnesses: votes, boundaries, self-test -/

theorem witness_boundaryWork : ((live.setCtx 7 { blocksHeld := true }).ctx 7).blocksHeld = true ∧
    ((live.setCtx 7 { blocksHeld := true }).ctx 7).verdict.getLsbD 1 = false ∧
    ((live.setCtx 7 { blocksHeld := true, verdict := 2 }).ctx 7).verdict.getLsbD 1 = true ∧
    ((live.setCtx 7 { rebuilding := true }).ctx 7).rebuilding = true ∧
    ((live.setCtx 7 { retiming := true }).ctx 7).retiming = true ∧
    ([(2 ^ 12 - 1, BitVec.ofNat 512 (4096 * 2 ^ 32)), (0, 0)] : List (Nat × BitVec 512)).Pairwise (fun x y => x.1 ≠ y.1) ∧
    ∀ e ∈ ([(2 ^ 12 - 1, BitVec.ofNat 512 (4096 * 2 ^ 32)), (0, 0)] : List (Nat × BitVec 512)), e.1 < 2 ^ 12 ∧ stWindows e.2 ≤ 2 ^ 18 := by
  decide +kernel
/-- A member of rank 1 of group 0, a vote of context 0 in flight. -/
def member (op : Nat) : State := (window [running (bargeOf 8 op 0)]).put (F.LINK_GRP_CFG_RANK 0) 1
theorem witness_votes : (∀ op ∈ [0, 1], (window [bargeOf 8 op 0]).ready 0 8 op (bargeOf 8 op 0)) ∧ (bargeOf 8 0 0).ctx < 8 ∧
    ∀ r, (window [bargeOf 8 0 0]).clean r := by
  refine ⟨fun op h => ready_of rfl ?_, by decide +kernel, window_clean _⟩
  revert op
  decide +kernel
theorem witness_verdicts : (member 0).voteBarge 0 0 = some (0, running (bargeOf 8 0 0)) ∧
    (member 1).voteBarge 0 1 = some (0, running (bargeOf 8 1 0)) ∧ ((member 0).ctx 0).verdictIn = false ∧
    ((member 1).ctx 0).commitIn = false ∧ ((member 0).ctx 0).stepAborted = false ∧ ((member 1).ctx 0).stepAborted = false ∧
    (∀ n ∈ [9, 2 ^ 64], (member 0).verdictOf (running (bargeOf 8 0 0)) 256 0 n (fun x _ => x) = some n) ∧
    stepMismatch (BitVec.ofNat 2048 (2 ^ 64)) = true ∧
    (member 1).verdictOf (running (bargeOf 8 1 0)) 32 0 9 (fun x _ => x) = some 9 := by decide +kernel
/-- A member of rank 1 of two that has aborted after its commit; the verdict of its step passes. -/
def late1 : State :=
  (((live.put (F.LINK_GRP_CFG_RANK 0) 1).put (F.LINK_GRP_CFG_SIZE 0) 2).setCtx 0 { stepAborted := true, commitSent := true })
theorem witness_lateCommit : late1.voteBarge 0 1 = none ∧ (late1.ctx 0).stepAborted = true ∧ (late1.ctx 0).commitSent = true ∧
    (late1.ctx 0).commitIn = false ∧ late1.groupRank (late1.jobGroupOf 0) ≠ 0 ∧ recBits (BitVec.ofNat 256 (2 * 2 ^ 32)) 8 0 64 = late1.step 0 ∧
    commitPasses (BitVec.ofNat 256 (2 * 2 ^ 32)) (late1.groupSize (late1.jobGroupOf 0)) (late1.flag (F.TRAIN_CTX_STATUS_VERDICT_SKIP 0)) = true := by
  decide +kernel
/-- Context 0's step was aborted; it may resume at lock index 2. -/
def stopped : State :=
  ((live.setReg64 (R.TRAIN_RESUME 0) 2).setCtx 0 { image := some emptyImage, stepAborted := true })
theorem witness_resumes : F.TRAIN_CTL_CMD.of 0x80000001#32 = 1 ∧ F.TRAIN_CTL_CMD.of 0x80000002#32 = 2 ∧
    goBit 0x80000001#32 = true ∧ stopped.diesServe = true ∧ stopped.resumeCheck (F.TRAIN_CTL_CONTEXT.of 0x80000001#32) = 0 ∧
    live.resumeCheck (F.TRAIN_CTL_CONTEXT.of 0x80000001#32) ≠ 0 ∧
    (stopped.ctx (F.TRAIN_CTL_CONTEXT.of 0x80000002#32)).image.isSome = true := by decide +kernel
/-- Engine 16 is under test in this interval. -/
def tested : State :=
  { live with lock := { live.lock with fired := true }, health := { live.health with withheld := [16] } }
theorem witness_testSlicesEnd : tested.lock.fired = true ∧ tested.health.withheld.contains 16 = true ∧ tested.isOffline 16 = false ∧
    tested.slicesRun 16 < tested.visitSlices ∧ (tested.test 16).nextSlice < 16 ∧
    tested.reg64 (R.HEALTH_BIST_SIG (tested.test 16).nextSlice) = 0 := by decide +kernel

/-- A TEST barge of two slices of engine 5, or of a sector at 512, with its result at 0x400. -/
def testing (op n : Nat) : Barge := bargeOf 10 op (5 * 2 ^ 128 + 2 * 2 ^ 152 + 0x400 * 2 ^ 160 + 512 * 2 ^ 224 + n * 2 ^ 288)
/-- Engine 5 is offline. -/
def engineOut (b : Barge) : State := (window [b]).markOffline 5
theorem witness_testEngine : (window [testing 0 512]).ready 0 10 0 (testing 0 512) ∧ teEngine (testing 0 512).desc = 5 ∧
    (window [testing 0 512]).isOffline 5 = false ∧ (window [testing 0 512]).clean [(teRes (testing 0 512).desc, 16)] ∧
    (engineOut (testing 0 512)).ready 0 10 0 (testing 0 512) ∧ (engineOut (testing 0 512)).isOffline 5 = true ∧
    teFirst (testing 0 512).desc < teLast (testing 0 512).desc ∧ ([7#64] : List DWord)[0]? = some 7 :=
  ⟨ready_of rfl (by decide +kernel), by decide +kernel, by decide +kernel, window_clean _ _, ready_of (by decide +kernel) (by decide +kernel),
    by decide +kernel, by decide +kernel, rfl⟩
/-- The array works on the MATRIX barge before it. -/
def drained : State :=
  { window [running (bargeOf 1 0 0), testing 1 0] with array := { barge := some 0, slots := [(slotKey 5 0, { task := 3 })] } }
theorem witness_testDrain : drained.ready 1 10 1 (testing 1 0) ∧ drained.array.barge = some 0 ∧
    drained.barge 0 = some (running (bargeOf 1 0 0)) ∧
    ∀ slot < 2, ∀ x, drained.array.slots.lookup (slotKey (teEngine (testing 1 0).desc) slot) = some x → x.task < 2 ^ 32 := by
  refine ⟨ready_of rfl (by decide +kernel), by decide +kernel, by decide +kernel, fun slot h x hx => ?_⟩
  rcases (by omega : slot = 0 ∨ slot = 1) with rfl | rfl
  · obtain rfl := Option.some.inj ((show _ = some { task := 3 } by decide +kernel).symm.trans hx)
    decide
  · exact absurd ((show _ = none by decide +kernel).symm.trans hx) (by simp)
/-- Sector 1 holds an error, or nothing. -/
def scrubbed (x : Sector) : State :=
  { (window [testing 2 512]).put F.MEM_STATUS_ENABLED 384 with mem := { sectors := [(1, x)] } }
theorem witness_testScrub : (window [testing 2 512]).ready 0 10 2 (testing 2 512) ∧ (∀ r, (window [testing 2 512]).clean r) ∧
    (∀ x ∈ [({ poisoned := true } : Sector), { errors := [(0, 1)] }], (scrubbed x).ready 0 10 2 (testing 2 512) ∧
      512 * 1 < (scrubbed x).hbmEnd) ∧ teAddr (testing 2 512).desc = 512 * 1 ∧ teBytes (testing 2 512).desc = 512 ∧
    decodeSector ((scrubbed { poisoned := true }).sector 1)
      ((scrubbed { poisoned := true }).laneMark ((scrubbed { poisoned := true }).placeOf 1)) = .uncorrectable ∧
    decodeSector ((scrubbed { errors := [(0, 1)] }).sector 1)
      ((scrubbed { errors := [(0, 1)] }).laneMark ((scrubbed { errors := [(0, 1)] }).placeOf 1)) = .corrected := by
  refine ⟨ready_of rfl (by decide +kernel), window_clean _, fun x h => ⟨ready_of rfl ?_, ?_⟩, ?_, ?_, ?_, ?_⟩
  · revert x
    decide +kernel
  · revert x
    decide +kernel
  all_goals decide +kernel

/-! ## Witnesses: memory -/

theorem witness_stacksAreMaintained : (∀ b ∈ [true, false], ({ live.mem with retraining := some (383, b) } : MemState).retraining =
      some (383, b)) ∧ live.mem.retraining = none ∧ live.get F.LOCK_SLOTS_MAINT_US ≥ 3 ∧
    (live.put F.LOCK_SLOTS_MAINT_US 2).get F.LOCK_SLOTS_MAINT_US < 3 ∧ live.get (F.MEM_STACK_STATUS_STEP 11) < 4 ∧
    105 ≤ (105#8).toNat ∧ thermalStep (live.get (F.MEM_STACK_STATUS_STEP 11)) 104 ≠ 4 := by decide +kernel
theorem witness_marginsAndTranslation : live.diesServe = true ∧ goBit 0x80000000#32 = true ∧ live.mem.sweep = none ∧
    (live.hostWrite R.MEM_MARGIN_CTL 0x80000000#32).marginCheck = 0 ∧
    ((live.on F.LOCK_STATUS_TICKING).hostWrite R.MEM_MARGIN_CTL 0x80000000#32).marginCheck ≠ 0 ∧
    ({ live.mem with sweep := some (3, true) } : MemState).sweep = some (3, true) ∧ -32 ≤ (0xE0#8).toInt ∧ (31#8).toInt ≤ 31 ∧
    live.hbmEnd ≤ (0#64).toNat ∧ (5#64).toNat % 2 ^ 48 < (live.put F.MEM_STATUS_ENABLED 384).hbmEnd := by decide +kernel
/-- A word of on-chip memory, alone. -/
def flawed (w : SramWord) : State := { live with health := { live.health with sram := [w] } }
/-- Word 0 of the statistics entries. -/
def cstatWord (double : Bool) : SramWord := ⟨.basin, BitVec.ofNat 32 ((cstatBase - 0xFE0000000000) / 8), double, false, none⟩
/-- Context 7, whose image claims statistics entry 0, is in a step. -/
def reading7 : State :=
  { (live.on (F.TRAIN_CTX_STATUS_IN_STEP 7)).setCtx 7 { image := some { emptyImage with cstatCount := 1 } } with
    health := { live.health with sram := [cstatWord true] } }
theorem witness_sramScrub : (∀ w ∈ [cstatWord false, ⟨.lockkeeper, 0, false, false, none⟩], 2 ≤ memoryNumber w.memory ∧ w.double = false) ∧
    memoryNumber (.operand 1359) < 2 ∧ memoryNumber (.cluster 79) < 2 ∧ (cstatWord true).memory = .basin ∧
    (cstatWord true).double = true ∧ (flawed (cstatWord true)).wordReaders (wordAddress (cstatWord true)) = [] ∧
    (flawed (cstatWord true)).flag F.LOCK_STATUS_DRAINING = false ∧ cstatBase ≤ wordAddress (cstatWord true) ∧
    wordAddress (cstatWord true) < sluiceListBase ∧ 7 ∈ reading7.wordReaders (wordAddress (cstatWord true)) ∧
    recordWord.memory = .lockkeeper ∧ recordWord.double = true ∧ recordWord.firmware = false ∧ recordWord.record = some 0 ∧
    (0 : Nat) < (recorded [recordWord]).health.records.length := by decide +kernel

/-! ## Witnesses: links -/

/-- Port 31 has trained and is up; flit 5, replayed so often, stands in its replay buffer. -/
def heardWith (times : Nat) : State := live.setPort 31 { phase := portUp, helloSent := true, replay := [⟨5, 0, times⟩] }
def heard : State := heardWith 6
/-- A DATA flit of a packet's middle, numbered `n`. -/
def dataOf (n : Nat) : BitVec 2048 := flitOf 1 3 true false n 0 0 0 (List.replicate 244 7)
set_option maxRecDepth 1000000 in
theorem witness_flitsArrive : heard.hears 31 = true ∧ flitOk 0#2048 = false ∧ (heard.port 31).equalising = false ∧
    heard.isUp 31 = true ∧ (heard.port 31).rxSeq = 0 ∧ (heard.port 31).waiting = [] ∧ (heard.port 31).rxBlock = 0 ∧
    12 < ({ heard.port 31 with rxBlock := 16 } : Port).rxBlock ∧ (heard.port 31).spoils 15 = false ∧
    (heard.port 31).spoils 16 = true := by decide +kernel
set_option maxRecDepth 1000000 in
theorem witness_dataFlit : ∀ n ∈ [0, 1], flitOk (dataOf n) = true ∧ flType (dataOf n) = 1 ∧ flSeq (dataOf n) = n ∧
    flEop (dataOf n) = false := by decide +kernel
set_option maxRecDepth 1000000 in
theorem witness_lastFlit : flitOk (flitOf 1 3 true true 0 0 0 0 [7]) = true ∧ flType (flitOf 1 3 true true 0 0 0 0 [7]) = 1 ∧
    flSeq (flitOf 1 3 true true 0 0 0 0 [7]) = 0 ∧ flEop (flitOf 1 3 true true 0 0 0 0 [7]) = true := by decide +kernel
set_option maxRecDepth 1000000 in
theorem witness_idleFlit : flitOk (flitOf 0 0 false false 0 5 3 255 []) = true ∧ flType (flitOf 0 0 false false 0 5 3 255 []) = 0 := by
  decide +kernel
set_option maxRecDepth 1000000 in
theorem witness_eqFlit : flitOk (flitOf 2 0 false false 0 5 3 255 [4]) = true ∧ flType (flitOf 2 0 false false 0 5 3 255 [4]) = 2 ∧
    flKind (flitOf 2 0 false false 0 5 3 255 [4]) = 4 := by decide +kernel
/-- A NAK for flit 6 that acknowledges flit 4. -/
def nakFlit : BitVec 2048 := flitOf 2 0 false false 0 4 0 0 [1, 5]
set_option maxRecDepth 1000000 in
theorem witness_nak : flitOk nakFlit = true ∧ flType nakFlit = 2 ∧ flKind nakFlit = 1 ∧
    (∀ n ∈ [6, 7], (unacked ((heardWith n).port 31).replay (flAck nakFlit)).any (fun e => e.seq == flNum nakFlit 9 2) = true) ∧
    ((unacked (heard.port 31).replay (flAck nakFlit)).dropWhile (fun e => e.seq != flNum nakFlit 9 2)).all
      (fun e => decide (e.times < 7)) = true ∧
    ((unacked ((heardWith 7).port 31).replay (flAck nakFlit)).dropWhile (fun e => e.seq != flNum nakFlit 9 2)).any
      (fun e => decide (7 ≤ e.times)) = true := by decide +kernel
/-- HELLO from port 2 of module 1 of a fabric. -/
def helloFlit (fabric : Byte) : BitVec 2048 := flitOf 2 0 false false 0 0 0 0 [2, 1, 0, fabric, 0, 2]
/-- Port 31 is in training. -/
def trains : State := live.setPort 31 { phase := portTraining, helloSent := true }
set_option maxRecDepth 1000000 in
theorem witness_hello : ∀ x ∈ [0, 9], flitOk (helloFlit x) = true ∧ flType (helloFlit x) = 2 ∧ flKind (helloFlit x) = 2 ∧
    flNum (helloFlit x) 11 2 = x.toNat ∧ flNum (helloFlit x) 9 2 % 8192 = 1 ∧ flNum (helloFlit x) 13 1 % 32 = 2 := by decide +kernel
theorem witness_partnersMeet : trains.hears 31 = true ∧ (trains.port 31).phase = portTraining ∧ (trains.port 31).equalising = false ∧
    (trains.port 31).spoils 0 = false ∧ (heard.port 31).phase ≠ portTraining ∧
    trains.get F.LINK_ID_FABRIC_ID = 0 ∧ trains.flag (partnerValid 31) = false ∧
    (trains.on (partnerValid 31)).flag (partnerValid 31) = true ∧ (trains.on (partnerValid 31)).get (partnerModule 31) ≠ 1 := by
  decide +kernel
set_option maxRecDepth 1000000 in
theorem witness_timeFlit : flitOk (flitOf 2 0 false false 0 0 0 0 [3]) = true ∧ flType (flitOf 2 0 false false 0 0 0 0 [3]) = 2 ∧
    flKind (flitOf 2 0 false false 0 0 0 0 [3]) = 3 := by decide +kernel
/-- An exchange is under way on the parent port 31, whose partner is ahead; 15 good estimates have come. -/
def estimates : State :=
  { ((((live.on F.LINK_TICK_CFG_PARENT_VALID).put F.LINK_TICK_CFG_PARENT_PORT 31).on F.LOCK_STATUS_FTC_LOCKED).setPort 31
      { phase := portUp, helloSent := true, timeSent := some 5 }) with link := { live.link with
        ports := [(31, { phase := portUp, helloSent := true, timeSent := some 5 })], goodEstimates := 15 } }
/-- A TIME flit: its time, and the time of this module's last one. -/
def timeFlit (sent back : Nat) : BitVec 2048 := flitOf 2 0 false false 0 0 0 0 (3 :: (leBytes 8 sent ++ leBytes 8 back))
set_option maxRecDepth 1000000 in
theorem witness_estimates : estimates.hears 31 = true ∧ estimates.parentPort = some 31 ∧ live.parentPort ≠ some 31 ∧
    (estimates.port 31).timeSent = some 5 ∧ 0 < (estimates.at_ (9#64).toNat).ftc ∧ (estimates.at_ (9#64).toNat).ftc < 2 ^ 64 - 1 ∧
    estimates.flag F.LOCK_STATUS_FTC_LOCKED = true ∧ 15 ≤ estimates.link.goodEstimates := by decide +kernel
set_option maxRecDepth 1000000 in
theorem witness_timeFlits : flitOk (timeFlit 20 5) = true ∧ flType (timeFlit 20 5) = 2 ∧ flKind (timeFlit 20 5) = 3 ∧
    flitOk (timeFlit 9 8) = true ∧ flType (timeFlit 9 8) = 2 ∧ flKind (timeFlit 9 8) = 3 := by decide +kernel
set_option maxRecDepth 1000000 in
theorem timeFlit_fields : flNum (timeFlit 20 5) 9 8 = 20 ∧ flNum (timeFlit 20 5) 17 8 = 5 ∧ flNum (timeFlit 9 8) 9 8 = 9 ∧
    flNum (timeFlit 9 8) 17 8 = 8 ∧ (estimates.at_ (9#64).toNat).ftc = 9 := by decide +kernel
theorem witness_offsets : 10 < (((flNum (timeFlit 20 5) 17 8 : Int) - (5 : Nat)) +
      ((flNum (timeFlit 20 5) 9 8 : Int) - (estimates.at_ (9#64).toNat).ftc)).natAbs ∧
    (((flNum (timeFlit 9 8) 17 8 : Int) - (5 : Nat)) +
      ((flNum (timeFlit 9 8) 9 8 : Int) - (estimates.at_ (9#64).toNat).ftc)).natAbs ≤ 3 := by
  obtain ⟨h1, h2, h3, h4, h5⟩ := timeFlit_fields
  rw [h1, h2, h3, h4, h5]
  decide
theorem witness_linksChangeState : (heard.port 31).helloSent = true ∧ live.portEnabled 0 = true ∧
    (live.port 0).phase = portDown ∧ ((live.setPort 31 { training := true }).port 31).training = true ∧ live.diesServe = true ∧
    (∀ x ∈ [portHeldPartner, portHeldFabric],
      ((live.setPort 31 { phase := x, newPartner := some 1 }).port 31).newPartner = some 1 ∧
      ((live.setPort 31 { phase := x, newPartner := some 1 }).port 31).phase = x) ∧
    ({ live with link := { live.link with eqPort := some 31 } } : State).link.eqPort = some 31 := by decide +kernel

/-! ## Witnesses: packets -/

/-- A packet for module `dst`, from this module. -/
def pkTo (kind dst : Nat) (payload : List Byte) : Packet := live.packet { dst := dst, kind := kind, payload := payload }
/-- A packet for another module that may not go on. -/
def spent : Packet := ⟨setHops (pkTo pkPut 8191 []).hdr 0, []⟩
/-- Module 8191 is reached by port 3, which is up. -/
def routed : State :=
  ((live.on (F.LINK_ROUTE_VALID_A 1 8191)).put (F.LINK_ROUTE_PORT_A 1 8191) 3).setPort 3 { phase := portUp }
theorem witness_packetForward : ∀ k ∈ [pkPut, pkPutAck, pkAgree, pkMgmt], isRouted (pkKind (pkTo k 8191 [])) = true ∧
    live.isMine (pkTo k 8191 []) = false ∧ pkHops (pkTo k 8191 []) ≠ 0 ∧ live.route 1 (pkDst (pkTo k 8191 [])) = none ∧
    routed.route 1 (pkDst (pkTo k 8191 [])) = some 3 ∧ isRouted (pkKind spent) = true ∧ live.isMine spent = false ∧
    pkHops spent = 0 := by decide +kernel
/-- A stream that holds packet 0. -/
def holding : State :=
  { live with link := { live.link with streams := [⟨pkKey (pkTo pkPut 0 [1]), true, [(0, [1])]⟩] } }
theorem witness_put : pkKind (pkTo pkPut 0 [1]) = pkPut ∧ live.isMine (pkTo pkPut 0 [1]) = true ∧
    pkCrcOk (pkTo pkPut 0 [1]) = true ∧ pkCrcOk ⟨(pkTo pkPut 0 [1]).hdr, [2]⟩ = false ∧ live.stale (pkTo pkPut 0 [1]) = false ∧
    (live.setReg (R.LINK_CTX_EPOCH 0) 1).stale (pkTo pkPut 0 [1]) = true ∧
    live.hasPacket (pkKey (pkTo pkPut 0 [1])) (pkPkt (pkTo pkPut 0 [1])) = false ∧
    holding.hasPacket (pkKey (pkTo pkPut 0 [1])) (pkPkt (pkTo pkPut 0 [1])) = true ∧
    live.receiver (pkKey (pkTo pkPut 0 [1])) = none ∧ live.stagedBytes + (pkTo pkPut 0 [1]).payload.length ≤ 2 ^ 27 := by
  decide +kernel
/-- A collective of context 0 runs at position 0. -/
def expecting : State := window [running (bargeOf 5 2 0)]
/-- The staging area is full. -/
def fullStage : State :=
  { live with link := { live.link with streams := [⟨⟨1, 0, 0, 0, 0, 0, 0⟩, true, [(0, List.replicate (2 ^ 27) 0)]⟩] } }
theorem witness_putOutcomes : expecting.receiver (pkKey (pkTo pkPut 0 [1])) = some 0 ∧ expecting.isMine (pkTo pkPut 0 [1]) = true ∧
    expecting.stale (pkTo pkPut 0 [1]) = false ∧ expecting.hasPacket (pkKey (pkTo pkPut 0 [1])) (pkPkt (pkTo pkPut 0 [1])) = false ∧
    fullStage.receiver (pkKey (pkTo pkPut 0 [1])) = none ∧ fullStage.isMine (pkTo pkPut 0 [1]) = true ∧
    fullStage.stale (pkTo pkPut 0 [1]) = false ∧ fullStage.hasPacket (pkKey (pkTo pkPut 0 [1])) (pkPkt (pkTo pkPut 0 [1])) = false ∧
    2 ^ 27 < fullStage.stagedBytes + (pkTo pkPut 0 [1]).payload.length := by
  refine ⟨?_, ?_, ?_, ?_, ?_, ?_, ?_, ?_, ?_⟩
  · decide +kernel
  · decide +kernel
  · decide +kernel
  · decide +kernel
  · decide +kernel
  · decide +kernel
  · decide +kernel
  · decide +kernel
  · have h : (pkTo pkPut 0 [1]).payload.length = 1 := rfl
    simp only [State.stagedBytes, fullStage, List.filter_cons, List.filter_nil, if_true, List.map_cons, List.map_nil, List.sum_cons,
      List.sum_nil, List.length_replicate, h]
    decide
theorem witness_putAckAndResend : pkKind (pkTo pkPutAck 0 []) = pkPutAck ∧ live.isMine (pkTo pkPutAck 0 []) = true ∧
    pkCrcOk (pkTo pkPutAck 0 []) = true ∧ live.stale (pkTo pkPutAck 0 []) = false ∧
    ([⟨7, 0, pkTo pkPut 1 []⟩] : List Outgoing).find? (fun o => o.id == 7) = some ⟨7, 0, pkTo pkPut 1 []⟩ := by decide +kernel
/-- A schedule of a lock index and its FTC. -/
def schedule (ftc index : Nat) : Packet := pkTo pkSched 0 (leBytes 8 ftc ++ leBytes 8 index)
/-- The parent is at port 0; an interval runs since 0. -/
def bound : State := { child with lock := { child.lock with fired := true } }
set_option maxRecDepth 1000000 in
theorem witness_sched : (∀ x ∈ [schedule 200000 1, schedule 199999 0, schedule 8 3], pkCrcOk x = true ∧ pkKind x = pkSched) ∧
    (bound.at_ (8#64).toNat).parentPort = some 0 ∧ plNum (schedule 200000 1) 8 8 = bound.index + 1 ∧
    (bound.at_ (199999#64).toNat).ftc < plNum (schedule 200000 1) 0 8 ∧
    (bound.at_ (8#64).toNat).tickFired (plNum (schedule 200000 1) 0 8) (plNum (schedule 200000 1) 8 8) = false ∧
    bound.lock.fired = true ∧ bound.lock.tick + bound.period < (bound.at_ (199999#64).toNat).ftc + 1000 * bound.get F.LOCK_SLOTS_MAINT_US ∧
    (bound.at_ (8#64).toNat).tickFired (plNum (schedule 199999 0) 0 8) (plNum (schedule 199999 0) 8 8) = true ∧
    plNum (schedule 199999 0) 8 8 = bound.index ∧ plNum (schedule 8 3) 8 8 ≠ bound.index ∧
    plNum (schedule 8 3) 0 8 ≤ (bound.at_ (8#64).toNat).ftc := by decide +kernel
/-- Port 0 leads to a child. -/
def parent (b : Bool) : State :=
  { master.put F.LINK_TICK_CHILD_MAP 1 with lock := { master.lock with schedArrived := b } }
theorem witness_stretchReq : pkCrcOk (pkTo pkStretch 0 [5, 0]) = true ∧ pkKind (pkTo pkStretch 0 [5, 0]) = pkStretch ∧
    ∀ b ∈ [true, false], ((parent b).at_ (8#64).toNat).childPorts.contains 0 = true ∧
      (parent b).flag F.LOCK_CTL_TICK_MASTER = true ∧ (parent b).lock.schedArrived = b := by decide +kernel
/-- An ABORT from module 1 for group 0 at epoch 0. -/
def aborted : Packet := (live.put F.LINK_ID_MODULE_ID 1).packet { dst := 0, kind := pkAbort, payload := List.replicate 14 0 }
/-- Context 7 is in a step. -/
def stepping : State := (live.on (F.TRAIN_CTX_STATUS_IN_STEP 7)).setCtx 7 { image := some emptyImage }
set_option maxRecDepth 1000000 in
theorem witness_abort : pkCrcOk aborted = true ∧ pkKind aborted = pkAbort ∧ pkSrc aborted ≠ live.get F.LINK_ID_MODULE_ID ∧
    live.link.abortsSeen.contains (abortId aborted) = false ∧
    ([⟨1, 0, 0, 0⟩] : List AbortId).contains (abortId aborted) = true ∧
    stepping.abortNames (plNum aborted 0 2) (plNum aborted 2 4) = [7] ∧ 7 ∈ stepping.working := by decide +kernel
/-- Group 0 is this module's and module 0's, of two members, this one of rank `r`. -/
def grouped (r : Nat) : State :=
  { ((live.on (F.LINK_GRP_CFG_VALID 0)).put (F.LINK_GRP_CFG_SIZE 0) 2).put (F.LINK_GRP_CFG_RANK 0) r with
    link := { live.link with members := [(1, 1)], agreement := some ⟨0, true, [(r, 3)]⟩ } }
/-- Values of an agreement from modules 0 and 1. -/
def value (m : Nat) : Packet := (live.put F.LINK_ID_MODULE_ID m).packet { dst := 0, kind := pkAgree, payload := List.replicate 8 2 }
theorem witness_agreementStarts : goBit 0x80000000#32 = true ∧ live.diesServe = true ∧ live.flag F.LINK_AGREE_RESULT_BUSY = false ∧
    live.link.agreement = none ∧ ((grouped 0).link.agreement.isSome = true) ∧
    live.flag (F.LINK_GRP_CFG_VALID (F.LINK_AGREE_CTL_GROUP.of 0x80000000#32)) = false ∧
    (((grouped 0).put (F.LINK_GRP_CFG_SIZE 0) 1).groupSize (F.LINK_AGREE_CTL_GROUP.of 0x80000000#32) = 1 ∧ (grouped 0).link.early = []) ∧
    (grouped 0).groupRank (F.LINK_AGREE_CTL_GROUP.of 0x80000000#32) = 0 ∧
    (∃ w : Word, goBit w = true ∧ 2 ≤ F.LINK_AGREE_CTL_OP.of w) ∧ F.LINK_AGREE_CTL_OP.of 0x80000000#32 < 2 ∧
    (grouped 1).flag (F.LINK_GRP_CFG_VALID (F.LINK_AGREE_CTL_GROUP.of 0x80000000#32)) = true ∧
    (grouped 1).groupRank (F.LINK_AGREE_CTL_GROUP.of 0x80000000#32) ≠ 0 :=
  ⟨by decide +kernel, by decide +kernel, by decide +kernel, by decide +kernel, by decide +kernel, by decide +kernel, by decide +kernel,
    by decide +kernel, ⟨0xBFFFFFFF#32, by decide +kernel⟩, by decide +kernel, by decide +kernel, by decide +kernel⟩
theorem witness_agreementsEnd : (∀ m ∈ [0, 1], pkKind (value m) = pkAgree ∧ (grouped 0).isMine (value m) = true ∧
      pkCrcOk (value m) = true) ∧ (∀ r ∈ [0, 1], (grouped r).flag (F.LINK_GRP_CFG_VALID (pkGroup (value 1))) = true ∧
        (grouped r).link.agreement = some ⟨0, true, [(r, 3)]⟩ ∧ (grouped r).groupRank 0 = r) ∧
    (grouped 0).rankOf (pkGroup (value 1)) (pkSrc (value 1)) = some 1 ∧ (grouped 1).rankOf (pkGroup (value 0)) (pkSrc (value 0)) = some 0 ∧
    (∀ q < (grouped 0).groupSize 0, q ≠ 1 → (([(0, 3)] : List (Nat × BitVec 64)).lookup q).isSome = true) := by decide +kernel
theorem witness_groupsAndEpochs : live.diesServe = true ∧ live.lockedGroup (.cfg 1023) = none ∧
    ((stepping.on (F.LINK_GRP_CFG_VALID 1023)).put (F.LINK_GRP_CFG_CONTEXT 1023) 7).lockedGroup (.mem 1023) = some 1023 ∧
    stepping.working.contains 7 = true ∧ live.working.contains 7 = false ∧ live.reg (R.LINK_CTX_EPOCH 7) ≠ 1 ∧
    pkKind (pkTo pkMgmt 0 []) = pkMgmt ∧ live.isMine (pkTo pkMgmt 0 []) = true ∧ pkCrcOk (pkTo pkMgmt 0 []) = true ∧
    live.snapIn 4 = none ∧ ({ live with lk := { live.lk with snapRun := some ⟨4, 7⟩ } } : State).snapIn 4 = some 7 ∧
    live.buddy 7 = pkSrc (pkTo pkMgmt 0 []) := by decide +kernel

/-! ## Witnesses: snapshots -/

/-- Context 7 holds an image with nothing in it, its slots are at address 0, and slot 0 holds a generation. -/
def snapped : State :=
  { (live.on F.LK_SNAP_RESTORE_SRC_OVERRIDE).setCtx 7 { image := some { emptyImage with snapBase := some 0 }, buddyOk := true } with
    mem := { live.mem with cells := [(0, 1), (4, 1), (105, 0x14), (106, 1)] } }
/-- The sector of its header is poisoned. -/
def unreadable : State := { snapped.put F.MEM_STATUS_ENABLED 384 with mem := { snapped.mem with sectors := [(0, { poisoned := true })] } }
theorem snapped_clean (r : List (Nat × Nat)) : snapped.clean r := clean_of (by decide +kernel) rfl r
theorem witness_snapshotCommands : (∀ k ∈ [1, 2, 3, 4, 5], F.LK_SNAP_CMD_CMD.of (BitVec.ofNat 32 (0x80000700 + k)) = k ∧
      F.LK_SNAP_CMD_CONTEXT.of (BitVec.ofNat 32 (0x80000700 + k)) = 7 ∧ goBit (BitVec.ofNat 32 (0x80000700 + k)) = true) ∧
    live.lkServes = true ∧ live.lk.snapRun = none ∧ live.newestGen 7 = none ∧ snapped.newestGen 7 = some 0 ∧
    (∃ n ∈ unreadable.hbmSectors (headerRegion (unreadable.image 7) 0), (unreadable.sector n).poisoned = true) ∧
    unreadable.newestGen 7 = some 0 ∧ (∃ n ∈ unreadable.hbmSectors (slotRegion (unreadable.image 7) 0), (unreadable.sector n).poisoned = true) ∧
    snapped.flag F.LK_STATUS_SEC_OUT = false ∧ genSealed (snapped.slotHeader 7 0) = false ∧
    live.flag (F.LK_SNAP_BUDDY_VALID 7) = false ∧ (live.setReg64 R.LK_SNAP_START 1).index = 0 ∧
    ((live.setReg64 R.LK_SNAP_START 1).reg64 R.LK_SNAP_START).toNat < (live.setReg64 R.LK_SNAP_START 1).index + 2 ∧ (live.on (F.LK_SNAP_BUDDY_VALID 7)).flag (F.LK_SNAP_BUDDY_VALID 7) = true ∧
    live.flag (F.LK_SNAP_VERIFY_RESTORED 7) = false ∧
    ((live.on (F.LK_SNAP_VERIFY_RESTORED 7)).setReg64 R.LK_SNAP_START 2).flag (F.LK_SNAP_VERIFY_RESTORED 7) = true ∧
    live.index + 2 ≤ (((live.on (F.LK_SNAP_VERIFY_RESTORED 7)).setReg64 R.LK_SNAP_START 2).reg64 R.LK_SNAP_START).toNat := by
  decide +kernel
theorem witness_snapshotWaits : (∀ k ∈ [2, 3, 4], ({ live.lk with snapRun := some ⟨k, 7⟩ } : LkState).snapRun = some ⟨k, 7⟩) ∧
    ((live.setCtx 7 { sealing := some 1 }).ctx 7).sealing = some 1 ∧
    ({ live.lk with snapRun := some ⟨2, 7⟩ } : LkState).snapRun.isSome = true := by decide +kernel
/-- Context 7's arena in force begins in a poisoned sector. -/
def arenaBad : State :=
  { (live.put F.MEM_STATUS_ENABLED 384).setCtx 7 { image := some { emptyImage with arena := some (0, 4096, 512) }, capture := some ⟨1, 0, 0⟩ }
    with mem := { sectors := [(0, { poisoned := true })] } }
theorem witness_generations : ((live.setCtx 7 { capture := some ⟨1, 0, 0⟩ }).ctx 7).capture = some ⟨1, 0, 0⟩ ∧
    (snapped.ctx 7).image.isSome = true ∧ (snapped.ctx 7).exporting = none ∧ (snapped.ctx 7).buddyOk = true ∧
    (snapped.put (F.LK_SNAP_SLOT_STATE 7 1) 2).exportSlot 7 = some 1 ∧
    ((live.setCtx 7 { exporting := some 1 }).ctx 7).exporting = some 1 ∧
    (∃ n ∈ arenaBad.hbmSectors (arenaBad.arenaRegion 7), (arenaBad.sector n).poisoned = true) ∧ (snapped.image 7).snapBase.isSome = true ∧
    (snapped.on (F.LK_SNAP_WARD_VALID 7)).flag (F.LK_SNAP_WARD_VALID 7) = true ∧ slotBytes (snapped.image 7) = 70656 ∧
    snapped.wardKept 7 1 = false ∧ snapped.working.contains 7 = false ∧ snapped.flag F.LK_SNAP_RESTORE_SRC_REMOTE = false ∧
    (snapped.on F.LK_SNAP_RESTORE_SRC_REMOTE).flag F.LK_SNAP_RESTORE_SRC_REMOTE = true := by decide +kernel
theorem witness_wardBytes : (List.replicate 70656 (0 : Byte)).length = 70656 ∧ (70656 : Nat) ≠ 1024 :=
  ⟨List.length_replicate, by decide⟩
/-- A whole generation of an image with nothing in it, of step 0, not sealed. -/
def generation : List Byte :=
  [1, 0, 0, 0, 1, 0, 0, 0] ++ List.replicate 168 0 ++ sha512 (List.replicate 360 0) ++ List.replicate 784 0
set_option maxRecDepth 1000000 in
theorem witness_restore : (snapped.on F.LK_SNAP_RESTORE_SRC_REMOTE).restoreCheck 7 generation true true = 0 ∧
    genSealed generation = false ∧ snapped.restoreCheck 7 (List.replicate 1024 0) true true ≠ 0 ∧
    (∃ x : Nat × Nat × Nat, ({ emptyImage with arena := some (0, 512, 512) } : Image).arena = some x) := by
  refine ⟨by decide +kernel, by decide +kernel, by decide +kernel, _, rfl⟩

/-! ## Witnesses: health and resets -/

theorem witness_lockstep : (live.get F.HEALTH_LOCKSTEP_OUT_MAP).testBit 0 = false ∧ (live.get F.HEALTH_LOCKSTEP_OUT_MAP).testBit 23 = false ∧
    ((live.put F.HEALTH_LOCKSTEP_OUT_MAP 2).get F.HEALTH_LOCKSTEP_OUT_MAP).testBit (1 - 0) = true ∧
    ((live.put F.HEALTH_LOCKSTEP_OUT_MAP (2 ^ 23)).get F.HEALTH_LOCKSTEP_OUT_MAP).testBit 23 = true ∧ live.supervised = true := by
  decide +kernel
/-- Recovery is armed, and level 3 has held for the grace time. -/
def graceOver : State :=
  { (live.on F.HEALTH_CTL_AUTO_RECOVER).put F.HEALTH_RISK_LEVEL 3 with
    health := { live.health with level3Ms := live.get F.HEALTH_CTL_GRACE_MS } }
theorem witness_watchtower : live.flag F.HEALTH_CTL_AUTO_RECOVER = false ∧ live.meets 3 2 = true ∧
    (([(16, ⟨1, [2]⟩)] : List (Nat × Window)).lookup 16) = some ⟨1, [2]⟩ ∧ graceOver.flag F.HEALTH_CTL_AUTO_RECOVER = true ∧
    graceOver.get F.HEALTH_RISK_LEVEL = 3 ∧ graceOver.get F.HEALTH_CTL_GRACE_MS ≤ graceOver.health.level3Ms ∧
    graceOver.supervised = true ∧ 0 < graceOver.get F.HEALTH_CTL_GRACE_MS := by decide +kernel
/-- A reset is in progress. -/
def resetting (recovery drained : Bool) : State := { live with lk := { live.lk with reset := some ⟨recovery, false, drained⟩ } }
theorem witness_resetsBegin : live.lkServes = true ∧ goBit 0x80000001#32 = true ∧ live.supervised = true ∧
    live.get F.BOOT_STATUS_STATE = 3 ∧ live.lk.reset = none ∧
    (∀ k ∈ [1, 2, 3], goBit (BitVec.ofNat 32 (2 ^ 31 + k)) = true ∧ F.LK_RESET_CMD_KIND.of (BitVec.ofNat 32 (2 ^ 31 + k)) = k) ∧
    live.ctxState (F.LK_RESET_CMD_CONTEXT.of 0x80000003#32) = ctxEmpty ∧
    (live.put (F.LK_CTX_STATE_STATE 0) ctxLoaded).ctxState (F.LK_RESET_CMD_CONTEXT.of 0x80000003#32) = ctxLoaded ∧
    (∀ r ∈ [true, false], (resetting r false).lk.reset = some ⟨r, false, false⟩ ∧ (resetting r false).supervised = true) := by
  decide +kernel
/-- The watchdog is armed over a resident context; condition 3 holds while the array drains. -/
def watched : State := (live.on F.LK_WD_CTL_EN).setCtx 7 { image := some emptyImage }
def hung : State :=
  { watched.on F.LOCK_STATUS_DRAINING with lk := { live.lk with watchdog := { held := [(3, live.get F.LK_WD_CTL_PERIOD_MS)] } } }
theorem witness_watchdogSample : (live.off F.LK_WD_CTL_EN).flag F.LK_WD_CTL_EN = false ∧ watched.flag F.LK_WD_CTL_EN = true ∧ watched.resident = [7] ∧
    watched.flag F.LK_RESET_STATUS_BUSY = false ∧ (∀ k ∈ [1, 2, 3, 4, 5], watched.condition k = false) ∧
    hung.flag F.LK_WD_CTL_EN = true ∧ hung.resident = [7] ∧ hung.condition 3 = true ∧
    hung.lk.watchdog.held.lookup 3 = some (hung.get F.LK_WD_CTL_PERIOD_MS) ∧
    hung.get F.LK_WD_CTL_PERIOD_MS < hung.get F.LK_WD_CTL_PERIOD_MS + 100 := by decide +kernel
/-- What a recovery reports when nothing fails. -/
def fine : RecoveryReport := ⟨7, 1, ⟨[], [], [], []⟩, [], false, []⟩
theorem witness_resetsEnd : (resetting false false).lk.reset = some ⟨false, false, false⟩ ∧
    (resetting false true).lk.reset = some ⟨false, false, true⟩ ∧ (resetting true true).lk.reset = some ⟨true, false, true⟩ ∧
    (live.put (F.LK_CTX_STATE_STATE 7) ctxTeardown).ctxState 7 = ctxTeardown ∧ live.lk.reset = none ∧
    live.get F.LK_QUAR_VALID_MAP ≠ 0xFFFF := by decide +kernel
/-- Standby is left, or a device recovery ends. -/
def suspended : State := (resetting true true).put F.BOOT_STATUS_STATE 6
theorem witness_resumeFails : (suspended.resumeDies { fine with stepFailed := true }).recoveryFails { fine with stepFailed := true } = true := by
  simp [State.recoveryFails]
set_option maxRecDepth 1000000 in
theorem witness_resumeSucceeds : suspended.lk.reset = some ⟨true, false, true⟩ ∧ suspended.get F.BOOT_STATUS_STATE = 6 ∧
    suspended.get F.BOOT_PWR_REQ = 0 ∧ (suspended.resumeDies fine).recoveryFails fine = false := by decide +kernel

/-! ## Witnesses: flash, power, host -/

theorem witness_flashCommandsStart : live.lkServes = true ∧ goBit 0x80000001#32 = true ∧ live.flag F.BOOT_CMD_RESULT_BUSY = false := by
  decide +kernel
/-- A flash command with a code is in progress; the firmware that runs is in slot B. -/
def flashing (cmd code : Nat) : State :=
  { live with
    lk := { live.lk with
      flashRun := some ⟨cmd, code, 0, [], 5⟩, fwRunning := some true,
      flash := (List.range 4).map (fun i => (partBase 7 + fwRoom + i, if i = 3 then 0x3F#8 else 0xFF#8)) } }
theorem witness_flashCommandsEnd : (∀ k ∈ [1, 2, 3, 4, 5, 6], ∀ code ∈ [0, 255],
      (flashing k code).lk.flashRun = some ⟨k, code, 0, [], 5⟩) ∧ (flashing 3 0).lk.fwRunning = some true ∧
    (flashing 3 0).fwState true = 2 := by decide +kernel
/-- The module without its feed, and ready to boot. -/
def dark : State := { State.reset with module := { State.reset.module with power := .none } }
def bootable : State := State.reset.on F.MODULE_STATUS_PWR_GOOD
theorem witness_power : dark.module.power = .none ∧ live.module.power ≠ .none ∧ bootable.flag F.MODULE_STATUS_PWR_GOOD = true ∧
    bootable.mayBoot = true ∧ live.mayBoot = false ∧ live.anyOccupied = false ∧
    (live.put (F.LK_CTX_STATE_STATE 7) ctxLoaded).anyOccupied = true ∧ live.flag F.LK_RESET_STATUS_BUSY = false := by decide +kernel
theorem witness_doeAnswers : live.flag F.LK_STATUS_SEC_OUT = false ∧ (live.on F.LK_STATUS_SEC_OUT).flag F.LK_STATUS_SEC_OUT = true ∧
    offersAlgorithms [0x13, 0xE3, 0, 0, 0, 0, 0, 0, 0x40, 0, 0, 0, 0x04] = true ∧
    offersAlgorithms [] = false ∧ reqByte [0x13, 0x83, 1, 0] 2 ≠ 0 ∧ reqByte [0x13, 0x82, 1, 0] 2 % 16 ≠ 0 ∧
    reqByte [0x13, 0xE0, 0, 1] 3 = 1 ∧ ([(1, [7]), (2, [])] : List (Nat × List Byte)).filter (fun b => b.1 == 1) = [(1, [7])] ∧
    reqByte [0x13, 0x83, 0, 0] 2 = 0 ∧ reqByte [0x13, 0xE0, 0, 0] 3 = 0 ∧ reqByte [0x13, 0x82, 0, 0, 0, 0, 0, 4] 2 % 16 = 0 := by
  decide +kernel
/-- 4 KB of program memory, and context 7's queues of 2 entries. -/
def roomy : State :=
  (((live.setReg64 R.MEM_CAP 4096).put F.MEM_STATUS_ENABLED 384).put (F.LK_SQ_SIZE_ENTRIES 7) 2).put F.BOOT_STATUS_STEP 12
theorem witness_endpoint : roomy.lkPowered = true ∧ roomy.lk.heartbeatStopped = false ∧ 6 ≤ roomy.get F.BOOT_STATUS_STEP ∧
    ({ roomy.lk with heartbeatStopped := true } : LkState).heartbeatStopped = true ∧
    ({ roomy.lk with msixPending := [63] } : LkState).msixPending.contains 63 = true ∧ roomy.flag (F.MSIX_CTL_MASK 63) = true ∧
    (roomy.off (F.MSIX_CTL_MASK 63)).flag (F.MSIX_CTL_MASK 63) = false ∧ roomy.diesServe = true ∧
    roomy.inHbm (roomy.bar2 4095) 1 = true ∧ roomy.inHbm (roomy.bar2 4096) 1 = false ∧ roomy.contested (roomy.bar2 4095) 1 = [] ∧
    roomy.get (F.LK_SQ_SIZE_ENTRIES 7) ≤ (F.LK_SQ_TAIL_TAIL 7).of 2 ∧ (F.LK_SQ_TAIL_TAIL 7).of 1 < roomy.get (F.LK_SQ_SIZE_ENTRIES 7) ∧
    (roomy.ctx 7).sqWaiting = [] ∧ roomy.get (F.LK_SQ_HEAD_HEAD 7) < roomy.get (F.LK_SQ_SIZE_ENTRIES 7) ∧ (roomy.ctx 7).cqHeld = [] ∧
    roomy.occupied 7 = false ∧ (roomy.put (F.LK_CTX_STATE_STATE 7) ctxLoaded).occupied 7 = true := by decide +kernel
/-- Sector 0 of the memory is poisoned, and channel 0 is retrained. -/
def blocked : State := { roomy with mem := { roomy.mem with sectors := [(0, { poisoned := true })], retraining := some (0, true) } }
theorem witness_bar2 : roomy.clean [(roomy.bar2 0, 512)] ∧ roomy.holdsBack (.read (roomy.bar2 0) 512) = false ∧
    roomy.inHbm (roomy.bar2 0) 512 = true ∧ roomy.holdsBack (.write (roomy.bar2 0) [1]) = false ∧
    blocked.holdsBack (.read (blocked.bar2 0) 512) = true ∧
    (∃ k ∈ blocked.hbmSectors [(blocked.bar2 0, 512)], (blocked.sector k).poisoned = true) ∧ live.lkServes = true ∧
    ({ live with lk := { live.lk with reset := some ⟨true, false, true⟩ } } : State).diesServe = false ∧
    ({ live with lk := { live.lk with reset := some ⟨true, false, true⟩ } } : State).lkServes = true :=
  ⟨⟨by decide +kernel, by intro w h; cases h⟩, by decide +kernel, by decide +kernel, by decide +kernel, by decide +kernel, by decide +kernel,
    by decide +kernel, by decide +kernel, by decide +kernel⟩
/-- A submission queue entry for 256 bytes at 512, of ARG 2 (or 0). -/
def entry (op arg : Nat) : BitVec 512 := BitVec.ofNat 512 (op + 512 * 2 ^ 64 + 256 * 2 ^ 128 + arg * 2 ^ 192)
/-- Context 7 with one entry, in a state. -/
def queued (op arg st : Nat) (im : Image) : State :=
  (roomy.put (F.LK_CTX_STATE_STATE 7) st).setCtx 7 { sq := [entry op arg], image := some im, plan := im.plan }
/-- An image with one manifest of no barges, and one evaluation plan. -/
def onePlan : Image := { emptyImage with plan := [⟨0, [], 0⟩], evals := [[]] }
theorem witness_queueOperations : (∀ op ∈ [1, 2, 3, 4, 5, 6], ∀ arg ∈ [0, 2], entryValid (entry op arg) = true ∧ sqOp (entry op arg) = op ∧
      sqArg (entry op arg) = arg) ∧
    (∀ st ∈ [ctxEmpty, ctxLoaded, ctxRunning], ((queued 1 0 st onePlan).ctx 7).sq = [entry 1 0] ∧
      ((queued 1 0 st onePlan).ctx 7).load = none ∧ (queued 1 0 st onePlan).ctxState 7 = st ∧
      (queued 1 0 st onePlan).mayLoad 7 = (st == ctxEmpty) ∧ ((queued 1 0 st onePlan).image 7).plan ≠ [] ∧
      (queued 1 0 st onePlan).index + 2 ≤ 2 ∧ 0 < ((queued 1 0 st onePlan).image 7).evals.length) := by decide +kernel
/-- The least image: a header of 256 bytes for the lock period of 200 µs. -/
def leastBytes : List Byte :=
  let body := leBytes 4 0x49585244 ++ leBytes 4 1 ++ leBytes 8 256 ++ leBytes 2 200 ++ List.replicate 234 0
  body ++ leBytes 4 (crc32c (body ++ List.replicate 4 0)).toNat
def leastImage : Image := { emptyImage with raw := leastBytes }
/-- The image lies at 512, and LOAD_HBM is at the front. -/
def hbmQueued : State :=
  { roomy.setCtx 7 { sq := [entry 2 0] } with
    mem := { cells := (placed 512 leastBytes).filter (fun e => e.2 != 0) } }
set_option maxRecDepth 1000000 in
theorem witness_loadHbm : (hbmQueued.ctx 7).sq = [entry 2 0] ∧ hbmQueued.mayLoad 7 = true ∧
    hbmQueued.inHbm (sqAddr (entry 2 0)) (sqLen (entry 2 0)) = true ∧
    ((hbmQueued.startLoad 7 true (entry 2 0)).touch rdFirmware [(sqAddr (entry 2 0), sqLen (entry 2 0))]).1.loadRefusal 7
      { emptyImage with raw := hbmQueued.bytes (sqAddr (entry 2 0)) (sqLen (entry 2 0)) } = none := by decide +kernel
theorem witness_loadHbm_clean : hbmQueued.clean [(sqAddr (entry 2 0), sqLen (entry 2 0))] :=
  ⟨by decide +kernel, by intro w h; cases h⟩
/-- Context 7 waits for its image. -/
def fetching : State := (roomy.put (F.LK_CTX_STATE_STATE 7) ctxLoading).setCtx 7 { load := some ⟨9, 0, 256, false⟩ }
set_option maxRecDepth 1000000 in
theorem witness_imageFetched : (fetching.ctx 7).load = some ⟨9, 0, 256, false⟩ ∧ fetching.ctxState 7 = ctxLoading ∧
    (fetching.writeAt fetching.cap (leastImage.raw.take (2 ^ 32))).loadRefusal 7 leastImage = none ∧
    (fetching.writeAt fetching.cap (emptyImage.raw.take (2 ^ 32))).loadRefusal 7 emptyImage = some (1, 0) := by decide +kernel

/-! ## Witnesses: the module -/

theorem witness_powerSample : live.module.power ≠ .none ∧ live.module.powerStep = 0 ∧ 3400 < (3401#16).toNat ∧ (3400#16).toNat ≤ 3400 ∧
    live.get F.MODULE_PWR_LIMIT_WATTS < (3400#16).toNat ∧ 9 ≤ live.module.sinceDown ∧
    10 * (0#16).toNat < 9 * live.get F.MODULE_PWR_LIMIT_WATTS ∧ live.module.calm < 999 ∧
    999 ≤ ({ live.module with calm := 999, powerStep := 2 } : ModuleState).calm := by decide +kernel
theorem witness_moduleController : (1#16).toNat < 4200 ∧ 1100 ≤ (1100#16).toInt ∧ 1150 ≤ (1150#16).toInt ∧ (1149#16).toInt < 1150 ∧
    live.alarmHolds .leak = false ∧ (live.put (F.MODULE_SENSE_VALUE 14) 1).alarmHolds .leak = true ∧
    live.module.power = .on ∧ live.lkServes = true ∧ F.MODULE_PWR_LIMIT_WATTS.of 1500 = 1500 ∧ F.MODULE_PWR_LIMIT_WATTS.of 2800 = 2800 ∧
    F.MODULE_PWR_LIMIT_WATTS.of 1499 < 1500 ∧ 2800 < F.MODULE_PWR_LIMIT_WATTS.of 2801 ∧ F.MODULE_CTL_WAKE.of 1 = 1 ∧
    ({ live.module with power := .off } : ModuleState).power = .off ∧ (0 : Nat) ≠ R.MODULE_CTL := by decide +kernel

/-! ## Values that the spec gives -/

/-- R48, worked examples 1 to 3. -/
theorem test_d4_code : to32 (decodeElem 0x01 codebook0 5) = 0x40400000 := by decide +kernel
theorem test_d8e4_codes : to32 (decodeElem 0x12 codebook0 0x3A) = 0x3FA00000 ∧ decodeElem 0x12 codebook0 0x03 = .fin false 3 (-9) := by
  decide +kernel
/-- The worked example of R54: BASE −3, entry 0x8B40 is −0.8125. -/
theorem test_codebook_entry : to32 (cbValue ⟨0xFD, []⟩ 0x8B40) = 0xBF500000 ∧ cbExp ⟨0xFD, []⟩ 0x8B40 = -1 := by decide +kernel
/-- The worked examples of R59. -/
theorem test_round_bf16 : toBf16 0x3F808000 = 0x3F80 ∧ toBf16 0x3F818000 = 0x3F82 := by decide +kernel
theorem test_round_f16 : toF16 0x477FF000 = 0x7C00 ∧ toF16 0x477FE000 = 0x7BFF := by decide +kernel
/-- The worked examples of R68. -/
theorem test_ue5m3_up : ue5m3Up (.fin false 149 (-2)) (.fin false 6 (-9)) = (0xD5, false) ∧
    ue5m3Up (.fin false 5 (-18)) (.fin false 1 0) = (0x03, false) := by decide +kernel
theorem test_ue5m3_ends : ue5m3Up (.fin false 1 (-20)) (.fin false 1 0) = (0x01, false) ∧
    ue5m3Up (.fin false 120000 0) (.fin false 1 0) = (0xFE, true) := by decide +kernel
/-- The worked example of R82, in D4: element (1000, 300) of a tensor of 11,264 × 30,720. -/
theorem test_element_address :
    elementAddress ⟨0x01, codebook0, 0, 0, [11264, 30720, 1, 1, 1], [0, 0, 0], 0⟩ (1000, 300, 0, 0, 0) = 0x16D674 ∧
    scaleAddress ⟨0x01, codebook0, 0, 0, [11264, 30720, 1, 1, 1], [0, 0, 0], 0⟩ (1000, 300, 0, 0, 0) = 0x2DACE := by decide +kernel
/-- The worked example of R285: channel 102, pseudo-channel 1, sector 12,714, with every channel enabled. -/
theorem test_locate : locate State.reset.channels 5000000000 = ⟨102, 1, 12714, 0⟩ := by decide +kernel
/-- Table 05-6: the product of group `g`, each with its bound exponents. -/
def sumGroup : Nat → List Pos
  | 0 => [⟨.fin false 1 18, .fin false 1 8, some 20, some 12⟩]
  | 3 => [⟨.fin true 1 18, .fin false 1 8, some 20, some 12⟩]
  | _ => [⟨.fin false 3 (-1), .fin false 1 1, some 4, some 4⟩]
/-- The worked example of Table 05-6, steps 5 to 7. -/
theorem test_sum : deliver (addGroups false normalWindow sumGroup [0, 1, 2, 3] {}) = 0 ∧
    deliver (addGroups true normalWindow sumGroup [0, 1, 2, 3] {}) = 0x40C00000 := by decide +kernel
theorem test_sum_split : deliver (joinTwo false (addGroups false normalWindow sumGroup [0, 1] {})
    (addGroups false normalWindow sumGroup [2, 3] {})) = 0x40800000 := by decide +kernel
/-- The block of the worked example of R153 in eighths. -/
def exampleBlock : List Int := [298, -104, 78, 130, 13, -13, 0, 208, 240, 264, -156, 26, 39, 64, -52, 91]
def exampleCodes (shift : Int) : QBlock :=
  quantiseBlock 0x01 codebook0 0x3B000000 (exampleBlock.map (fun i => ⟨.fin (decide (i < 0)) i.natAbs (-3 - shift), true, false⟩))
/-- The worked example of R153, steps 5 to 7. -/
theorem test_quantise : (exampleCodes 0).scale = 0xD5 ∧
    (exampleCodes 0).codes = [7, 0xC, 3, 4, 0, 0, 0, 6, 6, 7, 0xD, 1, 2, 2, 0xA, 4] := by decide +kernel
theorem test_quantise_zero_block : (exampleCodes 60).scale = 0 ∧ (exampleCodes 60).count = { blocks := 1, zero := 1 } := by
  decide +kernel
/-- The published check value of CRC-32C (Castagnoli), of "123456789". -/
theorem test_crc32c : crc32c ((List.range 9).map (fun i => BitVec.ofNat 8 (0x31 + i))) = 0xE3069283 := by decide +kernel
/-- FIPS 180-4's example of SHA-512, "abc": its first four bytes. -/
theorem test_sha512 : (sha512 [0x61, 0x62, 0x63]).take 4 = [0xDD, 0xAF, 0x35, 0xA1] := by decide +kernel
/-- The worked example of a row sum: 2^24 + 1 is a tie, and goes to the even significand; and its mean. -/
theorem test_add_tie : fAdd 0x4B800000 0x3F800000 = 0x4B800000 ∧ fAdd 0x4B800000 0x40000000 = 0x4B800001 := by decide +kernel
theorem test_div : fDiv 0x4B800001 0x43480000 = 0x47A3D70C ∧ fDiv 0x3F800000 0 = 0x7F800000 := by decide +kernel
/-- Tables 01-4 and 18-1: fields with their reset values. -/
theorem test_reset_period : State.reset.get F.LOCK_PERIOD_PERIOD_US = 200 ∧ State.reset.get F.BOOT_STATUS_STATE = 0 := by decide +kernel
/-- R298: a stack's step by temperature. -/
theorem test_thermal_step : thermalStep 0 84 = 0 ∧ thermalStep 1 82 = 1 ∧ thermalStep 0 105 = 4 := by decide +kernel
/-- The worked example of R272 and R273: the draw decides between remainders −32 and −33. -/
def exampleUpdate (draw : BitVec 32) : NewElem :=
  updateElem true false ⟨0x3A83126F, 0x3F600000, 0x3F700000, 0x30800000, 0, 0x41000000, 0x40800000, 0x3F800000, 0x3F800000⟩
    0x3F800000 draw ⟨0x3F000000, 0x3F80, 0, 0, 0⟩
theorem test_adam : exampleUpdate 0x3B7FFFFF = ⟨0x3F80, -32, 0x3D800000, 0x3E000000, false⟩ := by decide +kernel
theorem test_adam_draw : (exampleUpdate 0x3B800000).rem = -33 := by decide +kernel
/-- R3: a word that no table lists reads as 0; R1: DEVICE_ID reads whole. -/
theorem test_unlisted_read : (match exec (.reg64LowHalfRead ⟨0x3FFFFF8, 4⟩) live with
    | .next t => t.out == [.busReply 0]
    | _ => false) = true := by decide +kernel
/-- R197: 2^−150 is the tie between +0 and the least subnormal, and goes to +0; 2^−149 is that subnormal. -/
theorem test_exp2_tie : fExp2 0xC3160000 = 0 ∧ fExp2 0xC3150000 = 1 := by decide +kernel

end Sys2Proof.Tests
end

section
/-! Host accesses to registers (R3 to R5): which words a row of the register map takes, what a refused access leaves, how
the halves of a 64-bit register are read and written, and that nothing which follows a commit writes the register
committed. -/

namespace Sys2Proof.Machine

/-! ## The rows of the register map -/

theorem regRow_of_misaligned {a : Nat} (h : a % 4 ≠ 0) : regRow a = none := by
  unfold regRow
  rw [if_neg h]

/-- A misaligned offset lies in no row, so an access is refused by its row or by its size. -/
theorem refused_of_unfit {a size : Nat} (h : regRow a = none ∨ size ≠ 4 ∨ a % 4 ≠ 0) : regRow a = none ∨ size ≠ 4 :=
  h.elim .inl (·.elim .inr (.inl ∘ regRow_of_misaligned))

theorem findRow_eq_some {rs : List RegRow} {a h : Nat} {r : RegRow} {is : List Nat} (e : findRow rs a = some (r, is, h)) :
    r ∈ rs ∧ rowAt r a = some (is, h) := by
  induction rs with
  | nil => cases e
  | cons q rs ih =>
    unfold findRow at e
    split at e
    · rename_i hit
      cases e
      exact ⟨List.mem_cons_self, hit⟩
    · exact ⟨List.mem_cons_of_mem _ (ih e).1, (ih e).2⟩

theorem regRow_eq_some {a h : Nat} {r : RegRow} {is : List Nat} (e : regRow a = some (r, is, h)) :
    a % 4 = 0 ∧ r ∈ blockRows a ∧ rowAt r a = some (is, h) := by
  unfold regRow at e
  split at e
  · rename_i aligned
    exact ⟨aligned, findRow_eq_some e⟩
  · cases e

/-- The rows of every register block; none in a reserved one. -/
def regBlocks : List (List RegRow) :=
  [globalRows, lockRows, formatRows, scaleRows, computeRows, vectorRows, attnRows, trainRows, memRows, linkRows, healthRows,
    recorderRows, bootRows, lkRows, moduleRows, []]

theorem blockRows_mem_regBlocks (a : Nat) : blockRows a ∈ regBlocks := by
  unfold blockRows
  split <;> simp [regBlocks]

/-- The indices of the registers whose commit has an effect of its own: none for MEM_XLATE_ADDR, the context for the bases
of the queues. -/
theorem commitRows_dims : ∀ rows ∈ regBlocks, ∀ r ∈ rows, (r.base = R.MEM_XLATE_ADDR → r.dims = []) ∧
    (r.base = R.LK_SQ_BASE 0 ∨ r.base = R.LK_CQ_BASE 0 → r.dims = [(8, 0x40)]) := by decide +kernel

theorem rowAt_low {r : RegRow} {a : Nat} {is : List Nat} (e : rowAt r a = some (is, 0)) :
    r.base ≤ a ∧ dimIndices r.dims (a - r.base) = some (is, 0) := by
  unfold rowAt at e
  split at e
  · rename_i above
    split at e
    · rename_i is' rest found
      split at e
      · rename_i low
        cases e
        exact ⟨above, low ▸ found⟩
      · split at e <;> cases e
    · cases e
  · cases e

theorem rowAt_low_of_single {r : RegRow} {a : Nat} {is : List Nat} (d : r.dims = []) (e : rowAt r a = some (is, 0)) :
    a = r.base := by
  obtain ⟨above, found⟩ := rowAt_low e
  rw [d, dimIndices, Option.some.injEq, Prod.mk.injEq] at found
  omega

theorem rowAt_low_of_array {r : RegRow} {a n k : Nat} {is : List Nat} (d : r.dims = [(n, k)])
    (e : rowAt r a = some (is, 0)) : a = r.base + k * is.headD 0 := by
  obtain ⟨above, found⟩ := rowAt_low e
  rw [d] at found
  simp only [dimIndices] at found
  split at found
  · rw [Option.some.injEq, Prod.mk.injEq] at found
    obtain ⟨index, rest⟩ := found
    have split := Nat.div_add_mod (a - r.base) k
    rw [← index, List.headD_cons]
    omega
  · cases found

/-- Where a low half lies whose commit has an effect of its own. -/
theorem commitRow_offset {a : Nat} {r : RegRow} {is : List Nat} (row : regRow a = some (r, is, 0)) :
    (r.base = R.MEM_XLATE_ADDR → a = R.MEM_XLATE_ADDR) ∧
    (r.base = R.LK_SQ_BASE 0 → a = R.LK_SQ_BASE (is.headD 0)) ∧
    (r.base = R.LK_CQ_BASE 0 → a = R.LK_CQ_BASE (is.headD 0)) := by
  obtain ⟨-, mem, at_⟩ := regRow_eq_some row
  obtain ⟨single, array⟩ := commitRows_dims _ (blockRows_mem_regBlocks a) r mem
  refine ⟨fun b => ?_, fun b => ?_, fun b => ?_⟩
  · rw [rowAt_low_of_single (single b) at_, b]
  · rw [rowAt_low_of_array (array (.inl b)) at_, b]
  · rw [rowAt_low_of_array (array (.inr b)) at_, b]

theorem aligned_of_wideHalf {a h : Nat} (e : wideHalf a = some h) : a % 4 = 0 := by
  unfold wideHalf at e
  split at e
  · rename_i row
    exact (regRow_eq_some row).1
  · cases e

theorem wideHalf_of_reserved {a : Nat} (h : regRow a = none) : wideHalf a = none := by
  unfold wideHalf
  rw [h]

theorem regReadValue_of_reserved {a : Nat} (h : regRow a = none) (v : Word) : regReadValue a v = 0 := by
  unfold regReadValue
  rw [h]

theorem regAfterRead_of_reserved {a : Nat} (h : regRow a = none) (v : Word) : regAfterRead a v = v := by
  unfold regAfterRead
  rw [h]

theorem lookup_erase_append_same {α : Type} (t : List (Nat × α)) (k : Nat) (v : α) :
    (tblErase t k ++ [(k, v)]).lookup k = some v := by
  rw [List.lookup_append, lookup_filter_ne, Option.none_or, List.lookup_cons_self]

variable (s : State)

/-! ## What a write of a word does -/

theorem reg_setReg_self (a b : Nat) : (s.setReg a (s.reg a)).reg b = s.reg b := tblGet_set_self _ _ _ _

theorem reg_hostWrite_same (a : Nat) (w : Word) : (s.hostWrite a w).reg a = regAfterWrite a (s.reg a) w :=
  reg_setReg_same _ _ _

theorem reg_hostWrite_other {a b : Nat} (w : Word) (h : b ≠ a) : (s.hostWrite a w).reg b = s.reg b :=
  reg_setReg_other _ _ h

@[simp] theorem served_holdLow (a b : Nat) (w : Word) : (s.holdLow a w).served b = s.served b := rfl

@[simp] theorem baseLocked_holdLow (a b : Nat) (w : Word) (is : List Nat) :
    (s.holdLow a w).baseLocked b is = s.baseLocked b is := rfl

@[simp] theorem reg_holdLow (a b : Nat) (w : Word) : (s.holdLow a w).reg b = s.reg b := rfl

theorem heldLows_holdLow_same (a : Nat) (w : Word) : (s.holdLow a w).heldLows.lookup a = some w :=
  lookup_erase_append_same _ _ _

/-- R5: with a low half held, the write of the high half changes both. -/
theorem reg_commitHigh_of_held {a : Nat} {lo : Word} (hi : Word) (held : s.heldLows.lookup a = some lo) :
    (s.commitHigh a hi).reg a = regAfterWrite a (s.reg a) lo ∧
    (s.commitHigh a hi).reg (a + 4) = regAfterWrite (a + 4) (s.reg (a + 4)) hi := by
  unfold State.commitHigh
  rw [held]
  dsimp only
  rw [reg_hostWrite_other _ hi (by omega), reg_hostWrite_same, reg_hostWrite_same, reg_hostWrite_other _ lo (by omega)]
  exact ⟨rfl, rfl⟩

/-- R5: without one, it changes the high half alone. -/
theorem reg_commitHigh_of_unheld {a : Nat} (hi : Word) (unheld : s.heldLows.lookup a = none) :
    (s.commitHigh a hi).reg a = s.reg a ∧
    (s.commitHigh a hi).reg (a + 4) = regAfterWrite (a + 4) (s.reg (a + 4)) hi := by
  unfold State.commitHigh
  rw [unheld]
  dsimp only
  rw [reg_hostWrite_other _ hi (by omega), reg_hostWrite_same]
  exact ⟨rfl, rfl⟩

/-! ## What follows a commit -/

theorem reg_showXlate_other {b : Nat} (h : b ≠ R.MEM_XLATE_RESULT) : s.showXlate.reg b = s.reg b := by
  unfold State.showXlate
  dsimp only
  split <;> exact reg_setReg_other _ _ h

theorem reg_restartSq_other {b c : Nat} (head : b ≠ R.LK_SQ_HEAD c) (tail : b ≠ R.LK_SQ_TAIL c) :
    (s.restartSq c).reg b = s.reg b :=
  (reg_put_other (s.put (F.LK_SQ_HEAD_HEAD c) 0) 0 tail).trans (reg_put_other s 0 head)

theorem reg_cqWrite_other {b c : Nat} (r : BitVec 256) (tail : b ≠ R.LK_CQ_TAIL c) (quiet : postingReg b = false) :
    (s.cqWrite c r).reg b = s.reg b := by
  unfold State.cqWrite
  refine (reg_raise _ _ quiet).trans ?_
  split
  · rw [State.updCtx_reg, reg_put_other _ _ tail, State.emit_reg]
  · rw [reg_put_other _ _ tail, State.emit_reg]

theorem reg_cqFlush_other {b c : Nat} (tail : b ≠ R.LK_CQ_TAIL c) (quiet : postingReg b = false) (n : Nat) :
    (s.cqFlush c n).reg b = s.reg b := by
  induction n generalizing s with
  | zero => rfl
  | succ n ih =>
    unfold State.cqFlush
    split
    · rfl
    · split
      · rfl
      · rw [ih, reg_cqWrite_other _ _ tail quiet]
        rfl

theorem reg_restartCq_other {b c : Nat} (head : b ≠ R.LK_CQ_HEAD c) (tail : b ≠ R.LK_CQ_TAIL c)
    (quiet : postingReg b = false) : (s.restartCq c).reg b = s.reg b := by
  unfold State.restartCq
  rw [reg_cqFlush_other _ tail quiet]
  exact (reg_put_other (s.put (F.LK_CQ_HEAD_HEAD c) 0) 0 tail).trans (reg_put_other s 0 head)

theorem commitEffects_cases {base : Nat} {f : List Nat → State → State} (h : commitEffects.lookup base = some f) :
    (base = R.MEM_XLATE_ADDR ∧ f = fun _ s => s.showXlate) ∨
    (base = R.LK_SQ_BASE 0 ∧ f = fun is s => s.restartSq (is.headD 0)) ∨
    (base = R.LK_CQ_BASE 0 ∧ f = fun is s => s.restartCq (is.headD 0)) := by
  obtain ⟨l, l', e, -⟩ := List.lookup_eq_some_iff.1 h
  have mem : (base, f) ∈ commitEffects := by rw [e]; exact List.mem_append_right _ List.mem_cons_self
  simpa only [commitEffects, List.mem_cons, List.not_mem_nil, or_false, Prod.mk.injEq] using mem

/-- What a completion's interrupt or an event writes lies below the registers of the queues. -/
theorem postingReg_of_queue {b : Nat} (h : R.LK_SQ_BASE 0 ≤ b) : postingReg b = false := by
  simp only [postingReg, List.contains_eq_mem, List.mem_cons, List.not_mem_nil, or_false, decide_eq_false_iff_not]
  simp only [R.LK_SQ_BASE, R.RECORDER_UPDATES, R.RECORDER_COUNT, R.RECORDER_STATUS, R.RECORDER_LOST, R.RECORDER_FIRST_LOST,
    R.MSIX_PBA] at *
  omega

/-- What follows the commit of a register leaves the register committed alone. -/
theorem reg_commitEffect {a b : Nat} {r : RegRow} {is : List Nat} {f : List Nat → State → State}
    (row : regRow a = some (r, is, 0)) (effect : commitEffects.lookup r.base = some f) (half : b = a ∨ b = a + 4) :
    (f is s).reg b = s.reg b := by
  obtain ⟨xlate, sq, cq⟩ := commitRow_offset row
  obtain ⟨base, rfl⟩ | ⟨base, rfl⟩ | ⟨base, rfl⟩ := commitEffects_cases effect
  · have offset : a = 0xe00050 := xlate base
    exact reg_showXlate_other s (show b ≠ 0xe00058 by omega)
  · have offset : a = 0x1b01000 + 0x40 * is.headD 0 := sq base
    exact reg_restartSq_other s (show b ≠ 0x1b01010 + _ by omega) (show b ≠ 0x1b0100c + _ by omega)
  · have offset : a = 0x1b01018 + 0x40 * is.headD 0 := cq base
    exact reg_restartCq_other s (show b ≠ 0x1b01024 + _ by omega) (show b ≠ 0x1b01028 + _ by omega)
      (postingReg_of_queue (show 0x1b01000 ≤ b by omega))

/-! ## Writes of the host -/

/-- R3, R4: a write to a reserved offset, or of another size, does nothing. -/
theorem hostStore_of_refused {a size : Nat} (w : Word) (h : regRow a = none ∨ size ≠ 4) : s.hostStore a size w = s := by
  unfold State.hostStore
  split
  · rename_i fit
    have reserved := h.resolve_right (not_not.2 fit.1)
    unfold State.writeRegister
    rw [reserved]
  · rfl

theorem hostStore_of_served {a : Nat} (w : Word) (aligned : a % 4 = 0) (served : s.served a = true) :
    s.hostStore a 4 w = s.writeRegister a w := by
  unfold State.hostStore
  rw [if_pos ⟨rfl, aligned, served⟩]

theorem writeRegister_low {a : Nat} {r : RegRow} {is : List Nat} (w : Word) (row : regRow a = some (r, is, 0))
    (wide : r.wide = true) (free : s.baseLocked r.base is = false) : s.writeRegister a w = s.holdLow a w := by
  unfold State.writeRegister
  simp [row, wide, free]

theorem reg_writeRegister_high {a b : Nat} {r : RegRow} {is : List Nat} (w : Word) (low : regRow a = some (r, is, 0))
    (high : regRow (a + 4) = some (r, is, 1)) (wide : r.wide = true) (free : s.baseLocked r.base is = false)
    (half : b = a ∨ b = a + 4) : (s.writeRegister (a + 4) w).reg b = (s.commitHigh a w).reg b := by
  unfold State.writeRegister
  simp only [high, free, wide, Bool.false_eq_true, if_false, if_true, Nat.one_ne_zero, Nat.add_sub_cancel]
  split
  · rename_i effect
    exact reg_commitEffect _ low effect half
  · rfl

/-! ## Reads of the host -/

theorem lkServes_of_served {s : State} {a : Nat} (h : s.served a = true) : s.lkServes = true := by
  unfold State.served at h
  exact (Bool.and_eq_true_iff.1 h).1

theorem exec_reg64LowHalfRead_of_lkServes (x : RegRead) (h : s.lkServes = true) :
    exec (.reg64LowHalfRead x) s = .next (s.readRegister x.offset x.size) := by
  rw [exec_reg64LowHalfRead, execReg64LowHalfRead, State.onLk, if_pos h]

theorem exec_reg64HighHalfRead_of_lkServes (x : RegRead) (h : s.lkServes = true) :
    exec (.reg64HighHalfRead x) s = .next (s.readRegister x.offset x.size) := by
  rw [exec_reg64HighHalfRead, execReg64HighHalfRead, State.onLk, if_pos h]

/-- R3, R4: a read of a reserved offset, or of another size, returns 0; at most it writes a word back as it is. -/
theorem readRegister_of_refused {a size : Nat} (h : regRow a = none ∨ size ≠ 4) :
    s.readRegister a size = s.emit (.busReply 0) ∨
    s.readRegister a size = (s.emit (.busReply 0)).setReg a ((s.emit (.busReply 0)).reg a) := by
  unfold State.readRegister
  split
  · exact .inl rfl
  · rename_i fit
    have reserved : regRow a = none := h.resolve_right (by simp_all)
    rw [wideHalf_of_reserved reserved, regReadValue_of_reserved reserved, regAfterRead_of_reserved reserved]
    exact .inr rfl

/-- R3: such a read returns 0 and changes nothing. -/
theorem readRegister_of_refused_frame {a size : Nat} (h : regRow a = none ∨ size ≠ 4) :
    (s.readRegister a size).out = .busReply 0 :: s.out ∧ (∀ b, (s.readRegister a size).reg b = s.reg b) ∧
    { s.readRegister a size with regs := s.regs, out := s.out } = s := by
  obtain e | e := readRegister_of_refused s h
  · rw [e]
    exact ⟨rfl, fun _ => rfl, rfl⟩
  · rw [e]
    exact ⟨rfl, fun b => reg_setReg_self _ a b, rfl⟩

/-- R5: a read of a low half returns it and latches the high half. -/
theorem readRegister_low {a : Nat} (low : wideHalf a = some 0) (served : s.served a = true) :
    s.readRegister a 4 = (s.emit (.busReply (regReadValue a (s.reg a)))).latch a := by
  unfold State.readRegister
  simp [low, served, aligned_of_wideHalf low]

/-- R5: a read of a high half returns what is latched, once. -/
theorem readRegister_high {a : Nat} (high : wideHalf (a + 4) = some 1) (served : s.served (a + 4) = true) :
    s.readRegister (a + 4) 4 = (s.emit (.busReply (s.highHalf a))).unlatch a := by
  unfold State.readRegister
  simp [high, served, aligned_of_wideHalf high]

theorem latches_latch_same (a : Nat) :
    (s.latch a).latches.lookup a = some (regReadValue (a + 4) (s.reg (a + 4))) := lookup_erase_append_same _ _ _

theorem highHalf_of_latched {a : Nat} {v : Word} (h : s.latches.lookup a = some v) : s.highHalf a = v := by
  unfold State.highHalf
  rw [h, Option.getD_some]

theorem latches_unlatch_same (a : Nat) : (s.unlatch a).latches.lookup a = none := lookup_filter_ne _ _

end Sys2Proof.Machine
end

section
/-! The statements about accesses to registers, settled. -/

namespace Sys2Proof.Machine

/-- R5, reads: the high half latched is what the next read of it returns. -/
theorem wideRead_latches (a : Nat) (s : State) (low : wideHalf a = some 0) (high : wideHalf (a + 4) = some 1)
    (served : s.served a = true) :
    ∃ t, exec (.reg64LowHalfRead ⟨a, 4⟩) s = .next t ∧ t.out = .busReply (regReadValue a (s.reg a)) :: s.out ∧
      t.regs = s.regs ∧
      ∀ u : State, u.latches = t.latches → u.served (a + 4) = true →
        ∃ v, exec (.reg64HighHalfRead ⟨a + 4, 4⟩) u = .next v ∧
          v.out = .busReply (regReadValue (a + 4) (s.reg (a + 4))) :: u.out ∧ v.regs = u.regs ∧
          v.latches.lookup a = none := by
  refine ⟨_, exec_reg64LowHalfRead_of_lkServes s _ (lkServes_of_served served), ?_⟩
  rw [readRegister_low s low served]
  refine ⟨rfl, rfl, fun u kept served' => ⟨_, exec_reg64HighHalfRead_of_lkServes u _ (lkServes_of_served served'), ?_⟩⟩
  have latched : u.highHalf a = regReadValue (a + 4) (s.reg (a + 4)) :=
    highHalf_of_latched u (by rw [kept]; exact latches_latch_same _ a)
  rw [readRegister_high u high served', latched]
  exact ⟨rfl, rfl, latches_unlatch_same _ a⟩

/-- The row of a 64-bit register that a host may write, both of its halves being served. -/
structure WritableWide (s : State) (a : Nat) (r : RegRow) (is : List Nat) : Prop where
  low : regRow a = some (r, is, 0)
  high : regRow (a + 4) = some (r, is, 1)
  wide : r.wide = true
  lowServed : s.served a = true
  highServed : s.served (a + 4) = true
  free : s.baseLocked r.base is = false

variable {s : State} {a : Nat} {r : RegRow} {is : List Nat}

theorem WritableWide.holdLow (h : WritableWide s a r is) (lo : Word) : WritableWide (s.holdLow a lo) a r is :=
  { h with }

theorem WritableWide.exec_low (h : WritableWide s a r is) (lo : Word) :
    exec (.reg64LowHalfWrite a lo) s = .next (s.holdLow a lo) := by
  obtain ⟨aligned, -⟩ := regRow_eq_some h.low
  rw [exec_reg64LowHalfWrite, execReg64LowHalfWrite, hostStore_of_served s lo aligned h.lowServed,
    writeRegister_low s lo h.low h.wide h.free]

/-- The write of the high half leaves both halves as the commit does. -/
theorem WritableWide.exec_high (h : WritableWide s a r is) (hi : Word) :
    ∃ u, exec (.reg64HighHalfWrite (a + 4) hi) s = .next u ∧ u.reg a = (s.commitHigh a hi).reg a ∧
      u.reg (a + 4) = (s.commitHigh a hi).reg (a + 4) := by
  obtain ⟨aligned, -⟩ := regRow_eq_some h.high
  refine ⟨s.writeRegister (a + 4) hi, ?_, ?_, ?_⟩
  · rw [exec_reg64HighHalfWrite, execReg64HighHalfWrite, hostStore_of_served s hi aligned h.highServed]
  · exact reg_writeRegister_high s hi h.low h.high h.wide h.free (.inl rfl)
  · exact reg_writeRegister_high s hi h.low h.high h.wide h.free (.inr rfl)

/-- R5: a low half written and then a high half change the register to both at once. -/
theorem WritableWide.write_both (h : WritableWide s a r is) (lo hi : Word) :
    ∃ t u, exec (.reg64LowHalfWrite a lo) s = .next t ∧ t.regs = s.regs ∧
      exec (.reg64HighHalfWrite (a + 4) hi) t = .next u ∧
      u.reg a = regAfterWrite a (s.reg a) lo ∧ u.reg (a + 4) = regAfterWrite (a + 4) (s.reg (a + 4)) hi := by
  obtain ⟨u, run, low, high⟩ := (h.holdLow lo).exec_high hi
  obtain ⟨low', high'⟩ := reg_commitHigh_of_held (s.holdLow a lo) hi (heldLows_holdLow_same s a lo)
  exact ⟨_, u, h.exec_low lo, rfl, run, low.trans low', high.trans high'⟩

/-- R5: a high half written alone changes itself alone. -/
theorem WritableWide.write_high (h : WritableWide s a r is) (hi : Word) (unheld : s.heldLows.lookup a = none) :
    ∃ u, exec (.reg64HighHalfWrite (a + 4) hi) s = .next u ∧
      u.reg a = s.reg a ∧ u.reg (a + 4) = regAfterWrite (a + 4) (s.reg (a + 4)) hi := by
  obtain ⟨u, run, low, high⟩ := h.exec_high hi
  obtain ⟨low', high'⟩ := reg_commitHigh_of_unheld s hi unheld
  exact ⟨u, run, low.trans low', high.trans high'⟩

end Sys2Proof.Machine

namespace Sys2Proof.Proofs
open Sys2Proof Sys2Proof.Machine

/-- Settles O7, from the latch of a read, and from the frame of what follows a commit for the writes. -/
theorem wideRegisters : Obligations.WideRegisters := by
  unfold Obligations.WideRegisters
  refine ⟨fun a s low high served _ => wideRead_latches a s low high served, ?_⟩
  intro a lo hi r is s low high wide _ lowServed highServed free
  have writable : WritableWide s a r is := ⟨low, high, wide, lowServed, highServed, free⟩
  exact ⟨writable.write_both lo hi, writable.write_high hi⟩

/-- Settles O6: a misaligned offset has no row, so an access is refused by its row or by its size. -/
theorem onlyKnownAlignedWords : Obligations.OnlyKnownAlignedWords := by
  unfold Obligations.OnlyKnownAlignedWords
  intro a size w s
  refine ⟨fun h => ?_, fun h => ?_, fun h serves c hc => ?_⟩
  · rw [exec_registerWrite, execRegisterWrite, hostStore_of_refused s w (refused_of_unfit h)]
  · have reserved := h.elim id regRow_of_misaligned
    rw [exec_reg64LowHalfWrite, execReg64LowHalfWrite, exec_reg64HighHalfWrite, execReg64HighHalfWrite,
      hostStore_of_refused s w (.inl reserved)]
    exact ⟨rfl, rfl⟩
  · have frame := readRegister_of_refused_frame s (refused_of_unfit h)
    simp only [List.mem_cons, List.not_mem_nil, or_false] at hc
    obtain rfl | rfl := hc
    · exact ⟨_, exec_reg64LowHalfRead_of_lkServes s _ serves, frame⟩
    · exact ⟨_, exec_reg64HighHalfRead_of_lkServes s _ serves, frame⟩

end Sys2Proof.Proofs
end

section
/-! Rounding a quantity up to UE5M3 (R68): the exact order of finite values is that of the numbers they stand for, and the
search from code 0x01 stops at the first code that reaches the quantity. -/

namespace Sys2Proof.Machine

/-! ## The number that a finite value stands for -/

theorem Fv.exists_fin_of_isFin {x : Fv} (h : x.isFin = true) : ∃ s m e, x = .fin s m e := by
  cases x with
  | nan => cases h
  | inf s => cases h
  | fin s m e => exact ⟨s, m, e, rfl⟩

theorem cast_alignTo_mul (m : Nat) {e u : Int} (h : u ≤ e) : (alignTo m e u : ℚ) * 2 ^ u = m * 2 ^ e := by
  have shift : ((e - u).toNat : Int) + u = e := by omega
  unfold alignTo
  rw [Nat.cast_mul, Nat.cast_pow, Nat.cast_ofNat, mul_assoc, ← zpow_natCast, ← zpow_add₀ two_ne_zero, shift]

theorem Fv.rat_fin_eq_aligned (s : Bool) (m : Nat) {e u : Int} (h : u ≤ e) :
    (Fv.fin s m e).rat = signedOf s (alignTo m e u) * 2 ^ u := by
  unfold Fv.rat signedOf
  cases s
  · simp [cast_alignTo_mul m h]
  · simp [cast_alignTo_mul m h]

theorem finCmp_eq_lt_iff (a : Bool) (m : Nat) (e : Int) (b : Bool) (n : Nat) (f : Int) :
    finCmp a m e b n f = .lt ↔ (Fv.fin a m e).rat < (Fv.fin b n f).rat := by
  unfold finCmp
  rw [compare_lt_iff_lt, Fv.rat_fin_eq_aligned a m (min_le_left e f), Fv.rat_fin_eq_aligned b n (min_le_right e f),
    mul_lt_mul_iff_left₀ (by positivity), Int.cast_lt]

theorem fvGe_fin_iff (a : Bool) (m : Nat) (e : Int) (b : Bool) (n : Nat) (f : Int) :
    fvGe (.fin a m e) (.fin b n f) = true ↔ finCmp a m e b n f ≠ .lt := by
  simp only [fvGe, Fv.cmp]
  cases finCmp a m e b n f <;> decide

theorem fvGe_iff {x y : Fv} (hx : x.isFin = true) (hy : y.isFin = true) : fvGe x y = true ↔ y.rat ≤ x.rat := by
  obtain ⟨a, m, e, rfl⟩ := Fv.exists_fin_of_isFin hx
  obtain ⟨b, n, f, rfl⟩ := Fv.exists_fin_of_isFin hy
  rw [fvGe_fin_iff, ne_eq, finCmp_eq_lt_iff, not_lt]

theorem Fv.isZero_iff {x : Fv} (h : x.isFin = true) : x.isZero = true ↔ x.rat = 0 := by
  obtain ⟨s, m, e, rfl⟩ := Fv.exists_fin_of_isFin h
  have power : (2 : ℚ) ^ e ≠ 0 := zpow_ne_zero e two_ne_zero
  unfold Fv.isZero Fv.rat
  cases s <;> simp [power]

theorem Fv.mul_one_of_isFin {x : Fv} (h : x.isFin = true) : x.mul (.fin false 1 0) = x := by
  obtain ⟨s, m, e, rfl⟩ := Fv.exists_fin_of_isFin h
  simp [Fv.mul]

/-! ## The values of the codes -/

theorem ue5m3_subnormal {c : Nat} (h : c / 8 = 0) : ue5m3 c = .fin false (c % 8) (-17) := by
  unfold ue5m3
  rw [if_neg (by omega), if_pos h]

theorem ue5m3_normal {c : Nat} (nan : c ≠ 0xFF) (h : c / 8 ≠ 0) :
    ue5m3 c = .fin false (8 + c % 8) ((c / 8 : Nat) - 18) := by
  unfold ue5m3
  rw [if_neg nan, if_neg h]

theorem isFin_ue5m3 {c : Nat} (nan : c ≠ 0xFF) : (ue5m3 c).isFin = true := by
  by_cases h : c / 8 = 0
  · rw [ue5m3_subnormal h]
    rfl
  · rw [ue5m3_normal nan h]
    rfl

/-- R67: code 0xFE has the largest value. -/
theorem rat_ue5m3_largest : (ue5m3 0xFE).rat = 114688 := by
  norm_num [ue5m3, Fv.rat]

/-- The numbers of nonnegative values are ordered as their significands and exponents are. -/
theorem Fv.rat_le_of_le {m n : Nat} {e f : Int} (sig : m ≤ n) (ex : e ≤ f) :
    (Fv.fin false m e).rat ≤ (Fv.fin false n f).rat := by
  have sig' : (m : ℚ) ≤ n := Nat.cast_le.2 sig
  have ex' : (2 : ℚ) ^ e ≤ 2 ^ f := zpow_le_zpow_right₀ one_le_two ex
  unfold Fv.rat
  simpa using mul_le_mul sig' ex' (by positivity) (by positivity)

/-- R67: the largest value, 14 × 2^13, has the largest exponent; below it the significand is at most 15. -/
theorem rat_ue5m3_le {c : Nat} (h : c ≤ 0xFE) : (ue5m3 c).rat ≤ 114688 := by
  have top : (Fv.fin false 14 13).rat = 114688 := by norm_num [Fv.rat]
  have below : (Fv.fin false 15 12).rat ≤ 114688 := by norm_num [Fv.rat]
  by_cases sub : c / 8 = 0
  · rw [ue5m3_subnormal sub]
    exact (Fv.rat_le_of_le (by omega) (by omega)).trans below
  · rw [ue5m3_normal (by omega) sub]
    by_cases last : c / 8 = 31
    · exact (Fv.rat_le_of_le (by omega) (by omega)).trans top.le
    · exact (Fv.rat_le_of_le (by omega) (by omega)).trans below

/-! ## The search -/

/-- The search ends at the first code that reaches `x`, or saturates when none of its codes does. -/
theorem ue5m3Search_cases (x unit : Fv) (n c : Nat) :
    (∃ k, ue5m3Search x unit n c = (k, false) ∧ c ≤ k ∧ k < c + n ∧ fvGe ((ue5m3 k).mul unit) x = true ∧
      ∀ d, c ≤ d → d < k → ¬ fvGe ((ue5m3 d).mul unit) x = true) ∨
    (ue5m3Search x unit n c = (0xFE, true) ∧ ∀ d, c ≤ d → d < c + n → ¬ fvGe ((ue5m3 d).mul unit) x = true) := by
  induction n generalizing c with
  | zero => exact .inr ⟨rfl, fun d low high => by omega⟩
  | succ n ih =>
    unfold ue5m3Search
    by_cases reaches : fvGe ((ue5m3 c).mul unit) x = true
    · rw [if_pos reaches]
      exact .inl ⟨c, rfl, le_rfl, by omega, reaches, fun d low high => by omega⟩
    · rw [if_neg reaches]
      have fails_from {b : Nat} (later : ∀ d, c + 1 ≤ d → d < b → ¬ fvGe ((ue5m3 d).mul unit) x = true) :
          ∀ d, c ≤ d → d < b → ¬ fvGe ((ue5m3 d).mul unit) x = true := fun d low high =>
        (Nat.eq_or_lt_of_le low).elim (fun e => e ▸ reaches) (fun above => later d above high)
      obtain ⟨k, found, low, high, hit, first⟩ | ⟨saturated, unreached⟩ := ih (c + 1)
      · exact .inl ⟨k, found, by omega, by omega, hit, fails_from first⟩
      · exact .inr ⟨saturated, fails_from fun d low high => unreached d low (by omega)⟩

variable {x : Fv}

theorem ue5m3Up_of_not_isFin (unit : Fv) (h : x.isFin = false) : ue5m3Up x unit = (0xFF, false) := by
  unfold ue5m3Up
  simp [h]

theorem ue5m3Up_of_rat_eq_zero (unit : Fv) (hx : x.isFin = true) (zero : x.rat = 0) : ue5m3Up x unit = (0, false) := by
  unfold ue5m3Up
  simp [hx, (Fv.isZero_iff hx).2 zero]

theorem ue5m3Up_of_rat_ne_zero (unit : Fv) (hx : x.isFin = true) (nonzero : x.rat ≠ 0) :
    ue5m3Up x unit = ue5m3Search x unit 254 1 := by
  unfold ue5m3Up
  simp [hx, mt (Fv.isZero_iff hx).1 nonzero]

theorem fvGe_ue5m3_iff (hx : x.isFin = true) {c : Nat} (nan : c ≠ 0xFF) :
    fvGe ((ue5m3 c).mul (.fin false 1 0)) x = true ↔ x.rat ≤ (ue5m3 c).rat := by
  have fin := isFin_ue5m3 nan
  rw [Fv.mul_one_of_isFin fin, fvGe_iff fin hx]

/-- R68: a nonzero number takes the least code from 0x01 to 0xFE whose value reaches it, and saturates when no value
does. -/
theorem ue5m3Up_one_cases (hx : x.isFin = true) (nonzero : x.rat ≠ 0) :
    (∃ c, ue5m3Up x (.fin false 1 0) = (c, false) ∧ 1 ≤ c ∧ c ≤ 0xFE ∧ x.rat ≤ (ue5m3 c).rat ∧
      ∀ d, 1 ≤ d → d < c → (ue5m3 d).rat < x.rat) ∨
    (ue5m3Up x (.fin false 1 0) = (0xFE, true) ∧ ∀ d, 1 ≤ d → d ≤ 0xFE → (ue5m3 d).rat < x.rat) := by
  have fails {d : Nat} (code : d ≤ 0xFE) (h : ¬ fvGe ((ue5m3 d).mul (.fin false 1 0)) x = true) :
      (ue5m3 d).rat < x.rat := by
    rwa [fvGe_ue5m3_iff hx (by omega), not_le] at h
  rw [ue5m3Up_of_rat_ne_zero _ hx nonzero]
  obtain ⟨c, found, low, high, hit, first⟩ | ⟨saturated, unreached⟩ := ue5m3Search_cases x (.fin false 1 0) 254 1
  · refine .inl ⟨c, found, low, by omega, (fvGe_ue5m3_iff hx (by omega)).1 hit, fun d ge lt => ?_⟩
    exact fails (by omega) (first d ge lt)
  · exact .inr ⟨saturated, fun d ge le => fails le (unreached d ge (by omega))⟩

end Sys2Proof.Machine

namespace Sys2Proof.Proofs
open Sys2Proof Sys2Proof.Machine

/-- Settles O34: the search finds the least code that reaches `x`, and 0xFE, the largest value, tells whether there is
one. -/
theorem ue5m3RoundUp : Obligations.Ue5m3RoundUp := by
  unfold Obligations.Ue5m3RoundUp
  refine fun x => ⟨fun hx positive small => ?_, ue5m3Up_of_rat_eq_zero _, fun hx large => ?_, fun h => ?_⟩
  · refine (ue5m3Up_one_cases hx positive.ne').resolve_right fun ⟨_, unreached⟩ => ?_
    exact absurd (unreached 0xFE (by omega) le_rfl) (by rw [rat_ue5m3_largest]; exact small.not_gt)
  · have nonzero : x.rat ≠ 0 := ((by norm_num : (0 : ℚ) < 114688).trans large).ne'
    obtain ⟨c, -, -, code, reaches, -⟩ | ⟨saturated, -⟩ := ue5m3Up_one_cases hx nonzero
    · exact absurd (reaches.trans (rat_ue5m3_le code)) large.not_ge
    · exact saturated
  · rw [ue5m3Up_of_not_isFin _ h]

end Sys2Proof.Proofs
end
